-- ==== Sys2Proof/Word.lean ====
section
/-! DEFINITION. Words of the block: bytes, and fixed tables of like things (twelve slots, four ports, 32 channels). -/

namespace Sys2Proof

/-- One byte of a packet, a record or chassis memory. -/
abbrev Byte := BitVec 8

/-- A byte from a number, taken modulo 256. -/
abbrev byteOf (n : Nat) : Byte := BitVec.ofNat 8 n

/-- Change one entry of a table by a function of the entry. -/
def updAt {α : Type} {n : Nat} (t : Vector α n) (i : Fin n) (f : α → α) : Vector α n :=
  t.set i.val (f (t.get i)) i.isLt

/-- Change every entry of a table by a function of the entry. -/
def updAll {α : Type} {n : Nat} (t : Vector α n) (f : α → α) : Vector α n := Vector.ofFn (fun i => f (t.get i))

/-- The entries' numbers, in rising order. -/
abbrev indices (n : Nat) : List (Fin n) := List.finRange n

end Sys2Proof
end

