-- ==== Sys2Proof/Syntax.lean ====
section
/-! DEFINITION. The commands of the block: one constructor of `Instr` per row of spec/opcode_table.json, in the table's order.
The table gives the rows no operands; the operands here name what the row's rule speaks of (log 6). -/

namespace Sys2Proof

/-- What begins a cold start (R177): power-on, or assertion of the RESET line. -/
inductive ColdCause where
  | powerOn
  | resetLine
  deriving DecidableEq, Repr

/-- A debounced input line (R2, R35, R43, R85, R129). Bays are numbered in inventory order: 0 to 3 PSU, 4 to 9 FAN, 10 to 13 UPL. -/
inductive Pin where
  | presL (slot : Fin 12)
  | presS (slot : Fin 12)
  | ovr (line : Fin 4)
  | pgood (slot : Fin 12)
  | railFlt (slot : Fin 12)
  | bay (bay : Fin 14)
  | psuOk (supply : Fin 4)
  | uplLink (port : Fin 4)
  deriving DecidableEq, Repr

/-- How one attempt of a module identity read ends on the module bus (R37). -/
inductive AttemptResult where
  | noAcknowledge
  | incomplete
  | bytes (data : List Byte)
  deriving DecidableEq, Repr

/-- The commands. Links are numbered as the arbiter numbers them (R167): 0 is CM, n + 1 is SLn. -/
inductive Instr where
  | coldStart (cause : ColdCause)
  | warmRestart
  | deviceIdRead (answered : Bool)
  | internalReadComplete
  | packetReceived (link : Fin 13) (bytes : List Byte)
  | headJudgment (link : Fin 13)
  | writeAdmission (link : Fin 13)
  | eventWordClear (link : Fin 13)
  | heartbeatWrite
  | arbiterGrant
  | readComplete
  | writeDrain
  | writeBackPlacement
  | rawInputChange (pin : Pin) (level : Bool)
  | presLArrival (slot : Fin 12)
  | presLLoss (slot : Fin 12)
  | leverOpening (slot : Fin 12)
  | presSClosing (slot : Fin 12)
  | overrideAssertion (line : Fin 4)
  | overrideRelease (line : Fin 4)
  | pgoodAssertion (slot : Fin 12)
  | pgoodLoss (slot : Fin 12)
  | railFltAssertion (slot : Fin 12)
  | railFltRelease (slot : Fin 12)
  | moduleArrival (bay : Fin 14)
  | moduleLoss (bay : Fin 14)
  | psuOkLoss (supply : Fin 4)
  | psuOkReturn (supply : Fin 4)
  | uplLinkFall (port : Fin 4)
  | uplLinkRise (port : Fin 4)
  | tachPulse (fan : Fin 6)
  | seatingTimerExpiry (slot : Fin 12)
  | settlingTimerExpiry (slot : Fin 12)
  | quiesceDeadlineExpiry (slot : Fin 12)
  | chargeTimeout (slot : Fin 12)
  | capGraceExpiry (slot : Fin 12)
  | shedDelayExpiry
  | reportAgeTimeout (slot : Fin 12)
  | pollTimerExpiry
  | sensorPollEnd (value : Option (BitVec 8))
  | identityReadAttemptEnd (result : AttemptResult)
  | retryDelayExpiry
  | sampleTimerExpiry (zone : Fin 3)
  | updateTimerExpiry (zone : Fin 3)
  | tachGateClose
  | groupStart
  | senseConversion (slot : Fin 12) (count : BitVec 10)
  | drainTimerExpiry (channel : Fin 32)
  | crossbarAcknowledge
  | crossbarCommandTimeout (carriedOut : Bool)
  | heartbeatTimerExpiry
  | auditPeriodExpiry
  deriving DecidableEq, Repr

end Sys2Proof
end

