-- ==== Sys2Proof/Decode.lean ====
section
/-! DEFINITION. Commands spelled by words of bits. No row of spec/opcode_table.json has bits: commands are events of links, lines, timers
and buses, so no word spells one (log 6). -/

namespace Sys2Proof

/-- The command that a word spells by the table's bits: none, for no row has any. -/
def decodeTableWord (_nbits _w : Nat) : Option Instr := none

end Sys2Proof
end

