-- ==== Sys2Proof/Config.lean ====
section
/-! DEFINITION. What an implementation around the part fixes, and the constants of the part that no rule makes configurable. -/

namespace Sys2Proof.Config

/-- Bytes of chassis memory: a 256 KiB FRAM (00_scope.md, Conventions). -/
def memoryBytes : Nat := 0x40000

/-- What a byte of chassis memory that nothing has written reads as. DESIGN CHOICE, unsafe (log 5): the spec does not say
what a fresh FRAM holds. -/
def erased : Byte := 0

/-- Milliseconds by which the clock moves in a step that finds no command waiting. DESIGN CHOICE (log 1). -/
def tick : Nat := 1

/-- Whether the crossbar has by now carried out a command that ended without an acknowledge, at the chance with this number: a free value
(log 33). -/
opaque carriesOut : Nat → Bool

/-- Bytes of a link's packet that a restart lets through before it cuts the packet off, for the restart with this number and the link: a
free value (log 39). -/
opaque bytesSent : Nat → Fin 13 → Nat

/-- Milliseconds after which a packet has been sent whole: the 68 bytes of the longest last under 0.03 ms at 25 Mbit/s (log 39). -/
def packetTime : Nat := 2

/-- PRES_L debounce, arrival and loss (R2). -/
def presLArrival : Nat := 200
def presLLoss : Nat := 5
/-- PRES_S debounce, closing and opening (R2). -/
def presS : Nat := 50
/-- OVR0 to OVR3 debounce, assertion and release (R2). -/
def override : Nat := 20
/-- PGOOD debounce, assertion and loss; RAIL_FLT debounce, assertion and release (R85). -/
def pgood : Nat := 2
def railFltAssertion : Nat := 1
def railFltRelease : Nat := 20
/-- Presence debounce of a supply, fan or uplink bay (R35). -/
def moduleArrival : Nat := 200
def moduleLoss : Nat := 20
/-- PSU_OK debounce (R43). -/
def psuOkLoss : Nat := 2
def psuOkReturn : Nat := 500
/-- UPL_LINK debounce (R129). -/
def uplLink : Nat := 100
/-- Seating timer (R4) and settling timer (R17). -/
def seating : Nat := 200
def settling : Nat := 500
/-- Wait between the attempts of an identity read (R37). -/
def retryDelay : Nat := 10
/-- Poll timer (R104) and tach gate (R122). -/
def poll : Nat := 1000
def tachGate : Nat := 1000
/-- Crossbar answer time (R137). -/
def crossbarTimeout : Nat := 20

end Sys2Proof.Config
end

