-- ==== Sys2Proof/Machine/Bytes.lean ====
section
/-! DEFINITION. Byte order, signed bytes and the three CRCs (00_scope.md, Conventions; R32, R159, R170). -/

namespace Sys2Proof.Machine

/-- A 16-bit field, little-endian (00_scope.md, Byte order). Larger numbers keep their low 16 bits. -/
def le2 (n : Nat) : List Byte := [byteOf n, byteOf (n / 256)]

/-- A 32-bit field, little-endian. -/
def le4 (n : Nat) : List Byte := [byteOf n, byteOf (n / 256), byteOf (n / 65536), byteOf (n / 16777216)]

/-- A signed 16-bit field, two's complement, little-endian (12_layouts.md). -/
def leInt2 (z : Int) : List Byte := le2 (z % 65536).toNat

/-- The number that little-endian bytes hold. -/
def ofLe : List Byte → Nat
  | [] => 0
  | b :: rest => b.toNat + 256 * ofLe rest

/-- Byte `i` of a record, 0 beyond its end. -/
def byteAt (bs : List Byte) (i : Nat) : Nat := (bs.getD i 0).toNat

/-- The 16-bit field at offset `i`. -/
def wordAt (bs : List Byte) (i : Nat) : Nat := byteAt bs i + 256 * byteAt bs (i + 1)

/-- The signed byte at offset `i` (12_layouts.md: signed fields are two's complement). -/
def signedAt (bs : List Byte) (i : Nat) : Int := (bs.getD i 0).toInt

/-- A temperature byte: -128 stands for "no reading" or "none" (12_layouts.md). -/
def tempByte : Option Int → Byte
  | none => 0x80
  | some t => BitVec.ofInt 8 t

/-- A flag byte from its bits, bit 0 first. -/
def flagByte : List Bool → Byte
  | [] => 0
  | b :: rest => byteOf ((if b then 1 else 0) + 2 * (flagByte rest).toNat)

/-- The low `n` bytes of a list, filled up with zeros (R179: serial bytes beyond the length are written as 0). -/
def padTo (n : Nat) (bs : List Byte) : List Byte := (bs ++ List.replicate n 0).take n

/-- One byte of a CRC-8, most significant bit first. -/
def crc8Byte (poly crc b : BitVec 8) : BitVec 8 :=
  let step := fun (c : BitVec 8) => if c.msb then (c <<< 1) ^^^ poly else c <<< 1
  step (step (step (step (step (step (step (step (crc ^^^ b))))))))

/-- CRC-8 with no final inversion. -/
def crc8 (poly init : BitVec 8) (bs : List Byte) : BitVec 8 := bs.foldl (crc8Byte poly) init

/-- One byte of a CRC-16, most significant bit first. -/
def crc16Byte (poly crc : BitVec 16) (b : BitVec 8) : BitVec 16 :=
  let step := fun (c : BitVec 16) => if c.msb then (c <<< 1) ^^^ poly else c <<< 1
  step (step (step (step (step (step (step (step (crc ^^^ (b.zeroExtend 16 <<< 8)))))))))

/-- CRC of packets: polynomial 0x2F, initial value 0xFF (R159). -/
def packetCrc (bs : List Byte) : Byte := crc8 0x2F 0xFF bs

/-- CRC of configuration rows: polynomial 0x31, initial value 0xFF (R170). -/
def rowCrc (bs : List Byte) : Byte := crc8 0x31 0xFF bs

/-- CRC-16 of identities: polynomial 0x1021, initial value 0xFFFF (R32, R37). -/
def identityCrc (bs : List Byte) : BitVec 16 := bs.foldl (crc16Byte 0x1021) 0xFFFF

end Sys2Proof.Machine
end

