-- ==== Sys2Proof/Machine/Rows.lean ====
section
/-! DEFINITION. Configuration rows: layout (12_layouts.md 12.7), defaults, and the row check (R172 with R52, R81, R95, R109,
R127, R128, R146). A row is its bytes 0 to 14; its check byte is computed (R170). -/

namespace Sys2Proof.Machine

/-- Bytes 0 to 14 of a configuration row (R170). -/
abbrev Row := List Byte

/-- The check byte of a row: the CRC-8 of bytes 0 to 14 in address order (R170). -/
def rowCheckByte (r : Row) : Byte := rowCrc r

/-- A whole row of 16 bytes, as it stands in chassis memory. -/
def rowImage (r : Row) : List Byte := padTo 15 r ++ [rowCheckByte r]

/-- Defaults of row 0 (R52): N1, 95 %, 150 W, 20 W, 200 W. -/
def defaultRow0 : Row := [1, 95] ++ le2 150 ++ [20] ++ le2 200 ++ List.replicate 8 0

/-- Defaults of row 1 (R81, R58, R172): shed delay 3 s, max skips 4, cap margin 10 %, cap grace 2 s, hold clear, heartbeat 10 s,
audit 60 minutes, every ALERT mask bit set. -/
def defaultRow1 : Row := [30, 4, 10, 20, 0, 100, 60, 0xFF, 0xFF, 0xFF, 0xFF] ++ List.replicate 4 0

/-- Defaults of slot row 2 + n (R172): enabled, class 1, no cap, no override line, 200 ms, 10 s, 1 defer, zone floor(n / 4). -/
def defaultSlotRow (n : Nat) : Row := [1, 1, 0, 0, 0, 20, 10, 1, byteOf (2 ^ (n / 4))] ++ List.replicate 6 0

/-- Defaults of row 14 + 2z (R127). -/
def defaultCurveRow : Row := [25, 35, 45, 55] ++ le2 300 ++ le2 450 ++ List.replicate 7 0

/-- Defaults of row 15 + 2z (R127). -/
def defaultLimitRow : Row := le2 750 ++ le2 1000 ++ le2 300 ++ le2 20 ++ [130] ++ le2 800 ++ [100] ++ List.replicate 3 0

/-- Defaults of row 20 + z (R109): A 70 °C ABOVE with alert and boost, B 0 °C BELOW, 500 ms. -/
def defaultMonitorRow : Row := [70, 6, 0, 1, 50] ++ List.replicate 10 0

/-- Defaults of row 23 (R128). -/
def defaultFanRow : Row := [1, 1] ++ le2 1023 ++ [0] ++ le2 900 ++ [1, 2, 4, 7] ++ List.replicate 4 0

/-- Defaults of row 24 (R109, R146). -/
def defaultThermalRow : Row := [0, 0, 0, 0, 50, 5, 0x0C, 10] ++ List.replicate 7 0

/-- The defaults of every row. -/
def defaultRow (r : Fin 25) : Row :=
  if r.val = 0 then defaultRow0
  else if r.val = 1 then defaultRow1
  else if r.val < 14 then defaultSlotRow (r.val - 2)
  else if r.val < 20 then (if r.val % 2 = 0 then defaultCurveRow else defaultLimitRow)
  else if r.val < 23 then defaultMonitorRow
  else if r.val = 23 then defaultFanRow
  else defaultThermalRow

/-- The 25 default rows. -/
def defaultRows : Vector Row 25 := Vector.ofFn defaultRow

/-- A value lies in a range, both ends included. -/
def inRange (lo hi v : Nat) : Bool := decide (lo ≤ v ∧ v ≤ hi)

/-- A signed byte holds a temperature from -40 to 127 °C. -/
def tempInRange (t : Int) : Bool := decide (-40 ≤ t ∧ t ≤ 127)

/-- Every field of row `r` lies in its range (R172 and the owners it names). Bytes of no field are not judged. -/
def rowRangesHold (r : Fin 25) (b : Row) : Bool :=
  if r.val = 0 then
    inRange 0 2 (byteAt b 0) && inRange 50 100 (byteAt b 1) && inRange 0 2000 (wordAt b 2) && inRange 0 50 (byteAt b 4)
      && inRange 0 4000 (wordAt b 5)
  else if r.val = 1 then
    inRange 1 255 (byteAt b 0) && inRange 1 15 (byteAt b 1) && inRange 0 50 (byteAt b 2) && inRange 1 255 (byteAt b 3)
      && inRange 0 1 (byteAt b 4)
  else if r.val < 14 then
    inRange 0 1 (byteAt b 0) && inRange 0 3 (byteAt b 1) && inRange 0 1000 (wordAt b 2) && inRange 0 4 (byteAt b 4)
      && inRange 1 255 (byteAt b 5) && inRange 1 60 (byteAt b 6) && inRange 0 2 (byteAt b 7) && inRange 0 7 (byteAt b 8)
  else if r.val < 20 then
    if r.val % 2 = 0 then
      tempInRange (signedAt b 0) && tempInRange (signedAt b 1) && tempInRange (signedAt b 2) && tempInRange (signedAt b 3)
        && inRange 0 1000 (wordAt b 4) && inRange 0 1000 (wordAt b 6)
    else
      inRange 0 1000 (wordAt b 0) && inRange 0 1000 (wordAt b 2) && inRange 0 1000 (wordAt b 4) && inRange 1 1000 (wordAt b 6)
        && inRange 100 200 (byteAt b 8) && inRange 0 1000 (wordAt b 9) && inRange 25 200 (byteAt b 11)
  else if r.val < 23 then
    tempInRange (signedAt b 0) && inRange 0 7 (byteAt b 1) && tempInRange (signedAt b 2) && inRange 0 7 (byteAt b 3)
      && inRange 10 100 (byteAt b 4)
  else if r.val = 23 then
    ([1, 4, 16, 64].contains (byteAt b 0)) && inRange 1 32 (byteAt b 1) && inRange 64 2047 (wordAt b 2) && inRange 0 63 (byteAt b 4)
      && inRange 0 30000 (wordAt b 5) && inRange 0 7 (byteAt b 7) && inRange 0 7 (byteAt b 8) && inRange 0 7 (byteAt b 9)
      && inRange 0 7 (byteAt b 10)
  else
    inRange 0 15 (byteAt b 0) && inRange 0 15 (byteAt b 1) && inRange 0 15 (byteAt b 2) && inRange 0 15 (byteAt b 3)
      && inRange 1 255 (byteAt b 4) && inRange 0 20 (byteAt b 5) && inRange 0 15 (byteAt b 6) && inRange 1 255 (byteAt b 7)

/-- The consistency conditions a row meets by itself (R172): temperatures rise strictly, the update period is a multiple of
250 ms, no monitor is BELOW with boost. -/
def rowAloneConsistent (r : Fin 25) (b : Row) : Bool :=
  if r.val < 14 then true
  else if r.val < 20 then
    if r.val % 2 = 0 then
      decide (signedAt b 0 < signedAt b 1 ∧ signedAt b 1 < signedAt b 2 ∧ signedAt b 2 < signedAt b 3)
    else byteAt b 11 % 25 == 0
  else if r.val < 23 then
    !((byteAt b 1).testBit 0 && (byteAt b 1).testBit 2) && !((byteAt b 3).testBit 0 && (byteAt b 3).testBit 2)
  else true

/-- The demands of a curve do not fall: d1 ≤ d2 ≤ d3 ≤ d4, the first two in row 14 + 2z, the others in row 15 + 2z (R113, R127). -/
def demandsOrdered (curve limit : Row) : Bool :=
  decide (wordAt curve 4 ≤ wordAt curve 6 ∧ wordAt curve 6 ≤ wordAt limit 0 ∧ wordAt limit 0 ≤ wordAt limit 2)

/-- The demands of row `r` are ordered among themselves and against the demand that the other row of its curve holds (R127). -/
def rowDemandsOrdered (rows : Vector Row 25) (r : Fin 25) (b : Row) : Bool :=
  if 14 ≤ r.val ∧ r.val < 20 then
    if r.val % 2 = 0 then
      decide (wordAt b 4 ≤ wordAt b 6 ∧ wordAt b 6 ≤ wordAt (rows.toList.getD (r.val + 1) []) 0)
    else decide (wordAt (rows.toList.getD (r.val - 1) []) 6 ≤ wordAt b 0 ∧ wordAt b 0 ≤ wordAt b 2)
  else true

/-- The result of a row check (R172): reason RANGE before reason ORDER. -/
inductive RowVerdict where
  | pass
  | range
  | order
  deriving DecidableEq, Repr

/-- The row check of a commit, made against the shadow as it stands (R171, R172). -/
def rowCheck (rows : Vector Row 25) (r : Fin 25) (b : Row) : RowVerdict :=
  if !rowRangesHold r b then .range
  else if !(rowAloneConsistent r b && rowDemandsOrdered rows r b) then .order
  else .pass

/-- The start-up judgment of one row of 16 bytes alone: its check byte is right, its fields and its own conditions hold; the
curve demand conditions are left out (R173). -/
def rowLoads (r : Fin 25) (image : List Byte) : Bool :=
  (image.getD 15 0 == rowCheckByte (image.take 15)) && rowRangesHold r (image.take 15) && rowAloneConsistent r (image.take 15)

end Sys2Proof.Machine
end

