-- ==== Sys2Proof/Machine/State.lean ====
section
/-! DEFINITION. The state of the block: everything the spec gives it, as plain data, and its value right after reset.
Three parts: what a step reads but the units' cascades never write (`Ctx`: clock, supervision, configuration, input filters), what
the units change (`Units`), and the link and memory side. Views that the rules derive from these (headroom, draw average, lane
places, …) are functions, stated once in Account, Slots, Uplink and Layouts. -/

namespace Sys2Proof.Machine

/-- Why the machine would stop with a fault. The spec names no such event. -/
inductive Fault where
  /-- An access to chassis memory outside its 256 KiB. Nothing raises it: R160 answers a span outside a link's view DENIED,
  and every record of the part lies inside the memory. Safe. -/
  | outsideMemory (address : Nat)
  deriving DecidableEq, Repr

/-- Why the model would give a command no meaning. -/
inductive Refusal where
  /-- Raised only by an arm of `exec` whose command has no meaning yet; every command has one. Safe. -/
  | notModelled (mnemonic : String)
  deriving DecidableEq, Repr

/-- A timer: stopped, or running until the clock shows the given millisecond (log 1). -/
abbrev Timer := Option Nat

/-! ### Supervision and configuration -/

inductive Mode where
  | startup
  | normal
  | failsafe
  deriving DecidableEq, Repr

/-- How far start-up has come (R177): waiting for the device ID read (step 1), for the rows (step 2), for the records (step 3),
for the adoption read of a slot (step 6 of a warm restart), or done. -/
inductive Phase where
  | deviceId
  | rows
  | records
  | adopt (slot : Fin 12)
  | done
  deriving DecidableEq, Repr

inductive RestartCause where
  | cold
  | resetLine
  | restartLine
  | restartCommand
  deriving DecidableEq, Repr

/-- The supervision unit (R175 to R178) and the manager status (R153). -/
structure Sup where
  mode : Mode
  phase : Phase
  cold : Bool
  built : Bool
  memOk : Bool
  cause : RestartCause
  hbValue : Option Byte
  served : Bool
  hbTimer : Timer
  restartArmed : Bool
  cmdSeq : Byte
  cmdKind : Byte
  cmdTarget : Byte
  cmdResult : Byte
  images : List (List Byte)
  deriving DecidableEq, Repr

/-- The last row take as the configuration fault and audit record shows it (R170, 12.5). -/
structure LastRow where
  row : Byte
  seq : Byte
  outcome : Byte
  reason : Byte
  deriving DecidableEq, Repr

/-- The configuration unit (R170). -/
structure Cfg where
  rows : Vector Row 25
  fault : Vector Bool 25
  mismatch : Vector Bool 25
  changed : Vector Bool 25
  auditing : Bool
  nextRow : Nat
  auditCount : BitVec 16
  lastRow : LastRow
  auditTimer : Timer
  deriving DecidableEq, Repr

/-- A debounce filter (R2). -/
structure Filter where
  raw : Bool
  level : Bool
  timer : Timer
  deriving DecidableEq, Repr

/-- Every debounced input. -/
structure Pins where
  sampled : Bool
  presL : Vector Filter 12
  presS : Vector Filter 12
  ovr : Vector Filter 4
  pgood : Vector Filter 12
  railFlt : Vector Filter 12
  bay : Vector Filter 14
  psuOk : Vector Filter 4
  uplLink : Vector Filter 4
  deriving DecidableEq, Repr

/-- What the units read and do not write while they act on an event. -/
structure Ctx where
  now : Nat
  sup : Sup
  cfg : Cfg
  pins : Pins
  deriving DecidableEq, Repr

/-! ### Records of the part -/

/-- A part-owned record or a configuration row (R154): the members of the pending write-back set (R157). -/
inductive RecId where
  | slotStatus (n : Fin 12)
  | slotEvent (n : Fin 12)
  | managerStatus
  | chassisEvent
  | chassisStatus
  | budget
  | supply (k : Fin 4)
  | fan (f : Fin 6)
  | zone (z : Fin 3)
  | configAudit
  | inventory (i : Fin 26)
  | channel (p : Fin 32)
  | row (r : Fin 25)
  deriving DecidableEq, Repr

/-- An entry of the pending write-back set; the set is a list in joining order (R157). -/
structure WbEntry where
  record : RecId
  content : List Byte
  deriving DecidableEq, Repr

/-! ### Slots -/

inductive SlotState where
  | empty
  | seating
  | standby
  | identified
  | waitPower
  | charging
  | on
  | quiescing
  | settling
  | fault
  deriving DecidableEq, Repr

inductive QReason where
  | managerOff
  | eject
  | shed
  | thermal
  deriving DecidableEq, Repr

inductive FaultReason where
  | chargeTimeout
  | overcurrent
  | railLost
  | thermalCut
  | capViolation
  deriving DecidableEq, Repr

/-- Last taken sequence and outcome of a request record, as the slot status record shows them (R1, R96, R132). -/
structure TakeResult where
  seq : Byte
  outcome : Byte
  deriving DecidableEq, Repr

/-- Cap watch phase (R78). -/
inductive Watch where
  | clear
  | over
  | exceeded
  deriving DecidableEq, Repr

/-- Wanted group of a claim (R132); `any` is both groups. -/
inductive Group where
  | g0
  | g1
  | any
  deriving DecidableEq, Repr

/-- One slot: its slot table entry (R1), rail state (R82), thermal state (R96) and claim (R132). Deadline remaining is 0 when absent.
`settled` is the model's own: clear from a warm restart until adoption settles the slot (R85, R91). -/
structure Slot where
  state : SlotState
  enabled : Bool
  settled : Bool
  seatTimer : Timer
  grant : Nat
  allowance : Nat
  lastReq : Option Nat
  qNumber : BitVec 8
  qReason : Option QReason
  qTimer : Timer
  qRemaining : Nat
  defers : Nat
  faultReason : Option FaultReason
  leverMark : Bool
  settleTimer : Timer
  unvalidated : Bool
  identityTake : TakeResult
  powerTake : TakeResult
  reportTake : TakeResult
  claimTake : TakeResult
  answerTake : TakeResult
  stbyEn : Bool
  mainEn : Bool
  chargeTimer : Timer
  chargeStart : Option Nat
  lastCharge : Nat
  ring : List Nat
  watch : Watch
  watchTimer : Timer
  readings : List (Option Int)
  zoneInput : Option Int
  ageStart : Option Nat
  stale : Bool
  warned : Bool
  claimed : Nat
  group : Group
  deriving DecidableEq, Repr

/-! ### Inventory -/

inductive EntryState where
  | absent
  | unread
  | valid
  | invalid
  | duplicate
  deriving DecidableEq, Repr

inductive Reason where
  | none
  | badFormat
  | badCrc
  | badSerial
  | badMaxPower
  | badMinPower
  | badTrip
  | badClass
  | badLanes
  | wrongKind
  | badValue
  | unreadable
  deriving DecidableEq, Repr

/-- Kind-specific values of an identity (R28). -/
inductive KindVals where
  | cleared
  | blade (maxPower minPower : Nat) (trip : Int) (cls lanes : Nat)
  | supply (capacity : Nat)
  | fan (rated maxRpm : Nat)
  | uplink (channels power : Nat)
  deriving DecidableEq, Repr

/-- The identity fields of an entry (R28). -/
structure Ident where
  vendor : BitVec 16
  product : BitVec 16
  revision : BitVec 8
  serial : List Byte
  vals : KindVals
  deriving DecidableEq, Repr

/-- An inventory entry (R28); its kind is fixed by its position. -/
structure Entry where
  state : EntryState
  reason : Reason
  ident : Ident
  inserts : Nat
  lastGen : BitVec 16
  deriving DecidableEq, Repr

/-- An item of the module bus queue (R36). -/
inductive BusItem where
  | read (bay : Fin 14)
  | poll (sensor : Fin 4)
  deriving DecidableEq, Repr

/-- The item in flight on the module bus: an identity read with its attempt (1 to 3), the timer of the wait between attempts and
its discarded mark (R37, R39), or a poll. -/
inductive BusOp where
  | read (bay : Fin 14) (attempt : Nat) (retry : Timer) (discarded : Bool)
  | poll (sensor : Fin 4)
  deriving DecidableEq, Repr

/-! ### Budget -/

inductive SupplyState where
  | absent
  | unread
  | ok
  | failed
  deriving DecidableEq, Repr

/-- A supply record (R43); its feed is fixed by the bay and its OK level is the filter's. -/
structure Supply where
  state : SupplyState
  identCap : Nat
  counted : Nat
  deriving DecidableEq, Repr

/-- An entry of the wait queue (R53). `join` holds its place in join order. -/
structure WaitEntry where
  slot : Fin 12
  watts : Nat
  isRaise : Bool
  cls : Nat
  skips : Nat
  join : Nat
  deriving DecidableEq, Repr

/-! ### Thermal and fan units -/

/-- A chassis sensor (R104). -/
structure Sensor where
  value : Option Int
  fails : Nat
  stale : Bool
  deriving DecidableEq, Repr

/-- What the part sets in a zone monitor (R106); threshold, direction and enables stand in the zone's row. -/
structure Monitor where
  valid : Bool
  result : Bool
  held : Bool
  deriving DecidableEq, Repr

/-- A zone record (R110) with its monitors, zone temperature, next-monitor mark and sample timer (R105 to R107). `markB` set names
monitor B. `gateOk`: the duty has been at least 200 throughout the open tach gate (R123). -/
structure Zone where
  duty : Nat
  raw : Nat
  sources : Nat
  boost : Bool
  comp : Bool
  target : Nat
  estimate : Nat
  updTimer : Timer
  temp : Option Int
  monA : Monitor
  monB : Monitor
  markB : Bool
  sampTimer : Timer
  gateOk : Bool
  deriving DecidableEq, Repr

inductive FanState where
  | absent
  | unread
  | running
  | failed
  | invalid
  deriving DecidableEq, Repr

/-- A fan record (R111), with the count of the open gate and whether the fan has been present since the gate opened (R122). -/
structure Fan where
  state : FanState
  verdictFailed : Bool
  pulses : Nat
  lowRun : Nat
  highRun : Nat
  rated : Nat
  maxRpm : Nat
  count : Nat
  whole : Bool
  deriving DecidableEq, Repr

/-- A PWM generator within its current dither group (R119, R120): whether it drives, C and f. -/
structure Gen where
  drives : Bool
  c : Nat
  f : Nat
  deriving DecidableEq, Repr

/-- The six generators and the row 23 parameters in force (R118, R121). Not running: every output is held low. -/
structure Pwm where
  running : Bool
  prescaler : Nat
  divider : Nat
  upper : Nat
  polarity : Nat
  gens : Vector Gen 6
  deriving DecidableEq, Repr

/-! ### Uplink unit -/

inductive PortState where
  | unavailable
  | down
  | up
  deriving DecidableEq, Repr

/-- A port record (R129); `power` is what the port has in the port term, 0 when disabled (R47, R48). -/
structure Port where
  state : PortState
  enable : Bool
  power : Nat
  deriving DecidableEq, Repr

inductive ChanState where
  | unavailable
  | free
  | switching
  | assigned
  | stranded
  | draining
  | faulted
  deriving DecidableEq, Repr

inductive ChanCmd where
  | none
  | connect
  | disconnect
  deriving DecidableEq, Repr

/-- A place of the channel table (R130); `held` is the holder with its lane. -/
structure Chan where
  inUse : Bool
  state : ChanState
  held : Option (Fin 12 × Fin 4)
  cmd : ChanCmd
  answer : Bool
  drain : Timer
  deriving DecidableEq, Repr

/-- A command to the crossbar (R137). -/
inductive XCmd where
  | clear
  | connect (channel : Fin 32) (slot : Fin 12) (lane : Fin 4)
  | disconnect (channel : Fin 32)
  deriving DecidableEq, Repr

/-- The crossbar command in flight, when it times out, and whether its answer is to be ignored (R137, R144). -/
structure XFlight where
  cmd : XCmd
  deadline : Nat
  ignored : Bool
  deriving DecidableEq, Repr

/-! ### The units together -/

/-- Everything the units change when they act on an event. `xLate` holds the commands in flight no longer that the crossbar may yet carry
out, `xChances` the argument of the free value that says whether it has (R137, log 33); `disables` counts the port disables, so that each
one runs the budget unit (R141, log 37). -/
structure Units where
  slots : Vector Slot 12
  slotEvents : Vector (BitVec 32) 12
  chassisEvent : BitVec 32
  linkErr : Vector Nat 13
  inv : Vector Entry 26
  invGen : BitVec 16
  busQueue : List BusItem
  busOp : Option BusOp
  supplies : Vector Supply 4
  waitQ : List WaitEntry
  joinNext : Nat
  grantOrder : List (Fin 12)
  capped : List (Fin 12)
  shed : List (Fin 12)
  shedTimer : Timer
  deficit : Bool
  emergency : Bool
  sensors : Vector Sensor 4
  pollTimer : Timer
  zones : Vector Zone 3
  fans : Vector Fan 6
  gateTimer : Timer
  ports : Vector Port 4
  chans : Vector Chan 32
  chanGen : BitVec 16
  upWait : List (Fin 12)
  disables : Nat
  xq : List XCmd
  xFlight : Option XFlight
  xbar : Vector (Option (Fin 12 × Fin 4)) 32
  xLate : List XCmd
  xChances : Nat
  senseNext : Fin 12
  touched : List RecId
  deriving DecidableEq, Repr

/-! ### Links and memory -/

/-- A request that has passed the packet tests (R159). Kind 0 READ, 1 WRITE, 2 and 3 unassigned. -/
structure Request where
  kind : Nat
  tag : Nat
  addr : Nat
  len : Nat
  data : List Byte
  deriving DecidableEq, Repr

/-- The request records (R148). The heartbeat byte is no take: it is held whole in its write. -/
inductive TakeRec where
  | identity (n : Fin 12)
  | power (n : Fin 12)
  | report (n : Fin 12)
  | claim (n : Fin 12)
  | answer (n : Fin 12)
  | command
  | row (r : Fin 25)
  deriving DecidableEq, Repr

/-- A record take in progress or waiting for the one before it: its record, the copy made at the commit (R149), and whether its
outcome is to be discarded because the slot was emptied meanwhile (R25, R151). -/
structure Take where
  record : TakeRec
  copy : List (Option Byte)
  discarded : Bool
  deriving DecidableEq, Repr

/-- A link port (R161): credit state, FIFO, whether its head has been judged and found to wait for memory or the write queue
(R160), and the takes that hold it (R150). -/
structure Link where
  isOpen : Bool
  fifo : List Request
  judged : Bool
  takes : List Take
  deriving DecidableEq, Repr

/-- An entry of the write queue (R164); `source` none is a write-back. -/
structure QEntry where
  addr : Nat
  data : List Byte
  source : Option (Fin 13)
  deriving DecidableEq, Repr

/-- A read waiting in the internal reader's FIFO (R149) with what it is for: a piece of the start-up read of the rows or of the
records, the adoption read of a slot's identity, the take at the head of a link, or a row of the audit. -/
inductive IRead where
  | rows (addr len : Nat) (last : Bool)
  | records (addr len : Nat) (last : Bool)
  | adopt (slot : Fin 12)
  | take (link : Fin 13)
  | audit (row : Fin 25)
  deriving DecidableEq, Repr

/-- The transaction at the memory port (R167). -/
inductive Grant where
  | read (link : Fin 13)
  | internal
  | drain
  deriving DecidableEq, Repr

/-- Chassis memory: cells with addresses strictly rising and no cell equal to what an unlisted address reads as. -/
abbrev Memory := List Host.Cell

/-- The state of the block. `pending` is the queue of commands that wait; `tx` holds per link the latest packet the part has sent, and
`sentAt` when its sending began, none once it has been cut off (R161). `cuts` counts the restarts, the argument of a free value (log 39). -/
structure State where
  pending : List Instr
  ctx : Ctx
  units : Units
  pwm : Pwm
  alert : Bool
  links : Vector Link 13
  tx : Vector (List Byte) 13
  sentAt : Vector (Option Nat) 13
  cuts : Nat
  wq : List QEntry
  reads : List IRead
  arb : Fin 15
  port : Option Grant
  wb : List WbEntry
  mem : Memory
  deriving DecidableEq, Repr

/-! ### Reset values -/

def Filter.reset : Filter := { raw := false, level := false, timer := none }

def Pins.reset : Pins :=
  { sampled := false, presL := Vector.replicate 12 .reset, presS := Vector.replicate 12 .reset, ovr := Vector.replicate 4 .reset,
    pgood := Vector.replicate 12 .reset, railFlt := Vector.replicate 12 .reset, bay := Vector.replicate 14 .reset,
    psuOk := Vector.replicate 4 .reset, uplLink := Vector.replicate 4 .reset }

/-- Cold-start values of the supervision unit (R175, R177, R178). -/
def Sup.reset : Sup :=
  { mode := .startup, phase := .deviceId, cold := true, built := false, memOk := false, cause := .cold, hbValue := none,
    served := false, hbTimer := none, restartArmed := false, cmdSeq := 0, cmdKind := 0, cmdTarget := 0, cmdResult := 0, images := [] }

/-- "None" in the last row take (12.5). -/
def LastRow.none : LastRow := { row := 0xFF, seq := 0, outcome := 0, reason := 0 }

/-- Cold-start values of the configuration unit (R170). -/
def Cfg.reset : Cfg :=
  { rows := defaultRows, fault := Vector.replicate 25 false, mismatch := Vector.replicate 25 false,
    changed := Vector.replicate 25 false, auditing := false, nextRow := 0, auditCount := 0, lastRow := .none, auditTimer := none }

def Ctx.reset : Ctx := { now := 0, sup := .reset, cfg := .reset, pins := .reset }

def TakeResult.none : TakeResult := { seq := 0, outcome := 0 }

/-- Cold-start values of a slot (R1, R82, R96, R132). The effective enable is that of the default row (R172). -/
def Slot.reset : Slot :=
  { state := .empty, enabled := true, settled := true, seatTimer := none, grant := 0, allowance := 0, lastReq := none,
    qNumber := 0, qReason := none, qTimer := none, qRemaining := 0, defers := 0, faultReason := none, leverMark := false,
    settleTimer := none, unvalidated := false, identityTake := .none, powerTake := .none, reportTake := .none, claimTake := .none,
    answerTake := .none, stbyEn := false, mainEn := false, chargeTimer := none, chargeStart := none, lastCharge := 0,
    ring := List.replicate 8 0, watch := .clear, watchTimer := none, readings := List.replicate 4 none, zoneInput := none,
    ageStart := none, stale := false, warned := false, claimed := 0, group := .any }

def Ident.cleared : Ident := { vendor := 0, product := 0, revision := 0, serial := [], vals := .cleared }

/-- An entry before the start-up rebuild (R28). -/
def Entry.reset : Entry := { state := .absent, reason := .none, ident := .cleared, inserts := 0, lastGen := 0 }

def Supply.reset : Supply := { state := .absent, identCap := 0, counted := 0 }

def Sensor.reset : Sensor := { value := none, fails := 0, stale := false }

def Monitor.reset : Monitor := { valid := false, result := false, held := false }

/-- Reset values of a zone (R107, R108, R110). -/
def Zone.reset : Zone :=
  { duty := 1000, raw := 1000, sources := 0, boost := false, comp := false, target := 1000, estimate := 0, updTimer := none,
    temp := none, monA := .reset, monB := .reset, markB := false, sampTimer := none, gateOk := false }

def Fan.reset : Fan :=
  { state := .absent, verdictFailed := false, pulses := 0, lowRun := 0, highRun := 0, rated := 0, maxRpm := 0, count := 0,
    whole := false }

def Gen.reset : Gen := { drives := false, c := 0, f := 0 }

/-- Held low from power-on (R121). -/
def Pwm.reset : Pwm :=
  { running := false, prescaler := 1, divider := 1, upper := 1023, polarity := 0, gens := Vector.replicate 6 .reset }

def Port.reset : Port := { state := .unavailable, enable := false, power := 0 }

def Chan.reset : Chan := { inUse := false, state := .unavailable, held := none, cmd := .none, answer := false, drain := none }

/-- Cold-start values of the units. -/
def Units.reset : Units :=
  { slots := Vector.replicate 12 .reset, slotEvents := Vector.replicate 12 0, chassisEvent := 0, linkErr := Vector.replicate 13 0,
    inv := Vector.replicate 26 .reset, invGen := 0, busQueue := [], busOp := none, supplies := Vector.replicate 4 .reset,
    waitQ := [], joinNext := 0, grantOrder := [], capped := [], shed := [], shedTimer := none, deficit := false, emergency := false,
    sensors := Vector.replicate 4 .reset, pollTimer := none, zones := Vector.replicate 3 .reset, fans := Vector.replicate 6 .reset,
    gateTimer := none, ports := Vector.replicate 4 .reset, chans := Vector.replicate 32 .reset, chanGen := 0, upWait := [], disables := 0,
    xq := [], xFlight := none, xbar := Vector.replicate 32 none, xLate := [], xChances := 0, senseNext := 0, touched := [] }

def Link.reset : Link := { isOpen := false, fifo := [], judged := false, takes := [] }

/-- The part right after power-on: a cold start has begun and the device ID read is awaited (R177). -/
def State.reset : State :=
  { pending := [], ctx := .reset, units := .reset, pwm := .reset, alert := false, links := Vector.replicate 13 .reset,
    tx := Vector.replicate 13 [], sentAt := Vector.replicate 13 none, cuts := 0, wq := [], reads := [], arb := 14, port := none, wb := [], mem := [] }

end Sys2Proof.Machine
end

