-- ==== Sys2Proof/Machine/Memory.lean ====
section
/-! DEFINITION. Chassis memory, the write queue's view of it, and the start-up reads' addresses (R164 to R166). -/

namespace Sys2Proof.Machine

/-- The canonical form of memory: addresses strictly rising and inside the FRAM, no cell equal to what an unlisted address reads as. -/
def Memory.wf : Memory → Bool
  | [] => true
  | [(a, b)] => decide (a < Config.memoryBytes) && b != Config.erased
  | (a, b) :: (a', b') :: rest => decide (a < a') && b != Config.erased && Memory.wf ((a', b') :: rest)

/-- Read one byte (log 5: an unlisted address reads as `Config.erased`). -/
def readCell : Memory → Nat → Byte
  | [], _ => Config.erased
  | (a, b) :: rest, x => if a = x then b else readCell rest x

/-- Write one byte, keeping the canonical form. -/
def writeCell (x : Nat) (v : Byte) : Memory → Memory
  | [] => if v = Config.erased then [] else [(x, v)]
  | (a, b) :: rest =>
    if x < a then (if v = Config.erased then (a, b) :: rest else (x, v) :: (a, b) :: rest)
    else if x = a then (if v = Config.erased then rest else (x, v) :: rest)
    else (a, b) :: writeCell x v rest

/-- Write several bytes, in order. -/
def writeCells (cells : List Host.Cell) (m : Memory) : Memory := cells.foldl (fun m c => writeCell c.1 c.2 m) m

/-- The address of data byte `i` of a WRITE at `addr`: it wraps within the 64-byte page (R165). -/
def wrapAddr (addr i : Nat) : Nat := addr / 64 * 64 + (addr % 64 + i) % 64

/-- The bytes a queue entry covers, each with its chassis address (R165). -/
def entryCells (e : QEntry) : List Host.Cell :=
  (List.range e.data.length).map (fun i => (wrapAddr e.addr i, e.data.getD i 0))

/-- The byte a queue entry holds for an address, if it covers it. -/
def entryByte (e : QEntry) (a : Nat) : Option Byte := ((entryCells e).find? (fun c => c.1 == a)).map (·.2)

/-- The byte of the newest queue entry that covers an address (R149, R166); the queue is oldest first. -/
def queueByte : List QEntry → Nat → Option Byte
  | [], _ => none
  | e :: rest, a => (queueByte rest a).or (entryByte e a)

/-- A byte as a read at the memory port returns it: memory overlaid by the queue (R166). -/
def overlaidByte (wq : List QEntry) (m : Memory) (a : Nat) : Byte := (queueByte wq a).getD (readCell m a)

/-- The addresses of a run of `len` bytes. -/
def span (addr len : Nat) : List Nat := (List.range len).map (addr + ·)

/-- A read of `len` consecutive bytes (R165, R166). -/
def readSpan (wq : List QEntry) (m : Memory) (addr len : Nat) : List Byte := (span addr len).map (overlaidByte wq m)

/-- One write transaction of the drain: the entry's bytes go to memory (R165). -/
def drainEntry (e : QEntry) (m : Memory) : Memory := writeCells (entryCells e) m

/-- Base of slot page n (R163). -/
def slotPage (n : Fin 12) : Nat := 0x10000 + n.val * 0x1000

/-- Chassis address of the first byte and length of a part-owned record or row (12_layouts.md). -/
def recSpan : RecId → Nat × Nat
  | .slotStatus n => (slotPage n + 0x80, 64)
  | .slotEvent n => (slotPage n + 0x60, 4)
  | .managerStatus => (0x2010, 16)
  | .chassisEvent => (0x2030, 4)
  | .chassisStatus => (0x1000, 32)
  | .budget => (0x1020, 64)
  | .supply k => (0x1060 + 16 * k.val, 16)
  | .fan f => (0x10A0 + 16 * f.val, 16)
  | .zone z => (0x1100 + 32 * z.val, 32)
  | .configAudit => (0x1160, 16)
  | .inventory i => (0x1200 + 48 * i.val, 48)
  | .channel p => (0x1700 + 8 * p.val, 8)
  | .row r => (16 * r.val, 16)

/-- Two runs of bytes share a byte. -/
def runsOverlap (a la b lb : Nat) : Bool := decide (a < b + lb ∧ b < a + la)

/-- A run of bytes overlaps a record. -/
def overlapsRec (addr len : Nat) (r : RecId) : Bool := runsOverlap addr len (recSpan r).1 (recSpan r).2

/-- Chassis address and length of a request record (12.2, 12.4); a row is taken as its bytes 0 to 14 (R171). -/
def takeSpan : TakeRec → Nat × Nat
  | .identity n => (slotPage n, 64)
  | .power n => (slotPage n + 0x40, 8)
  | .report n => (slotPage n + 0x48, 8)
  | .claim n => (slotPage n + 0x50, 4)
  | .answer n => (slotPage n + 0x54, 4)
  | .command => (0x2000, 8)
  | .row r => (16 * r.val, 15)

/-- A run of bytes cut into reads of at most 64 bytes, in address order (R165); `fuel` bounds their number. -/
def chunks : Nat → Nat → Nat → List (Nat × Nat)
  | 0, _, _ => []
  | fuel + 1, addr, len => if len = 0 then [] else if len ≤ 64 then [(addr, len)] else (addr, 64) :: chunks fuel (addr + 64) (len - 64)

/-- The reads of step 2 of start-up: the 25 rows (R173). -/
def rowReads : List (Nat × Nat) := chunks 7 0 400

/-- The reads of step 3 of start-up (R177): chassis status record, inventory table, manager status record, configuration fault and
audit record and, on a warm restart, the thirteen event words and the twelve slot status records. -/
def recordReads (cold : Bool) : List (Nat × Nat) :=
  [recSpan .chassisStatus] ++ chunks 20 0x1200 (26 * 48) ++ [recSpan .managerStatus, recSpan .configAudit]
    ++ (if cold then []
        else recSpan .chassisEvent :: (indices 12).map (fun n => recSpan (.slotEvent n))
          ++ (indices 12).map (fun n => recSpan (.slotStatus n)))

/-- Turn a list of reads into entries of the internal read FIFO, the last one marked. -/
def markLast (mk : Nat → Nat → Bool → IRead) : List (Nat × Nat) → List IRead
  | [] => []
  | [(a, l)] => [mk a l true]
  | (a, l) :: rest => mk a l false :: markLast mk rest

end Sys2Proof.Machine
end

