-- ==== Sys2Proof/Machine/Settings.lean ====
section
/-! DEFINITION. The fields of the shadow rows as the units read them (12.7), times in milliseconds, and the numbering of
positions, zones and channels (R28, R111, R130). -/

namespace Sys2Proof.Machine

/-! ### Numbering -/

/-- Inventory position BLADEn (R28). -/
def bladePos (n : Fin 12) : Fin 26 := ⟨n.val, by omega⟩
/-- Inventory position of a supply, fan or uplink bay. -/
def bayPos (b : Fin 14) : Fin 26 := ⟨b.val + 12, by omega⟩
/-- Bay of PSUk, FANf, UPLp. -/
def supplyBay (k : Fin 4) : Fin 14 := ⟨k.val, by omega⟩
def fanBay (f : Fin 6) : Fin 14 := ⟨f.val + 4, by omega⟩
def uplinkBay (p : Fin 4) : Fin 14 := ⟨p.val + 10, by omega⟩
/-- Zone of a fan (R111). -/
def fanZone (f : Fin 6) : Fin 3 := ⟨f.val / 2, by omega⟩
/-- The two fans of a zone. -/
def zoneFans (z : Fin 3) : List (Fin 6) := [⟨2 * z.val, by omega⟩, ⟨2 * z.val + 1, by omega⟩]
/-- Port of a channel place, and its places in order (R130). -/
def portOf (ch : Fin 32) : Fin 4 := ⟨ch.val / 8, by omega⟩
def portPlaces (p : Fin 4) : List (Fin 32) := (indices 8).map (fun c => ⟨8 * p.val + c.val, by omega⟩)
/-- Link of a slot. -/
def slotLink (n : Fin 12) : Fin 13 := ⟨n.val + 1, by omega⟩

/-! ### Rows -/

def slotRow (c : Ctx) (n : Fin 12) : Row := c.cfg.rows.get ⟨n.val + 2, by omega⟩
def curveRow (c : Ctx) (z : Fin 3) : Row := c.cfg.rows.get ⟨14 + 2 * z.val, by omega⟩
def limitRow (c : Ctx) (z : Fin 3) : Row := c.cfg.rows.get ⟨15 + 2 * z.val, by omega⟩
def monitorRow (c : Ctx) (z : Fin 3) : Row := c.cfg.rows.get ⟨20 + z.val, by omega⟩

/-! Row 0 (R52). -/
def policy (c : Ctx) : Nat := byteAt (c.cfg.rows.get 0) 0
def derate (c : Ctx) : Nat := byteAt (c.cfg.rows.get 0) 1
def fixedOverhead (c : Ctx) : Nat := wordAt (c.cfg.rows.get 0) 2
def standbyWatts (c : Ctx) : Nat := byteAt (c.cfg.rows.get 0) 4
def emergencyMargin (c : Ctx) : Nat := wordAt (c.cfg.rows.get 0) 5

/-! Row 1 (R58, R81, R172). -/
def shedDelay (c : Ctx) : Nat := 100 * byteAt (c.cfg.rows.get 1) 0
def maxSkips (c : Ctx) : Nat := byteAt (c.cfg.rows.get 1) 1
def capMargin (c : Ctx) : Nat := byteAt (c.cfg.rows.get 1) 2
def capGrace (c : Ctx) : Nat := 100 * byteAt (c.cfg.rows.get 1) 3
def powerHold (c : Ctx) : Bool := byteAt (c.cfg.rows.get 1) 4 == 1
def hbTimeout (c : Ctx) : Nat := 100 * byteAt (c.cfg.rows.get 1) 5
def auditPeriod (c : Ctx) : Nat := 60000 * byteAt (c.cfg.rows.get 1) 6
def alertMask (c : Ctx) : BitVec 32 := BitVec.ofNat 32 (ofLe (((c.cfg.rows.get 1).drop 7).take 4))

/-! Slot rows (R95, R172). -/
def rowEnable (c : Ctx) (n : Fin 12) : Bool := byteAt (slotRow c n) 0 == 1
def slotClass (c : Ctx) (n : Fin 12) : Nat := byteAt (slotRow c n) 1
def slotCap (c : Ctx) (n : Fin 12) : Nat := wordAt (slotRow c n) 2
def slotLine (c : Ctx) (n : Fin 12) : Option (Fin 4) := (indices 4).find? (fun k => byteAt (slotRow c n) 4 == k.val + 1)
def chargeTime (c : Ctx) (n : Fin 12) : Nat := 10 * byteAt (slotRow c n) 5
def quiesceTime (c : Ctx) (n : Fin 12) : Nat := 1000 * byteAt (slotRow c n) 6
def maxDefers (c : Ctx) (n : Fin 12) : Nat := byteAt (slotRow c n) 7
def slotInZone (c : Ctx) (n : Fin 12) (z : Fin 3) : Bool := (byteAt (slotRow c n) 8).testBit z.val

/-! Zone rows (R109, R127). -/
def curvePoint (c : Ctx) (z : Fin 3) (i : Fin 4) : Int × Nat :=
  (signedAt (curveRow c z) i.val, if i.val < 2 then wordAt (curveRow c z) (4 + 2 * i.val) else wordAt (limitRow c z) (2 * i.val - 4))
def zoneFloor (c : Ctx) (z : Fin 3) : Nat := wordAt (limitRow c z) 4
def slewDown (c : Ctx) (z : Fin 3) : Nat := wordAt (limitRow c z) 6
def compensation (c : Ctx) (z : Fin 3) : Nat := byteAt (limitRow c z) 8
def failsafeDuty (c : Ctx) (z : Fin 3) : Nat := wordAt (limitRow c z) 9
def updatePeriod (c : Ctx) (z : Fin 3) : Nat := 10 * byteAt (limitRow c z) 11
/-- Threshold and flags of monitor A (`false`) or B (`true`). -/
def monThreshold (c : Ctx) (z : Fin 3) (b : Bool) : Int := signedAt (monitorRow c z) (if b then 2 else 0)
def monFlags (c : Ctx) (z : Fin 3) (b : Bool) : Nat := byteAt (monitorRow c z) (if b then 3 else 1)
def monBelow (c : Ctx) (z : Fin 3) (b : Bool) : Bool := (monFlags c z b).testBit 0
def monAlert (c : Ctx) (z : Fin 3) (b : Bool) : Bool := (monFlags c z b).testBit 1
def monBoost (c : Ctx) (z : Fin 3) (b : Bool) : Bool := (monFlags c z b).testBit 2
def sampleInterval (c : Ctx) (z : Fin 3) : Nat := 10 * byteAt (monitorRow c z) 4

/-! Row 23 (R128). -/
def minRpm (c : Ctx) : Nat := wordAt (c.cfg.rows.get 23) 5
def sensorInZone (c : Ctx) (k : Fin 4) (z : Fin 3) : Bool := (byteAt (c.cfg.rows.get 23) (7 + k.val)).testBit z.val

/-! Row 24 (R109, R146). -/
def classOffset (c : Ctx) (i : Nat) : Nat := byteAt (c.cfg.rows.get 24) i
def reportTimeout (c : Ctx) : Nat := 100 * byteAt (c.cfg.rows.get 24) 4
def warningMargin (c : Ctx) : Nat := byteAt (c.cfg.rows.get 24) 5
def portGroup (c : Ctx) (p : Fin 4) : Bool := (byteAt (c.cfg.rows.get 24) 6).testBit p.val
def drainTime (c : Ctx) : Nat := 10 * byteAt (c.cfg.rows.get 24) 7

/-! ### Debounced levels -/

def presLLevel (c : Ctx) (n : Fin 12) : Bool := (c.pins.presL.get n).level
/-- PRES_S closed. -/
def leverClosed (c : Ctx) (n : Fin 12) : Bool := (c.pins.presS.get n).level
def ovrLevel (c : Ctx) (k : Fin 4) : Bool := (c.pins.ovr.get k).level
def pgoodLevel (c : Ctx) (n : Fin 12) : Bool := (c.pins.pgood.get n).level
def railFltLevel (c : Ctx) (n : Fin 12) : Bool := (c.pins.railFlt.get n).level
def bayLevel (c : Ctx) (b : Fin 14) : Bool := (c.pins.bay.get b).level
def psuOkLevel (c : Ctx) (k : Fin 4) : Bool := (c.pins.psuOk.get k).level
def linkLevel (c : Ctx) (p : Fin 4) : Bool := (c.pins.uplLink.get p).level

/-- The slot is held: its mapped override line is asserted (R1, R24). -/
def held (c : Ctx) (n : Fin 12) : Bool := match slotLine c n with
  | some k => ovrLevel c k
  | none => false

/-- The part is in STARTUP. -/
def inStartup (c : Ctx) : Bool := c.sup.mode == .startup

/-! ### Identity of a blade -/

def bladeEntry (u : Units) (n : Fin 12) : Entry := u.inv.get (bladePos n)

def bladeValid (u : Units) (n : Fin 12) : Bool := (bladeEntry u n).state == .valid

/-- Max and min operating power, trip temperature, thermal class and uplink lanes of the VALID identity of BLADEn. -/
def bladeVals (u : Units) (n : Fin 12) : Option (Nat × Nat × Int × Nat × Nat) :=
  if bladeValid u n then
    match (bladeEntry u n).ident.vals with
    | .blade maxP minP trip cls lanes => some (maxP, minP, trip, cls, lanes)
    | _ => none
  else none

/-- Min operating power: of the VALID identity, 20 W without one (R13, R67). -/
def minPower (u : Units) (n : Fin 12) : Nat := ((bladeVals u n).map (·.2.1)).getD 20

/-- Max power: of the VALID identity, 1000 W without one (R9). -/
def maxPower (u : Units) (n : Fin 12) : Nat := ((bladeVals u n).map (·.1)).getD 1000

/-- Trip temperature: of the VALID identity, 60 °C without one (R99, R103). -/
def tripTemp (u : Units) (n : Fin 12) : Int := ((bladeVals u n).map (·.2.2.1)).getD 60

end Sys2Proof.Machine
end

