-- ==== Sys2Proof/Machine/Ops.lean ====
section
/-! DEFINITION. The shared operations: timers, input filters, event bits, and the updates of one entry of a table. -/

namespace Sys2Proof.Machine

/-! ### Time (log 1) -/

/-- A timer started now for a period. -/
def startTimer (c : Ctx) (period : Nat) : Timer := some (c.now + period)

/-- The clock when a timer that runs until `d` has expired: it never goes back. -/
def atDeadline (c : Ctx) (d : Nat) : Ctx := { c with now := max c.now d }

/-- Time left until a deadline, in units of 100 ms rounded up (R1, R20). -/
def unitsLeft (c : Ctx) (t : Timer) : Nat := match t with
  | some d => (d - c.now + 99) / 100
  | none => 0

/-! ### Filters (R2) -/

def getFilter (p : Pins) : Pin → Filter
  | .presL n => p.presL.get n
  | .presS n => p.presS.get n
  | .ovr k => p.ovr.get k
  | .pgood n => p.pgood.get n
  | .railFlt n => p.railFlt.get n
  | .bay b => p.bay.get b
  | .psuOk k => p.psuOk.get k
  | .uplLink k => p.uplLink.get k

def updFilter (p : Pins) (f : Filter → Filter) : Pin → Pins
  | .presL n => { p with presL := updAt p.presL n f }
  | .presS n => { p with presS := updAt p.presS n f }
  | .ovr k => { p with ovr := updAt p.ovr k f }
  | .pgood n => { p with pgood := updAt p.pgood n f }
  | .railFlt n => { p with railFlt := updAt p.railFlt n f }
  | .bay b => { p with bay := updAt p.bay b f }
  | .psuOk k => { p with psuOk := updAt p.psuOk k f }
  | .uplLink k => { p with uplLink := updAt p.uplLink k f }

/-- How long an input must hold a new level (R2, R35, R43, R85, R129). True is present, closed, asserted, OK or up. -/
def debounceTime (level : Bool) : Pin → Nat
  | .presL _ => if level then Config.presLArrival else Config.presLLoss
  | .presS _ => Config.presS
  | .ovr _ => Config.override
  | .pgood _ => Config.pgood
  | .railFlt _ => if level then Config.railFltAssertion else Config.railFltRelease
  | .bay _ => if level then Config.moduleArrival else Config.moduleLoss
  | .psuOk _ => if level then Config.psuOkReturn else Config.psuOkLoss
  | .uplLink _ => Config.uplLink

/-- A raw input takes a level: the filter's timer starts when the level differs from the debounced one and stops when it returns to it.
Before step 4 of start-up has sampled the inputs no filter runs (R2). -/
def rawChange (c : Ctx) (p : Pin) (level : Bool) : Ctx :=
  let f := getFilter c.pins p
  if f.raw = level then c
  else
    { c with pins := updFilter c.pins (fun f =>
        { f with raw := level,
                 timer := if c.pins.sampled && f.level != level then startTimer c (debounceTime level p) else none }) p }

/-- The debounce timer of an input expires with the raw level at `level`: the debounced level takes it, and the event is due.
None when the filter is not waiting for that change (log 7). -/
def debounced (c : Ctx) (p : Pin) (level : Bool) : Option Ctx :=
  let f := getFilter c.pins p
  match f.timer with
  | some d =>
    if f.raw = level ∧ f.level ≠ level then
      some { atDeadline c d with pins := updFilter c.pins (fun f => { f with level := level, timer := none }) p }
    else none
  | none => none

/-- Step 4 of start-up: a filter takes the raw level at once, with its timer stopped and no event (R2). -/
def sampleFilter (f : Filter) : Filter := { raw := f.raw, level := f.raw, timer := none }

/-- Step 4 of start-up, every filter. -/
def samplePins (p : Pins) : Pins :=
  { sampled := true, presL := updAll p.presL sampleFilter, presS := updAll p.presS sampleFilter, ovr := updAll p.ovr sampleFilter,
    pgood := updAll p.pgood sampleFilter, railFlt := updAll p.railFlt sampleFilter, bay := updAll p.bay sampleFilter,
    psuOk := updAll p.psuOk sampleFilter, uplLink := updAll p.uplLink sampleFilter }

/-- A warm restart begins: raw and debounced levels stay until step 4 samples the inputs, and no filter runs (log 2). -/
def haltFilter (f : Filter) : Filter := { f with timer := none }

def haltPins (p : Pins) : Pins :=
  { sampled := false, presL := updAll p.presL haltFilter, presS := updAll p.presS haltFilter, ovr := updAll p.ovr haltFilter,
    pgood := updAll p.pgood haltFilter, railFlt := updAll p.railFlt haltFilter, bay := updAll p.bay haltFilter,
    psuOk := updAll p.psuOk haltFilter, uplLink := updAll p.uplLink haltFilter }

/-- A cold start begins: only the raw levels are kept (log 2). -/
def clearFilter (f : Filter) : Filter := { raw := f.raw, level := false, timer := none }

def clearPins (p : Pins) : Pins :=
  { sampled := false, presL := updAll p.presL clearFilter, presS := updAll p.presS clearFilter, ovr := updAll p.ovr clearFilter,
    pgood := updAll p.pgood clearFilter, railFlt := updAll p.railFlt clearFilter, bay := updAll p.bay clearFilter,
    psuOk := updAll p.psuOk clearFilter, uplLink := updAll p.uplLink clearFilter }

/-! ### Updates of one entry -/

def Units.slot (u : Units) (n : Fin 12) : Slot := u.slots.get n

def Units.updSlot (u : Units) (n : Fin 12) (f : Slot → Slot) : Units := { u with slots := updAt u.slots n f }

def Units.updZone (u : Units) (z : Fin 3) (f : Zone → Zone) : Units := { u with zones := updAt u.zones z f }

def Units.updFan (u : Units) (k : Fin 6) (f : Fan → Fan) : Units := { u with fans := updAt u.fans k f }

def Units.updPort (u : Units) (p : Fin 4) (f : Port → Port) : Units := { u with ports := updAt u.ports p f }

/-- The record joins the pending write-back set at the end of the step even if its content has not changed. -/
def Units.touch (u : Units) (r : RecId) : Units := { u with touched := u.touched ++ [r] }

/-! ### Views of a slot -/

/-- The draw average: floor(sum of the sample ring / 8) (R82, R93). -/
def drawAverage (x : Slot) : Nat := x.ring.sum / 8

/-- The larger of two readings. -/
def maxTemp : Option Int → Option Int → Option Int
  | none, b => b
  | a, none => a
  | some a, some b => some (max a b)

/-- The blade temperature: the largest temperature held in the reading positions (R96, R99). -/
def bladeTemp (x : Slot) : Option Int := x.readings.foldl maxTemp none

/-- The slot has its main rail on: CHARGING, ON or QUIESCING (R13, R15). The same states make it a thermal source (R96). -/
def powered (x : Slot) : Bool := x.state == .charging || x.state == .on || x.state == .quiescing

end Sys2Proof.Machine
end

