-- ==== Sys2Proof/Machine/Flags.lean ====
section
/-! DEFINITION. Event words (R155, 12.2, 12.4). -/

namespace Sys2Proof.Machine

/-- The bits of a slot event word, in their positions (12.2). -/
inductive SlotBit where
  | fault
  | quiesceTimeout
  | capped
  | capExceeded
  | shed
  | railAnomaly
  | reportStale
  | thermalWarning
  | uplinkStranded
  | linkError
  | restart
  deriving DecidableEq, Repr

def slotBit : SlotBit → Nat
  | .fault => 0
  | .quiesceTimeout => 1
  | .capped => 2
  | .capExceeded => 3
  | .shed => 4
  | .railAnomaly => 5
  | .reportStale => 6
  | .thermalWarning => 7
  | .uplinkStranded => 8
  | .linkError => 9
  | .restart => 10

/-- The bits of the chassis event word, in their positions (12.4). -/
inductive ChassisBit where
  | slotFault
  | slotRemoved
  | inventoryChange
  | moduleBusFault
  | supplyFail
  | supplyReturn
  | deficit
  | loadShed
  | emergencyShed
  | powerLost
  | reportStale
  | sensorStale
  | thermalWarning
  | zoneAlarm
  | fanFault
  | uplinkDown
  | crossbarTimeout
  | configReject
  | auditDone
  | failsafe
  | heartbeatLate
  | linkError
  | restart
  deriving DecidableEq, Repr

def chassisBit : ChassisBit → Nat
  | .slotFault => 0
  | .slotRemoved => 1
  | .inventoryChange => 2
  | .moduleBusFault => 3
  | .supplyFail => 4
  | .supplyReturn => 5
  | .deficit => 6
  | .loadShed => 7
  | .emergencyShed => 8
  | .powerLost => 9
  | .reportStale => 10
  | .sensorStale => 11
  | .thermalWarning => 12
  | .zoneAlarm => 13
  | .fanFault => 14
  | .uplinkDown => 15
  | .crossbarTimeout => 16
  | .configReject => 17
  | .auditDone => 18
  | .failsafe => 19
  | .heartbeatLate => 20
  | .linkError => 21
  | .restart => 22

/-- A word with one bit set; a bit already set stays set (R155). -/
def withBit (w : BitVec 32) (i : Nat) : BitVec 32 := w ||| BitVec.ofNat 32 (2 ^ i)

/-- The bits of an event word that a record shows: the unassigned ones, from position `k` up, are written as 0 (R179). -/
def assignedBits (k : Nat) (w : BitVec 32) : BitVec 32 := w &&& BitVec.ofNat 32 (2 ^ k - 1)

def slotFlag (u : Units) (n : Fin 12) (b : SlotBit) : Bool := (u.slotEvents.get n).getLsbD (slotBit b)

def chassisFlag (u : Units) (b : ChassisBit) : Bool := u.chassisEvent.getLsbD (chassisBit b)

/-- An event sets its bit in a slot event word (R155). -/
def setSlotBit (n : Fin 12) (b : SlotBit) (u : Units) : Units :=
  { u with slotEvents := updAt u.slotEvents n (fun w => withBit w (slotBit b)) }

/-- An event sets its bit in the chassis event word (R155). -/
def setChassisBit (b : ChassisBit) (u : Units) : Units := { u with chassisEvent := withBit u.chassisEvent (chassisBit b) }

/-- A write clears each bit whose position it holds as one; `mask` has those ones (R155). -/
def clearBits (w mask : BitVec 32) : BitVec 32 := w &&& ~~~mask

end Sys2Proof.Machine
end

