-- ==== Sys2Proof/Machine/Account.lean ====
section
/-! DEFINITION. The power account (R46, R47, R49, R50, R66): every term is computed from the state, so it is recomputed whenever
one of the terms it rests on changes. -/

namespace Sys2Proof.Machine

/-- The sum of a number over a table's entries. -/
def sumOver (n : Nat) (f : Fin n → Nat) : Nat := ((indices n).map f).sum

/-- Capacity of the supplies in state OK among those that satisfy `p` (R46). -/
def okCapacity (u : Units) (p : Fin 4 → Bool) : Nat :=
  sumOver 4 (fun k => if p k && (u.supplies.get k).state == .ok then (u.supplies.get k).counted else 0)

/-- The largest counted capacity among the supplies in state OK (R46). -/
def largestOk (u : Units) : Nat :=
  (indices 4).foldl (fun m k => if (u.supplies.get k).state == .ok then max m (u.supplies.get k).counted else m) 0

/-- Feed A is PSU0 and PSU1 (R43). -/
def onFeedA (k : Fin 4) : Bool := decide (k.val < 2)

/-- Raw capacity under the redundancy policy (R46). -/
def rawCapacity (c : Ctx) (u : Units) : Nat :=
  if policy c = 0 then okCapacity u (fun _ => true)
  else if policy c = 1 then okCapacity u (fun _ => true) - largestOk u
  else min (okCapacity u onFeedA) (okCapacity u (fun k => !onFeedA k))

/-- Usable power: floor(raw × derate / 100) (R46). -/
def usable (c : Ctx) (u : Units) : Nat := rawCapacity c u * derate c / 100

/-- The port term: the powers of the enabled uplink ports (R47). -/
def portTerm (u : Units) : Nat := sumOver 4 (fun p => (u.ports.get p).power)

/-- The fan reservation: the three zone terms, each the zone's estimate as reported (R47, R125). -/
def fanReservation (u : Units) : Nat := sumOver 3 (fun z => (u.zones.get z).estimate)

def overhead (c : Ctx) (u : Units) : Nat := fixedOverhead c + portTerm u + fanReservation u

/-- A slot counts as seated when it is neither EMPTY nor SEATING (R49). -/
def isSeated (x : Slot) : Bool := x.state != .empty && x.state != .seating

def seatedCount (u : Units) : Nat := sumOver 12 (fun n => if isSeated (u.slot n) then 1 else 0)

def standbyReservation (c : Ctx) (u : Units) : Nat := standbyWatts c * seatedCount u

def available (c : Ctx) (u : Units) : Int := (usable c u : Int) - overhead c u - standbyReservation c u

def committed (u : Units) : Nat := sumOver 12 (fun n => (u.slot n).allowance)

def headroom (c : Ctx) (u : Units) : Int := available c u - committed u

/-- Releasing: the allowances of all slots in QUIESCING (R66). -/
def releasing (u : Units) : Nat := sumOver 12 (fun n => if (u.slot n).state == .quiescing then (u.slot n).allowance else 0)

def plannedDeficit (c : Ctx) (u : Units) : Int := (committed u : Int) - releasing u - available c u

/-- The budget unit accepts a port enable: not in STARTUP, and the headroom covers the port power (R48, R56). -/
def enableAccepted (c : Ctx) (u : Units) (watts : Nat) : Bool := !inStartup c && decide ((watts : Int) ≤ headroom c u)

/-- The total cut of a slot: its grant less its allowance (R68). -/
def cutOf (x : Slot) : Nat := x.grant - x.allowance

end Sys2Proof.Machine
end

