-- ==== Sys2Proof/Machine/Uplink.lean ====
section
/-! DEFINITION. The uplink unit: channels, claims, the crossbar queue, port power, failover (R129 to R146). -/

namespace Sys2Proof.Machine

/-! ### Views -/

/-- SWITCHING, ASSIGNED or STRANDED (R132). -/
def isActive (x : Chan) : Bool := x.state == .switching || x.state == .assigned || x.state == .stranded

/-- The channel is one of the four held states that keep a port enabled (R130, R141). -/
def isHeld (x : Chan) : Bool := isActive x || x.state == .draining

/-- The channel has a slot as its holder, on some lane. -/
def heldBy (n : Fin 12) (x : Chan) : Bool := match x.held with
  | some (m, _) => m == n
  | none => false

/-- The channel in lane place k of a slot (R132). -/
def lanePlace (u : Units) (n : Fin 12) (k : Fin 4) : Option (Fin 32) :=
  (indices 32).find? (fun ch => (u.chans.get ch).held == some (n, k))

def activeCount (u : Units) (n : Fin 12) : Nat :=
  ((indices 32).filter (fun ch => isActive (u.chans.get ch) && heldBy n (u.chans.get ch))).length

/-- Claimed count less active channels, or 0 (R132). -/
def pendingCount (u : Units) (n : Fin 12) : Nat := (u.slot n).claimed - activeCount u n

/-- The lane limit (R132). A slot without the unvalidated mark and without a VALID identity has none. -/
def laneLimit (u : Units) (n : Fin 12) : Nat :=
  if (u.slot n).unvalidated then 4 else ((bladeVals u n).map (fun v => min 4 v.2.2.2.2)).getD 0

/-- Channel count and port power of the VALID entry of a port (R129). -/
def portVals (u : Units) (p : Fin 4) : Option (Nat × Nat) :=
  let e := u.inv.get (bayPos (uplinkBay p))
  if e.state = .valid then
    match e.ident.vals with
    | .uplink channels power => some (channels, power)
    | _ => none
  else none

/-- The port state that the entry and the link level give (R129). -/
def portStateOf (c : Ctx) (u : Units) (p : Fin 4) : PortState :=
  if (u.inv.get (bayPos (uplinkBay p))).state = .valid then (if linkLevel c p then .up else .down) else .unavailable

def freePlaces (u : Units) (p : Fin 4) : List (Fin 32) := (portPlaces p).filter (fun ch => (u.chans.get ch).state == .free)

def portHasHeld (u : Units) (p : Fin 4) : Bool := (portPlaces p).any (fun ch => isHeld (u.chans.get ch))

def groupMatches (c : Ctx) (g : Group) (p : Fin 4) : Bool := match g with
  | .any => true
  | .g0 => !portGroup c p
  | .g1 => portGroup c p

/-! ### Updates -/

/-- A place takes new content; the generation rises when its in-use, state, holder or lane changes (R130). -/
def putChan (ch : Fin 32) (x : Chan) (u : Units) : Units :=
  let o := u.chans.get ch
  { u with chans := updAt u.chans ch (fun _ => x),
           chanGen := if o.inUse = x.inUse ∧ o.state = x.state ∧ o.held = x.held then u.chanGen else u.chanGen + 1 }

def updChan (ch : Fin 32) (f : Chan → Chan) (u : Units) : Units := putChan ch (f (u.chans.get ch)) u

/-- The oldest waiting crossbar command is sent when none is in flight (R137). -/
def sendNext (c : Ctx) (u : Units) : Units :=
  match u.xFlight, u.xq with
  | none, cmd :: rest =>
    { u with xq := rest, xFlight := some { cmd := cmd, deadline := c.now + Config.crossbarTimeout, ignored := false } }
  | _, _ => u

/-- A command joins the crossbar queue (R137). -/
def queueCmd (c : Ctx) (cmd : XCmd) (u : Units) : Units := sendNext c { u with xq := u.xq ++ [cmd] }

/-- UPL_EN of one enabled port without a held channel is deasserted; its power leaves the port term, and the disable is counted (R48,
R141). -/
def disablePort (u : Units) (p : Fin 4) : Units :=
  if (u.ports.get p).enable && !portHasHeld u p then
    { (u.updPort p (fun x => { x with enable := false, power := 0 })) with disables := u.disables + 1 }
  else u

/-- Every enabled port without a held channel is disabled (R48, R141). -/
def disableIdle (u : Units) : Units := (indices 4).foldl disablePort u

/-! ### Choosing a channel (R135) -/

/-- The candidate port with the most FREE channels, ties to the lower number. -/
def bestPort (u : Units) (cand : Fin 4 → Bool) : Option (Fin 4) :=
  (indices 4).foldl (fun best p =>
    if cand p && !(freePlaces u p).isEmpty then
      match best with
      | none => some p
      | some q => if (freePlaces u q).length < (freePlaces u p).length then some p else best
    else best) none

/-- The chosen port: an enabled one, else a disabled one whose enable request the budget unit accepts, in the same order. All
requests of one choice meet the same headroom, so the first accepted one is the best among the accepted ones. -/
def choosePort (c : Ctx) (u : Units) (elig : Fin 4 → Bool) : Option (Fin 4) :=
  (bestPort u (fun p => elig p && (u.ports.get p).state == .up && (u.ports.get p).enable)).or
    (bestPort u (fun p => elig p && (u.ports.get p).state == .up && !(u.ports.get p).enable
      && enableAccepted c u (((portVals u p).map (·.2)).getD 0)))

/-- The chosen channel takes the slot as its holder and the place as its lane, its port is enabled with its power in the port term
if it was not (R48, R141), and a CONNECT joins the queue. -/
def takeChannel (c : Ctx) (ch : Fin 32) (n : Fin 12) (k : Fin 4) (u : Units) : Units :=
  let p := portOf ch
  let u := if (u.ports.get p).enable then u
    else u.updPort p (fun x => { x with enable := true, power := ((portVals u p).map (·.2)).getD 0 })
  let u := updChan ch (fun x => { x with state := .switching, held := some (n, k), cmd := .connect, answer := false, drain := none }) u
  queueCmd c (.connect ch n k) u

/-- The channel that R135 chooses among the eligible ports, if any. -/
def chooseChannel (c : Ctx) (u : Units) (elig : Fin 4 → Bool) : Option (Fin 32) :=
  (choosePort c u elig).bind (fun p => (freePlaces u p).head?)

/-- Add channels into the slot's lowest empty places below the lane limit until the pending count is 0 or no channel is found
(R134, R136). -/
def fillSlot (c : Ctx) (n : Fin 12) (u : Units) : Units :=
  (indices 4).foldl (fun u k =>
    if decide (0 < pendingCount u n) && decide (k.val < laneLimit u n) && (lanePlace u n k).isNone then
      match chooseChannel c u (groupMatches c (u.slot n).group) with
      | some ch => takeChannel c ch n k u
      | none => u
    else u) u

/-- The slot joins the uplink wait list if its pending count is above 0 and it is not in it; an entry whose pending count is 0
leaves (R136). -/
def syncWait (n : Fin 12) (u : Units) : Units :=
  if pendingCount u n = 0 then { u with upWait := u.upWait.filter (· != n) }
  else if u.upWait.contains n then u
  else { u with upWait := u.upWait ++ [n] }

/-- Serve the wait list from the head (R136). -/
def serveWait (c : Ctx) (u : Units) : Units :=
  u.upWait.foldl (fun u n => syncWait n (fillSlot c n u)) u

/-! ### Releasing and draining (R139, R140) -/

/-- A channel is released by its holder (R139). -/
def releaseChan (c : Ctx) (ch : Fin 32) (u : Units) : Units :=
  let x := u.chans.get ch
  match x.state with
  | .assigned | .stranded => updChan ch (fun x => { x with state := .draining, answer := false, drain := startTimer c (drainTime c) }) u
  | .switching => updChan ch (fun x => { x with state := .draining, answer := true, drain := none }) u
  | _ => u

/-- The active channels of a slot, in place order. -/
def activeOf (u : Units) (n : Fin 12) : List (Fin 32) :=
  (indices 4).filterMap (fun k => (lanePlace u n k).bind (fun ch => if isActive (u.chans.get ch) then some ch else none))

/-- The slot leaves ON or QUIESCING: every active channel is released, the claim is emptied, the wait list entry dropped (R140). -/
def releaseSlot (c : Ctx) (n : Fin 12) (u : Units) : Units :=
  let u := (activeOf u n).foldl (fun u ch => releaseChan c ch u) u
  let u := u.updSlot n (fun x => { x with claimed := 0, group := .any })
  { u with upWait := u.upWait.filter (· != n) }

/-- Entry to QUIESCING: the claimed count becomes the number of active channels and the wait list entry is dropped (R140). -/
def quiesceClaim (n : Fin 12) (u : Units) : Units :=
  let u := u.updSlot n (fun x => { x with claimed := activeCount u n })
  { u with upWait := u.upWait.filter (· != n) }

/-- A channel loses its holder and lane, which empties the holder's place (R138, R139, R144). -/
def vacate (st : ChanState) (x : Chan) : Chan := { x with state := st, held := none, cmd := .none, answer := false, drain := none }

/-- The state of a channel of this port that becomes free of its holder (R131, R139). -/
def idleState (u : Units) (p : Fin 4) : ChanState := if (u.ports.get p).state = .up then .free else .unavailable

/-! ### Failover (R142 to R144) -/

/-- Ports of the failed port's group (R142). -/
def sameGroup (c : Ctx) (p q : Fin 4) : Bool := portGroup c p == portGroup c q

/-- Replace a channel for the same holder and lane place, or answer none. The old channel's holder and lane are cleared and it
becomes UNAVAILABLE; no DISCONNECT is sent for it (R142). -/
def replaceChan (c : Ctx) (ch : Fin 32) (u : Units) : Option Units :=
  match (u.chans.get ch).held, chooseChannel c u (sameGroup c (portOf ch)) with
  | some (n, k), some new => some (updChan ch (vacate .unavailable) (takeChannel c new n k u))
  | _, _ => none

/-- Failover of one channel of a port that is not UP (R142): replaced, or STRANDED with UPLINK_STRANDED set for the holder. -/
def failover (c : Ctx) (ch : Fin 32) (u : Units) : Units :=
  match replaceChan c ch u with
  | some u' => u'
  | none =>
    let u := updChan ch (fun x => { x with state := .stranded }) u
    match (u.chans.get ch).held with
    | some (n, _) => setSlotBit n .uplinkStranded u
    | none => u

/-- The holder of a dropped or faulted channel: in ON its pending count has risen, in QUIESCING its claimed count falls by one
(R138, R144). -/
def holderLost (n : Fin 12) (u : Units) : Units :=
  if (u.slot n).state = .quiescing then u.updSlot n (fun x => { x with claimed := x.claimed - 1 }) else u

/-- R144, steps 1 and 2 for one channel. -/
def leavePlace (c : Ctx) (ch : Fin 32) (u : Units) : Units :=
  let x := u.chans.get ch
  let drop := fun (u : Units) =>
    match x.held with
    | some (n, _) =>
      let u := setSlotBit n .uplinkStranded (updChan ch (vacate .unavailable) u)
      let u := holderLost n u
      if (u.slot n).state = .on then syncWait n u else u
    | none => u
  match x.state with
  | .assigned | .switching => match replaceChan c ch u with
    | some u' => u'
    | none => drop u
  | .stranded => drop u
  | .draining => updChan ch (vacate .unavailable) u
  | _ => u

/-- The channel that a crossbar command names. -/
def cmdChan : XCmd → Option (Fin 32)
  | .clear => none
  | .connect ch _ _ => some ch
  | .disconnect ch => some ch

def cmdOnPort (p : Fin 4) (cmd : XCmd) : Bool := match cmdChan cmd with
  | some ch => portOf ch == p
  | none => false

/-- R144: the port's channels are replaced or dropped, its places leave use, waiting commands are removed and the answer of one in
flight will be ignored. -/
def portLeavesUse (c : Ctx) (p : Fin 4) (u : Units) : Units :=
  let u := { u with xq := u.xq.filter (fun cmd => !cmdOnPort p cmd),
                    xFlight := u.xFlight.map (fun f => if cmdOnPort p f.cmd then { f with ignored := true } else f) }
  let u := (portPlaces p).foldl (fun u ch => leavePlace c ch u) u
  (portPlaces p).foldl (fun u ch => putChan ch .reset u) u

/-- R131: the places below the channel count come into use. -/
def portComesIntoUse (p : Fin 4) (u : Units) : Units :=
  let count := ((portVals u p).map (·.1)).getD 0
  (portPlaces p).foldl (fun u ch =>
    if ch.val % 8 < count then putChan ch { Chan.reset with inUse := true, state := idleState u p } u else u) u

/-- R142: a port changes from UP to DOWN. -/
def portDown (c : Ctx) (p : Fin 4) (u : Units) : Units :=
  let u := (portPlaces p).foldl (fun u ch => if (u.chans.get ch).state = .assigned then failover c ch u else u) u
  let u := (portPlaces p).foldl (fun u ch =>
    if (u.chans.get ch).state = .free then updChan ch (fun x => { x with state := .unavailable }) u else u) u
  disableIdle u

/-- R143: a port changes from DOWN to UP. -/
def portUp (c : Ctx) (p : Fin 4) (u : Units) : Units :=
  let u := (portPlaces p).foldl (fun u ch =>
    match (u.chans.get ch).inUse, (u.chans.get ch).state with
    | true, .stranded => updChan ch (fun x => { x with state := .assigned }) u
    | true, .unavailable => updChan ch (fun x => { x with state := .free }) u
    | _, _ => u) u
  serveWait c u

/-- A channel of the port is DRAINING: when the port's places leave use it leaves its holder's place (R144). -/
def portDrains (p : Fin 4) (u : Units) : Bool := (portPlaces p).any (fun ch => (u.chans.get ch).state == .draining)

/-- Serve the wait list when an event calls for it (R136). -/
def serveIf (c : Ctx) (call : Bool) (u : Units) : Units := if call then serveWait c u else u

/-- The port's state is derived again (R129), and a change acts on its channels (R131, R142, R143, R144). Until the channel table has
been built at start-up (R145) only the state changes. -/
def derivePort (c : Ctx) (p : Fin 4) (u : Units) : Units :=
  let old := (u.ports.get p).state
  let new := portStateOf c u p
  if old = new then u
  else
    let u := u.updPort p (fun x => { x with state := new })
    let u := if old = .up ∧ new = .down then setChassisBit .uplinkDown u else u
    if !c.sup.built then u
    else match old, new with
      | .up, .down => portDown c p u
      | .down, .up => portUp c p u
      | .unavailable, .up => serveWait c (portComesIntoUse p u)
      | .unavailable, .down => portComesIntoUse p u
      | _, .unavailable => serveIf c (portDrains p u) (disableIdle (portLeavesUse c p u))
      | _, _ => u

/-- A read of an uplink position has ended (R38): a VALID entry returns the port's FAULTED channels, or with another channel count
leaves use and comes into use (R144); an enabled port's power is replaced in the port term (R48, R141). -/
def uplinkReadDone (c : Ctx) (p : Fin 4) (u : Units) : Units :=
  match portVals u p with
  | none => u
  | some (count, power) =>
    if !c.sup.built then u
    else
      let inUse := ((portPlaces p).filter (fun ch => (u.chans.get ch).inUse)).length
      let faulted := (portPlaces p).any (fun ch => (u.chans.get ch).state == .faulted)
      let drains := portDrains p u
      let u :=
        if inUse = count then
          (portPlaces p).foldl (fun u ch =>
            if (u.chans.get ch).state = .faulted then updChan ch (vacate (idleState u p)) u else u) u
        else
          let u := disableIdle (portLeavesUse c p (u.updPort p (fun x => { x with state := .unavailable })))
          portComesIntoUse p (u.updPort p (fun x => { x with state := portStateOf c u p }))
      let u := u.updPort p (fun x => if x.enable then { x with power := power } else x)
      let freed := (u.ports.get p).state == .up && (faulted || inUse != count)
      serveIf c (freed || (inUse != count && drains)) u

/-! ### Crossbar answers (R137 to R139) -/

/-- What the crossbar does when it carries a command out (R137). -/
def crossbarDo (cmd : XCmd) (x : Vector (Option (Fin 12 × Fin 4)) 32) : Vector (Option (Fin 12 × Fin 4)) 32 :=
  match cmd with
  | .clear => Vector.replicate 32 none
  | .disconnect ch => updAt x ch (fun _ => none)
  | .connect ch n k =>
    updAt (updAll x (fun j => if j = some (n, k) then none else j)) ch (fun _ => some (n, k))

/-- An acknowledge for a channel's command (R138, R139). -/
def channelAnswered (c : Ctx) (cmd : XCmd) (u : Units) : Units :=
  match cmd with
  | .clear => u
  | .connect ch _ _ =>
    let u := updChan ch (fun x => { x with cmd := .none }) u
    let x := u.chans.get ch
    if x.state = .switching then
      if (u.ports.get (portOf ch)).state = .up then updChan ch (fun x => { x with state := .assigned }) u
      else disableIdle (failover c ch u)
    else if x.state = .draining ∧ x.answer then
      updChan ch (fun x => { x with answer := false, drain := startTimer c (drainTime c) }) u
    else u
  | .disconnect ch =>
    let u := updChan ch (fun x => { x with cmd := .none }) u
    if (u.chans.get ch).state = .draining then disableIdle (updChan ch (vacate (idleState u (portOf ch))) u) else u

/-- A channel's command has timed out (R138, R139): the channel becomes FAULTED and loses its holder; a holder in ON seeks a channel
for the place at once and waits if none is found. A port left without a held channel is disabled before the replacement is sought, so that
the same port then needs a new enable request (DESIGN CHOICE, log 42). -/
def channelTimedOut (c : Ctx) (cmd : XCmd) (u : Units) : Units :=
  match cmdChan cmd with
  | none => u
  | some ch =>
    let x := u.chans.get ch
    if x.state = .switching ∨ x.state = .draining then
      let u := disableIdle (updChan ch (vacate .faulted) u)
      match x.held with
      | some (n, k) =>
        if x.state = .switching then
          let u := holderLost n u
          if (u.slot n).state = .on then
            let u := match chooseChannel c u (groupMatches c (u.slot n).group) with
              | some new => if k.val < laneLimit u n ∧ 0 < pendingCount u n then takeChannel c new n k u else u
              | none => u
            syncWait n u
          else u
        else u
      | none => u
    else updChan ch (fun x => { x with cmd := .none }) u

/-- The end of the command in flight empties a lane place of a draining channel: its DISCONNECT has ended, or its CONNECT has timed out
(R139); the wait list is then served (R136). -/
def endsDrain (f : XFlight) (ack : Bool) (u : Units) : Bool := !f.ignored && match f.cmd with
  | .clear => false
  | .disconnect ch => (u.chans.get ch).state == .draining
  | .connect ch _ _ => !ack && (u.chans.get ch).state == .draining

/-- The command in flight ends; whether this answer (`ack`) or a timeout ended it, the channel acts and the next command is sent.
An ignored command's channel does not act (R137). -/
def endCommand (c : Ctx) (f : XFlight) (ack : Bool) (u : Units) : Units :=
  let u := { u with xFlight := none }
  let u := if f.ignored then u else if ack then channelAnswered c f.cmd u else channelTimedOut c f.cmd u
  sendNext c u

end Sys2Proof.Machine
end

