-- ==== Sys2Proof/Machine/Slots.lean ====
section
/-! DEFINITION. What the slot controller and the rail and sense unit do to a slot: cuts, quiesces, charging, the fault latch, the cap
watch (R12 to R26, R78 to R90). None of these settles the account: the command that causes them does, once (log 9). -/

namespace Sys2Proof.Machine

/-! ### Cap watch (R78, R79) -/

/-- The cap watch limit: floor(allowance × (100 + cap margin) / 100) (R78). -/
def watchLimit (c : Ctx) (x : Slot) : Nat := x.allowance * (100 + capMargin c) / 100

/-- A comparison of the cap watch (R78, R79): it is made in ON and QUIESCING outside STARTUP. -/
def watchCompare (c : Ctx) (x : Slot) : Slot :=
  if (x.state == .on || x.state == .quiescing) && !inStartup c then
    if watchLimit c x < drawAverage x then
      match x.watch with
      | .clear => { x with watch := .over, watchTimer := startTimer c (capGrace c) }
      | _ => x
    else { x with watch := .clear, watchTimer := none }
  else x

/-- The allowance of a slot becomes `w`; the cap watch compares at each change, and only then (R13, R78). -/
def newAllowance (c : Ctx) (w : Nat) (x : Slot) : Slot :=
  if x.allowance = w then x else watchCompare c { x with allowance := w }

def setAllowance (c : Ctx) (n : Fin 12) (w : Nat) (u : Units) : Units := u.updSlot n (newAllowance c w)

/-! ### Lists -/

/-- The slot's wait queue or raise entry is removed (R54). -/
def removeWait (n : Fin 12) (u : Units) : Units := { u with waitQ := u.waitQ.filter (fun e => e.slot != n) }

/-- The slot leaves the grant order list and the capped list (R61, R68). -/
def leaveOnLists (n : Fin 12) (u : Units) : Units :=
  { u with grantOrder := u.grantOrder.filter (· != n), capped := u.capped.filter (· != n) }

/-! ### Thermal fields of a slot that leaves power (R101) -/

def coolSlot (x : Slot) : Slot :=
  { x with readings := List.replicate 4 none, zoneInput := none, ageStart := none, stale := false, warned := false }

/-! ### Cuts (R15, R90) -/

/-- The effects every cut has on the slot itself: main enable deasserted, draw average reset, charge timer and cap watch stopped, grant
and allowance 0, quiesce fields absent, thermal fields cleared (R15, R90, R101). -/
def darkSlot (x : Slot) : Slot :=
  coolSlot { x with mainEn := false, chargeTimer := none, chargeStart := none, ring := List.replicate 8 0, watch := .clear,
                    watchTimer := none, grant := 0, allowance := 0, qReason := none, qTimer := none, qRemaining := 0 }

/-- The effects every cut has: on the slot, on the lists it stands on, and on its channels (R15, R75, R140). -/
def powerOff (c : Ctx) (n : Fin 12) (u : Units) : Units :=
  let u := releaseSlot c n u
  let u := leaveOnLists n (removeWait n u)
  { u with shed := u.shed.filter (· != n) }.updSlot n darkSlot

/-- A cut that leads to SETTLING; it has no effect on a slot without main power (R15, R17). -/
def cutToSettling (c : Ctx) (n : Fin 12) (u : Units) : Units :=
  if powered (u.slot n) then
    (powerOff c n u).updSlot n (fun x => { x with state := .settling, settleTimer := startTimer c Config.settling })
  else u

/-- A cut that leads to FAULT: the reason is recorded, FAULT and SLOT_FAULT are set, and the lever cycle mark if the lever is open
(R15, R16). -/
def cutToFault (c : Ctx) (n : Fin 12) (r : FaultReason) (u : Units) : Units :=
  if powered (u.slot n) then
    let u := (powerOff c n u).updSlot n (fun x =>
      { x with state := .fault, faultReason := some r, leverMark := x.leverMark || !leverClosed c n })
    setChassisBit .slotFault (setSlotBit n .fault u)
  else u

/-! ### Quiesce (R18, R21) -/

/-- Entry to QUIESCING from ON (R18, R101, R140). -/
def enterQuiesce (c : Ctx) (n : Fin 12) (r : QReason) (u : Units) : Units :=
  let u := quiesceClaim n (leaveOnLists n (removeWait n u))
  u.updSlot n (fun x =>
    { x with state := .quiescing, qNumber := x.qNumber + 1, qReason := some r, defers := 0,
             qTimer := startTimer c (quiesceTime c n), qRemaining := (quiesceTime c n + 99) / 100, ageStart := none })

/-- A thermal trip (R103): cuts in CHARGING, quiesces in ON, changes the reason of another quiesce. -/
def thermalTrip (c : Ctx) (n : Fin 12) (u : Units) : Units :=
  match (u.slot n).state with
  | .charging => cutToSettling c n u
  | .on => enterQuiesce c n .thermal u
  | .quiescing =>
    if (u.slot n).qReason = some .thermal then u
    else u.updSlot n (fun x => { x with qReason := some .thermal, qRemaining := unitsLeft c x.qTimer })
  | _ => u

/-! ### Charging (R12, R14, R86, R87) -/

/-- Entry to ON: the claim is empty, the report age starts from zero outside STARTUP, the cap watch is CLEAR (R78, R100, R132). -/
def enterOn (c : Ctx) (x : Slot) : Slot :=
  { x with state := .on, chargeTimer := none, chargeStart := none, watch := .clear, watchTimer := none, claimed := 0, group := .any,
           ageStart := if inStartup c then none else some c.now }

/-- The slot stands at the end of the grant order list (R61). -/
def toGrantEnd (n : Fin 12) (u : Units) : Units := { u with grantOrder := u.grantOrder.filter (· != n) ++ [n] }

/-- A grant to a slot in WAIT_POWER: CHARGING, main enable asserted, charge timer started, and the input levels judged at once
(R12, R59, R86, R101). -/
def startCharge (c : Ctx) (n : Fin 12) (watts : Nat) (u : Units) : Units :=
  let u := (toGrantEnd n u).updSlot n (fun x =>
    { coolSlot x with state := .charging, grant := watts, allowance := watts, mainEn := true,
                      chargeTimer := startTimer c (chargeTime c n), chargeStart := some c.now })
  if railFltLevel c n then cutToFault c n .overcurrent u
  else if pgoodLevel c n then u.updSlot n (fun x => enterOn c { x with lastCharge := 0 })
  else u

/-- A granted raise: the increment joins grant and allowance of a slot in ON, which moves to the end of the grant order list
(R12, R59, R61). -/
def applyRaise (c : Ctx) (n : Fin 12) (inc : Nat) (u : Units) : Units :=
  (toGrantEnd n u).updSlot n (fun x => { newAllowance c (x.allowance + inc) x with grant := x.grant + inc })

/-- Power-good for a slot in CHARGING: ON, with the time since the main enable as the last charge time, at most 2550 ms
(R14, R87). -/
def powerGood (c : Ctx) (n : Fin 12) (u : Units) : Units :=
  u.updSlot n (fun x => enterOn c { x with lastCharge := min 2550 (c.now - x.chargeStart.getD c.now) })

/-! ### Return to IDENTIFIED or STANDBY -/

/-- IDENTIFIED if BLADEn is VALID, STANDBY otherwise (R16, R17). -/
def restState (u : Units) (n : Fin 12) : SlotState := if bladeValid u n then .identified else .standby

/-- The FAULT latch clears (R16). -/
def clearLatch (n : Fin 12) (u : Units) : Units :=
  u.updSlot n (fun x => { x with state := restState u n, faultReason := none, leverMark := false })

/-- A WAIT_POWER slot loses its entry and enters IDENTIFIED (R10, R23, R24, R26). -/
def leaveWaitPower (n : Fin 12) (u : Units) : Units :=
  (removeWait n u).updSlot n (fun x => { x with state := .identified })

/-! ### Lever and override (R23, R24) -/

/-- A lever opening by the slot's state (R23). -/
def leverOpened (c : Ctx) (n : Fin 12) (u : Units) : Units :=
  match (u.slot n).state with
  | .waitPower => leaveWaitPower n u
  | .charging => cutToSettling c n u
  | .on => enterQuiesce c n .eject u
  | .fault => u.updSlot n (fun x => { x with leverMark := true })
  | .seating => u.updSlot n (fun x => { x with seatTimer := none })
  | _ => u

/-- The hold of a slot begins (R24). -/
def holdSlot (c : Ctx) (n : Fin 12) (u : Units) : Units :=
  match (u.slot n).state with
  | .waitPower => leaveWaitPower n u
  | .charging | .on | .quiescing => cutToSettling c n u
  | _ => u

/-! ### Seating (R4) -/

/-- The slot enters SEATING; its timer runs while the lever is closed (R4). -/
def enterSeating (c : Ctx) (n : Fin 12) (u : Units) : Units :=
  u.updSlot n (fun x => { x with state := .seating, seatTimer := if leverClosed c n then startTimer c Config.seating else none })

end Sys2Proof.Machine
end

