-- ==== Sys2Proof/Machine/Budget.lean ====
section
/-! DEFINITION. The budget unit: wait queue, deficits, caps, shedding, restoration and the queue scan (R53 to R77). `settle` is what the
unit does after a change of the account, the queue or the lists. -/

namespace Sys2Proof.Machine

/-! ### Wait queue (R53 to R55) -/

/-- An entry stands before another: lower class first, then join order (R53). -/
def waitBefore (a b : WaitEntry) : Bool := decide (a.cls < b.cls) || (a.cls == b.cls && decide (a.join < b.join))

/-- Place an entry by class and join order (R53). -/
def insertWait (e : WaitEntry) : List WaitEntry → List WaitEntry
  | [] => [e]
  | x :: rest => if waitBefore e x then e :: x :: rest else x :: insertWait e rest

/-- A new entry joins last in join order, with skip count 0 (R53, R54). -/
def joinWait (c : Ctx) (n : Fin 12) (watts : Nat) (isRaise : Bool) (u : Units) : Units :=
  { u with waitQ := insertWait { slot := n, watts := watts, isRaise := isRaise, cls := slotClass c n, skips := 0, join := u.joinNext } u.waitQ,
           joinNext := u.joinNext + 1 }

def hasWait (u : Units) (n : Fin 12) : Bool := u.waitQ.any (fun e => e.slot == n)

/-- The entry's watts are replaced in place (R54). -/
def replaceWatts (n : Fin 12) (watts : Nat) (u : Units) : Units :=
  { u with waitQ := u.waitQ.map (fun e => if e.slot = n then { e with watts := watts } else e) }

/-- A raise is wanted: an entry joins, or the watts of the slot's entry are replaced (R11, R54). -/
def wantRaise (c : Ctx) (n : Fin 12) (inc : Nat) (u : Units) : Units :=
  if hasWait u n then replaceWatts n inc u else joinWait c n inc true u

/-- A class change re-positions the slot's entry (R55). -/
def repositionWait (c : Ctx) (n : Fin 12) (u : Units) : Units :=
  match u.waitQ.find? (fun e => e.slot == n) with
  | some e => { u with waitQ := insertWait { e with cls := slotClass c n } (u.waitQ.filter (fun x => x.slot != n)) }
  | none => u

/-! ### Deficit detection (R65, R66) -/

/-- A recomputation: the deficit flag follows headroom, a new deficit sets DEFICIT, and the shed delay timer stops when the planned
deficit is 0 or below (R50, R65, R71). -/
def recompute (c : Ctx) (u : Units) : Units :=
  let neg := decide (headroom c u < 0)
  let u := if neg && !u.deficit then setChassisBit .deficit u else u
  { u with deficit := neg, shedTimer := if plannedDeficit c u ≤ 0 then none else u.shedTimer }

/-! ### Order of candidates (R67, R72) -/

/-- Lowest class first. -/
def classOrder : List Nat := [3, 2, 1, 0]

/-- Candidates of the cap step: slots in ON above their minimum, lowest class first, most recently granted first (R67). -/
def capCandidates (c : Ctx) (u : Units) : List (Fin 12) :=
  classOrder.flatMap (fun k => u.grantOrder.reverse.filter (fun n =>
    (u.slot n).state == .on && slotClass c n == k && decide (minPower u n < (u.slot n).allowance)))

/-- Candidates for shedding: the same order, the CHARGING slots of a class before its ON slots (R72). -/
def shedCandidates (c : Ctx) (u : Units) : List (Fin 12) :=
  classOrder.flatMap (fun k =>
    u.grantOrder.reverse.filter (fun n => (u.slot n).state == .charging && slotClass c n == k)
      ++ u.grantOrder.reverse.filter (fun n => (u.slot n).state == .on && slotClass c n == k))

/-! ### Caps (R67, R68) -/

/-- The cap step at one candidate: cut by the smaller of its room and the planned deficit that remains; a slot cut for the first time
joins the capped list; CAPPED is set (R67, R68). -/
def capOne (c : Ctx) (u : Units) (n : Fin 12) : Units :=
  let room := (u.slot n).allowance - minPower u n
  let cut := min room (plannedDeficit c u).toNat
  if cut = 0 ∨ (u.slot n).state ≠ .on then u
  else
    let u := setAllowance c n ((u.slot n).allowance - cut) u
    setSlotBit n .capped (if u.capped.contains n then u else { u with capped := u.capped ++ [n] })

def capStep (c : Ctx) (u : Units) : Units := (capCandidates c u).foldl (capOne c) u

/-! ### Shedding (R70 to R75) -/

/-- A victim joins the shed list and its event bits are set (R72). -/
def markVictim (n : Fin 12) (u : Units) : Units :=
  setChassisBit .loadShed (setSlotBit n .shed (if u.shed.contains n then u else { u with shed := u.shed ++ [n] }))

/-- Emergency: cut candidates while the planned deficit is above 0 (R72, R74). -/
def emergencyOne (c : Ctx) (u : Units) (n : Fin 12) : Units :=
  if 0 < plannedDeficit c u ∧ powered (u.slot n) then cutToSettling c n (markVictim n u) else u

def emergencyShed (c : Ctx) (u : Units) : Units :=
  let victims := shedCandidates c u
  if victims.isEmpty then u else setChassisBit .emergencyShed (victims.foldl (emergencyOne c) u)

/-- A planned victim: quiesced in ON, cut at once in CHARGING (R72, R73). -/
def plannedOne (c : Ctx) (u : Units) (n : Fin 12) : Units :=
  if 0 < plannedDeficit c u then
    match (u.slot n).state with
    | .on => enterQuiesce c n .shed (markVictim n u)
    | .charging => cutToSettling c n (markVictim n u)
    | _ => u
  else u

def plannedShed (c : Ctx) (u : Units) : Units := (shedCandidates c u).foldl (plannedOne c) u

/-- The shed decision (R70, R71). -/
def shedDecision (c : Ctx) (u : Units) : Units :=
  let p := plannedDeficit c u
  if p ≤ 0 then { u with shedTimer := none }
  else if (emergencyMargin c : Int) < p then
    let u := emergencyShed c u
    if plannedDeficit c u ≤ 0 then { u with shedTimer := none } else u
  else if u.shedTimer = none ∧ !inStartup c ∧ !(shedCandidates c u).isEmpty then
    { u with shedTimer := startTimer c (shedDelay c) }
  else u

/-- Deficit handling: the cap step, then the shed decision (R65). -/
def deficitHandling (c : Ctx) (u : Units) : Units :=
  if headroom c u < 0 then shedDecision c (capStep c u) else u

/-! ### Loss of all supplies (R77) -/

def allSuppliesLost (u : Units) : Bool :=
  (indices 4).all (fun k => (u.supplies.get k).state == .failed || (u.supplies.get k).state == .absent)

def anySupplyOk (u : Units) : Bool := (indices 4).any (fun k => (u.supplies.get k).state == .ok)

/-- The supply-side emergency begins: every powered slot is cut in slot number order (R77). -/
def losePower (c : Ctx) (u : Units) : Units :=
  let victims := (indices 12).filter (fun n => powered (u.slot n))
  let u := victims.foldl (fun u n => cutToSettling c n (markVictim n u)) (setChassisBit .powerLost u)
  let u := if victims.isEmpty then u else setChassisBit .emergencyShed u
  { u with emergency := true, shedTimer := none }

def supplyEmergency (c : Ctx) (u : Units) : Units :=
  if u.emergency then (if anySupplyOk u then { u with emergency := false } else { u with shedTimer := none })
  else if allSuppliesLost u then losePower c u
  else u

/-! ### Restoration and the queue scan (R56 to R59) -/

/-- Restoration passes over a slot whose blade entry is not VALID (R56, R57). -/
def passedOver (u : Units) (n : Fin 12) : Bool := (u.slot n).unvalidated || !bladeValid u n

/-- Restoration at one entry: the smaller of its cut and the headroom (R57). -/
def restoreOne (c : Ctx) (u : Units) (n : Fin 12) : Units :=
  let w := min (cutOf (u.slot n)) (headroom c u).toNat
  if headroom c u ≤ 0 ∨ passedOver u n ∨ (u.slot n).state ≠ .on then u
  else
    let done := cutOf (u.slot n) ≤ w
    let u := setAllowance c n ((u.slot n).allowance + w) u
    if done then { u with capped := u.capped.filter (· != n) } else u

def restoration (c : Ctx) (u : Units) : Units := u.capped.reverse.foldl (restoreOne c) u

/-- The first entry of the queue that fits, with the entries gone past and those behind; none when the scan stops without a grant, at a
barrier or at the end (R58). `gone` is held in reverse. -/
def findGrant (fits : WaitEntry → Bool) (skips : Nat) (gone : List WaitEntry) :
    List WaitEntry → Option (List WaitEntry × WaitEntry × List WaitEntry)
  | [] => none
  | e :: rest =>
    if fits e then some (gone.reverse, e, rest)
    else if skips ≤ e.skips then none
    else findGrant fits skips (e :: gone) rest

/-- An entry fits when its watts are at most the headroom; no grant reaches a slot whose blade entry is not VALID (R56, R58). -/
def entryFits (c : Ctx) (u : Units) (e : WaitEntry) : Bool := decide ((e.watts : Int) ≤ headroom c u) && bladeValid u e.slot

/-- The grant reaches the slot as it stands (R12, R59). -/
def applyGrant (c : Ctx) (e : WaitEntry) (u : Units) : Units :=
  match e.isRaise, (u.slot e.slot).state with
  | false, .waitPower => startCharge c e.slot e.watts u
  | true, .on => applyRaise c e.slot e.watts u
  | _, _ => u

/-- One entry gone past has its skip count raised by one, at most 15 (R58). -/
def skipped (e : WaitEntry) : WaitEntry := { e with skips := min 15 (e.skips + 1) }

/-- The queue scan: passes from the head, one grant a pass; each grant takes an entry, so `fuel` is the length of the queue (R58). -/
def queueScan (c : Ctx) : Nat → Units → Units
  | 0, u => u
  | fuel + 1, u =>
    match findGrant (entryFits c u) (maxSkips c) [] u.waitQ with
    | none => u
    | some (gone, e, rest) => queueScan c fuel (applyGrant c e { u with waitQ := gone.map skipped ++ rest })

/-- The conditions under which restoration runs (R56, R62). -/
def mayRestore (c : Ctx) (u : Units) : Bool :=
  !inStartup c && decide (0 ≤ headroom c u) && !(c.sup.mode == .failsafe && powerHold c) && u.shed.isEmpty

/-- Restoration, the queue scan unless a capped entry that is not passed over remains, and then the uplink wait list while headroom is
above 0 (R56, R136). -/
def restoreAndScan (c : Ctx) (u : Units) : Units :=
  if mayRestore c u then
    let u := restoration c u
    let u := if u.capped.any (fun n => !passedOver u n) then u else queueScan c u.waitQ.length u
    if 0 < headroom c u then serveWait c u else u
  else u

/-- What the budget unit does after a change (R50, R56, R65): recompute, the supply-side emergency, deficit handling, restoration and the
queue scan. Before the account is built at start-up it does nothing (R63, R64). In the event that loses all supplies the emergency's cuts
come before the cap step, which then finds no candidate: no CAPPED bit is set (R77 does not say in which order; DESIGN CHOICE, log 38). -/
def settle (c : Ctx) (u : Units) : Units :=
  if c.sup.built then
    restoreAndScan c (recompute c (deficitHandling c (supplyEmergency c (recompute c u))))
  else u

/-- What the terms of the account rest on, apart from the configuration rows, whose commits recompute it themselves: state and counted
capacity of each supply, port powers and port disables, zone estimates, standby reservation, and of each slot the allowance and whether it
is releasing (R46, R47, R49, R50, R66, R141). -/
structure AccountTerms where
  supplies : List (SupplyState × Nat)
  portPowers : List Nat
  disables : Nat
  estimates : List Nat
  standby : Nat
  allowances : List (Nat × Bool)
  deriving DecidableEq, Repr

def accountTerms (c : Ctx) (u : Units) : AccountTerms :=
  { supplies := u.supplies.toList.map (fun x => (x.state, x.counted)), portPowers := u.ports.toList.map (·.power), disables := u.disables,
    estimates := u.zones.toList.map (·.estimate), standby := standbyReservation c u,
    allowances := u.slots.toList.map (fun x => (x.allowance, x.state == .quiescing)) }

/-- What else restoration and the queue scan follow: the wait queue, the capped list with the slots' cuts, and the shed list (R11, R54,
R55, R56). -/
structure BudgetLists where
  waitQ : List WaitEntry
  capped : List (Fin 12)
  cuts : List Nat
  shed : List (Fin 12)
  deriving DecidableEq, Repr

def budgetLists (u : Units) : BudgetLists :=
  { waitQ := u.waitQ, capped := u.capped, cuts := u.slots.toList.map cutOf, shed := u.shed }

/-- An event has made `u'` of `u`. A changed term recomputes the account, which may lead to deficit handling (R50, R65); a change of the
lists alone is followed by restoration and the queue scan and by no recomputation (R54, R55, R56). -/
def settleAfter (c : Ctx) (u u' : Units) : Units :=
  if accountTerms c u ≠ accountTerms c u' then settle c u'
  else if budgetLists u ≠ budgetLists u' ∧ c.sup.built then restoreAndScan c u'
  else u'

end Sys2Proof.Machine
end

