-- ==== Sys2Proof/Machine/Fans.lean ====
section
/-! DEFINITION. The fan unit: zone update, floors, fan records, tach judgment, power estimate, PWM generators (R110 to R126). -/

namespace Sys2Proof.Machine

/-! ### Power estimate (R125) -/

/-- ceil(rated × d³ / 10⁹) (R125). -/
def fanPower (rated d : Nat) : Nat := (rated * d ^ 3 + 999999999) / 1000000000

/-- A fan counts in the estimate when it is neither ABSENT nor FAILED (R125). -/
def fanCounts (x : Fan) : Bool := x.state != .absent && x.state != .failed

/-- The estimate of a zone: the sum over its fans that count (R125). -/
def zoneEstimate (u : Units) (z : Fin 3) : Nat :=
  ((zoneFans z).map (fun f => if fanCounts (u.fans.get f) then fanPower (u.fans.get f).rated (u.zones.get z).duty else 0)).sum

/-- The estimate is recomputed and reported; the zone term of the account is the estimate (R47, R125). -/
def reEstimate (z : Fin 3) (u : Units) : Units := u.updZone z (fun x => { x with estimate := zoneEstimate u z })

/-- A zone takes a duty; the open tach gate is judged only if the duty stays at least 200 (R123). -/
def setDuty (z : Fin 3) (d : Nat) (u : Units) : Units :=
  u.updZone z (fun x => { x with duty := d, gateOk := x.gateOk && decide (200 ≤ d) })

/-! ### Zone update (R112 to R117) -/

/-- The curve value at a temperature (R113). -/
def curveValue (c : Ctx) (z : Fin 3) (t : Int) : Nat :=
  let p := curvePoint c z
  let between := fun (a b : Int × Nat) => ((a.2 : Int) + (t - a.1) * ((b.2 : Int) - a.2) / (b.1 - a.1)).toNat
  if t ≤ (p 0).1 then (p 0).2
  else if (p 3).1 ≤ t then (p 3).2
  else if t < (p 1).1 then between (p 0) (p 1)
  else if t < (p 2).1 then between (p 1) (p 2)
  else between (p 2) (p 3)

/-- The demand of a source: 1000 when stale, none without a temperature, else the curve value (R113). -/
def sourceDemand (c : Ctx) (z : Fin 3) (stale : Bool) (t : Option Int) : Option Nat :=
  if stale then some 1000 else t.map (curveValue c z)

/-- Stage 1: the demands of the zone's slots that are thermal sources and of its chassis sensors (R113). -/
def zoneDemands (c : Ctx) (u : Units) (z : Fin 3) : List Nat :=
  (indices 12).filterMap (fun n =>
      if slotInZone c n z && powered (u.slot n) then sourceDemand c z (u.slot n).stale (u.slot n).zoneInput else none)
    ++ (indices 4).filterMap (fun k =>
      if sensorInZone c k z then sourceDemand c z (u.sensors.get k).stale (u.sensors.get k).value else none)

/-- Either monitor of the zone is held, is ABOVE and has boost enable set (R114). -/
def zoneBoosts (c : Ctx) (u : Units) (z : Fin 3) : Bool :=
  ((u.zones.get z).monA.held && !monBelow c z false && monBoost c z false)
    || ((u.zones.get z).monB.held && !monBelow c z true && monBoost c z true)

/-- Stage 2: the largest demand, the floor when no source gave one, 1000 under boost (R114). -/
def rawDemand (c : Ctx) (u : Units) (z : Fin 3) : Nat :=
  if zoneBoosts c u z then 1000
  else match zoneDemands c u z with
    | [] => zoneFloor c z
    | d :: rest => rest.foldl max d

/-- The zone is one fan short: either fan FAILED or ABSENT (R115). -/
def fanShort (u : Units) (z : Fin 3) : Bool := (zoneFans z).any (fun f => !fanCounts (u.fans.get f))

/-- Stage 3: ceil(raw × comp / 100), at most 1000, when the zone is one fan short (R115). -/
def compensated (c : Ctx) (u : Units) (z : Fin 3) : Nat :=
  if fanShort u z then min 1000 ((rawDemand c u z * compensation c z + 99) / 100) else rawDemand c u z

/-- The lower limit: the floor, in FAILSAFE the larger of floor and fail-safe duty (R116). -/
def lowerLimit (c : Ctx) (z : Fin 3) : Nat :=
  if c.sup.mode = .failsafe then max (zoneFloor c z) (failsafeDuty c z) else zoneFloor c z

/-- Stage 4: the compensated demand limited to lower limit to 1000 (R116). -/
def zoneTarget (c : Ctx) (u : Units) (z : Fin 3) : Nat := min 1000 (max (lowerLimit c z) (compensated c u z))

/-- Stage 5: up at once, down by at most the slew (R117). -/
def nextDuty (c : Ctx) (u : Units) (z : Fin 3) : Nat :=
  let present := (u.zones.get z).duty
  if present ≤ zoneTarget c u z then zoneTarget c u z else max (zoneTarget c u z) (present - slewDown c z)

/-- One update of a zone, made whole; its timer starts again (R112). -/
def zoneUpdate (c : Ctx) (z : Fin 3) (u : Units) : Units :=
  let u' := u.updZone z (fun x =>
    { x with raw := rawDemand c u z, sources := (zoneDemands c u z).length, boost := zoneBoosts c u z, comp := fanShort u z,
             target := zoneTarget c u z, updTimer := startTimer c (updatePeriod c z) })
  reEstimate z (setDuty z (nextDuty c u z) u')

/-- The lower limit has been raised: a zone below it takes it as duty and target at once (R116). -/
def enforceFloor (c : Ctx) (z : Fin 3) (u : Units) : Units :=
  if (u.zones.get z).duty < lowerLimit c z then
    reEstimate z ((setDuty z (lowerLimit c z) u).updZone z (fun x => { x with target := lowerLimit c z }))
  else u

/-! ### Fan records (R111, R124) -/

/-- The state of a fan from presence, tach verdict and inventory entry (R111). -/
def fanStateOf (present verdictFailed : Bool) (e : EntryState) : FanState :=
  if !present then .absent
  else if verdictFailed then .failed
  else match e with
    | .absent | .unread => .unread
    | .invalid | .duplicate => .invalid
    | .valid => .running

/-- Rated power in use and max rpm of a fan (R41, R111). -/
def fanVals (present : Bool) (e : Entry) : Nat × Nat :=
  if !present then (0, 0)
  else match e.state, e.ident.vals with
    | .valid, .fan rated maxRpm => (rated, maxRpm)
    | _, _ => (200, 0)

/-- The fan record is derived again from presence, verdict and entry; a loss of presence clears verdict, pulses and runs; the
estimate of the zone follows (R111, R124). -/
def deriveFan (c : Ctx) (f : Fin 6) (u : Units) : Units :=
  let present := bayLevel c (fanBay f)
  let e := u.inv.get (bayPos (fanBay f))
  let u := u.updFan f (fun x =>
    let x := if present then x else { x with verdictFailed := false, pulses := 0, lowRun := 0, highRun := 0, whole := false }
    { x with state := fanStateOf present x.verdictFailed e.state, rated := (fanVals present e).1, maxRpm := (fanVals present e).2 })
  reEstimate (fanZone f) u

/-! ### Tach gates (R122, R123) -/

/-- Speed in rpm (R111). -/
def fanSpeed (x : Fan) : Nat := x.pulses * 30

/-- A rising edge of FAN_TACH while a gate is open; the count saturates at 1023 (R122). -/
def tachCount (f : Fin 6) (u : Units) : Units :=
  if u.gateTimer.isSome then u.updFan f (fun x => { x with count := min 1023 (x.count + 1) }) else u

/-- A judged gate: the runs and the verdict (R123). -/
def judgeFan (minRpm : Nat) (x : Fan) : Fan :=
  if fanSpeed x < minRpm then
    let low := min 3 (x.lowRun + 1)
    { x with lowRun := low, highRun := 0, verdictFailed := x.verdictFailed || low == 3 }
  else
    let high := min 3 (x.highRun + 1)
    { x with lowRun := 0, highRun := high, verdictFailed := x.verdictFailed && high != 3 }

/-- A gate closes for one fan: pulses are the count, unless the fan was absent at some time; the gate is judged when the fan was
present and the duty at least 200 throughout; the next gate opens (R122, R123). -/
def closeGate (c : Ctx) (f : Fin 6) (u : Units) : Units :=
  let old := u.fans.get f
  let present := old.whole && old.state != .absent
  let x := { old with pulses := if present then old.count else 0, count := 0, whole := old.state != .absent }
  let x := if present && (u.zones.get (fanZone f)).gateOk then judgeFan (minRpm c) x else { x with lowRun := 0, highRun := 0 }
  let u := u.updFan f (fun _ => x)
  let u := if x.verdictFailed && !old.verdictFailed then setChassisBit .fanFault u else u
  if x.verdictFailed = old.verdictFailed then u else deriveFan c f u

/-- The gate timer expires: every fan's gate closes and the next gate opens (R122). -/
def closeGates (c : Ctx) (u : Units) : Units :=
  let u := (indices 6).foldl (fun u f => closeGate c f u) u
  { u with gateTimer := startTimer c Config.tachGate,
           zones := updAll u.zones (fun x => { x with gateOk := decide (200 ≤ x.duty) }) }

/-- The first gate opens at the end of start-up (R122). -/
def openGates (c : Ctx) (u : Units) : Units :=
  { u with gateTimer := startTimer c Config.tachGate,
           zones := updAll u.zones (fun x => { x with gateOk := decide (200 ≤ x.duty) }),
           fans := updAll u.fans (fun x => { x with count := 0, whole := x.state != .absent }) }

/-! ### PWM (R118 to R121) -/

/-- Q, the duty in quarter counts (R119). -/
def quarterCounts (d upper : Nat) : Nat := d * (upper + 1) * 4 / 1000

/-- A generator at a group start: C and f of its zone's duty if it drives, its output inactive if not (R119, R120). -/
def loadGen (u : Units) (upper : Nat) (f : Fin 6) (drives : Bool) : Gen :=
  let q := quarterCounts (u.zones.get (fanZone f)).duty upper
  if drives then { drives := true, c := q / 4, f := q % 4 } else .reset

/-- The generator drives unless its fan is ABSENT; until the contacts are sampled it goes on as it was (R120, log 10). -/
def genDrives (c : Ctx) (u : Units) (f : Fin 6) (g : Gen) : Bool := if c.pins.sampled then (u.fans.get f).state != .absent else g.drives

/-- The generators take the parameters of the row 23 shadow (R121, R128). -/
def takeParams (c : Ctx) (p : Pwm) : Pwm :=
  let r := c.cfg.rows.get 23
  { p with running := true, prescaler := byteAt r 0, divider := byteAt r 1, upper := wordAt r 2, polarity := byteAt r 4 }

/-- The configuration load of start-up has given the shadow (R121, R173). -/
def configLoaded (c : Ctx) : Bool := c.sup.phase != .deviceId && c.sup.phase != .rows

/-- A shared group start: row 23 gives the parameters once it is loaded, and every generator loads its zone's duty (R119 to R121). -/
def groupStart (c : Ctx) (u : Units) (p : Pwm) : Pwm :=
  let p := if configLoaded c then takeParams c p else p
  if p.running then { p with gens := Vector.ofFn (fun f => loadGen u p.upper f (genDrives c u f (p.gens.get f))) } else p

/-- The configuration load has given the row 23 shadow: generators that were held low start together, each that has a fan with its zone's
duty (R121). The contacts are not sampled yet, so the raw presence level says whether there is one (DESIGN CHOICE, log 10). Generators
that run, through a warm restart, go on to their next group start. -/
def startGens (c : Ctx) (u : Units) (p : Pwm) : Pwm :=
  if p.running then p
  else
    let p := takeParams c p
    { p with gens := Vector.ofFn (fun f => loadGen u p.upper f (c.pins.bay.get (fanBay f)).raw) }

/-- A generator whose fan is ABSENT holds its output at the inactive level from that moment on (R120). -/
def restGens (u : Units) (p : Pwm) : Pwm :=
  { p with gens := Vector.ofFn (fun f => if (u.fans.get f).state = .absent then .reset else p.gens.get f) }

/-- High time in counts of period `i` of the dither group (R118, R119). -/
def Gen.highTime (g : Gen) (i : Fin 4) : Nat :=
  g.c + (if g.f = 1 ∧ i = 0 ∨ g.f = 2 ∧ (i = 0 ∨ i = 2) ∨ g.f = 3 ∧ i ≠ 3 then 1 else 0)

/-- The level of FAN_PWM at a count of a period: low until the generators run, else active for the high time and inactive for the
rest, active being low for an inverted fan (R118, R121). -/
def Pwm.output (p : Pwm) (f : Fin 6) (period : Fin 4) (count : Nat) : Bool :=
  p.running && (decide (count < (p.gens.get f).highTime period) != p.polarity.testBit f.val)

end Sys2Proof.Machine
end

