-- ==== Sys2Proof/Machine/Inventory.lean ====
section
/-! DEFINITION. The inventory unit: entries, key check, duplicate re-check, module bus queue, identity reads (R28 to R42), and the supply
records that read it (R43 to R45). -/

namespace Sys2Proof.Machine

/-! ### Supply records (R43 to R45) -/

/-- The state of a supply from presence, entry and OK level (R44). -/
def supplyStateOf (present ok : Bool) (e : EntryState) : SupplyState :=
  if !present then .absent
  else match e with
    | .absent | .unread => .unread
    | .valid | .invalid | .duplicate => if ok then .ok else .failed

/-- Identity capacity: of the VALID entry, 0 otherwise (R43). -/
def supplyCapacity (e : Entry) : Nat := match e.state, e.ident.vals with
  | .valid, .supply capacity => capacity
  | _, _ => 0

/-- The supply record is derived again; OK to FAILED and FAILED to OK set their event bits (R44, R45). -/
def deriveSupply (c : Ctx) (k : Fin 4) (u : Units) : Units :=
  let e := u.inv.get (bayPos (supplyBay k))
  let old := (u.supplies.get k).state
  let new := supplyStateOf (bayLevel c (supplyBay k)) (psuOkLevel c k) e.state
  let u := { u with supplies := updAt u.supplies k (fun _ =>
    { state := new, identCap := supplyCapacity e, counted := if new = .ok then supplyCapacity e else 0 }) }
  if old = .ok ∧ new = .failed then setChassisBit .supplyFail u
  else if old = .failed ∧ new = .ok then setChassisBit .supplyReturn u
  else u

/-! ### Entries (R28, R29) -/

/-- The bay of a module position. -/
def posBay (i : Fin 26) : Option (Fin 14) := if h : 12 ≤ i.val then some ⟨i.val - 12, by omega⟩ else none

/-- The slot of a blade position. -/
def posSlot (i : Fin 26) : Option (Fin 12) := if h : i.val < 12 then some ⟨i.val, h⟩ else none

/-- The new entry is reported to the unit that reads the position; the slot controller's reactions are those of the events that change
blade entries and of promotion (R7, R29, R41). -/
def reportEntry (c : Ctx) (i : Fin 26) (u : Units) : Units :=
  match posBay i with
  | none => u
  | some b =>
    if h : b.val < 4 then deriveSupply c ⟨b.val, h⟩ u
    else if h : b.val < 10 then deriveFan c ⟨b.val - 4, by omega⟩ u
    else derivePort c ⟨b.val - 10, by omega⟩ u

/-- The state, reason, identity fields and insertion count are the same (R29). -/
def sameEntry (a b : Entry) : Bool :=
  a.state == b.state && a.reason == b.reason && decide (a.ident = b.ident) && a.inserts == b.inserts

/-- An entry takes new content: on a change the generation rises and becomes the entry's last-change generation, and a change of state sets
INVENTORY_CHANGE (R29). -/
def storeEntry (i : Fin 26) (e : Entry) (u : Units) : Units :=
  let old := u.inv.get i
  if sameEntry old e then u
  else
    let gen := u.invGen + 1
    let u := { u with invGen := gen, inv := updAt u.inv i (fun _ => { e with lastGen := gen }) }
    if old.state = e.state then u else setChassisBit .inventoryChange u

/-- An entry takes new content, and a change of it is reported (R29). -/
def putEntry (c : Ctx) (i : Fin 26) (e : Entry) (u : Units) : Units :=
  if sameEntry (u.inv.get i) e then u else reportEntry c i (storeEntry i e u)

/-- Two identities have the same key (R33). -/
def sameKey (a b : Ident) : Bool := a.vendor == b.vendor && a.product == b.product && a.serial == b.serial

/-- Another entry is VALID with this key (R33). -/
def keyTaken (u : Units) (i : Fin 26) (id : Ident) : Bool :=
  (indices 26).any (fun j => j != i && (u.inv.get j).state == .valid && sameKey (u.inv.get j).ident id)

/-- Active channels of a slot in lane places at or above a limit (R146). -/
def activeAbove (u : Units) (n : Fin 12) (limit : Nat) : List (Fin 32) :=
  (activeOf u n).filter (fun ch => match (u.chans.get ch).held with
    | some (_, k) => decide (limit ≤ k.val)
    | none => false)

/-- The unvalidated mark of a slot is cleared: the lane limit becomes that of the identity, channels above it are released and the claim is
limited to it; a wait list entry without pending count leaves (R7, R136, R146). The zone-input temperature, whose class offset the mark
decides, stays until the next reading change or commit of row 24, the times that R99 names (DEDUCED, log 41). -/
def clearMark (c : Ctx) (n : Fin 12) (u : Units) : Units :=
  if (u.slot n).unvalidated then
    let u := u.updSlot n (fun x => { x with unvalidated := false })
    let u := (activeAbove u n (laneLimit u n)).foldl (fun u ch => releaseChan c ch u) u
    let u := u.updSlot n (fun x => { x with claimed := min x.claimed (laneLimit u n) })
    if pendingCount u n = 0 then { u with upWait := u.upWait.filter (· != n) } else u
  else u

/-- A promotion is reported to the slot controller (R7). -/
def promoted (c : Ctx) (i : Fin 26) (u : Units) : Units :=
  match posSlot i with
  | none => u
  | some n =>
    clearMark c n (if (u.slot n).state = .standby then u.updSlot n (fun x => { x with state := .identified }) else u)

/-- The duplicate re-check over positions in rising order: each DUPLICATE entry whose key no VALID entry has becomes VALID (R34). -/
def recheck (c : Ctx) (positions : List (Fin 26)) (u : Units) : Units :=
  positions.foldl (fun u i =>
    let e := u.inv.get i
    if e.state = .duplicate ∧ !keyTaken u i e.ident then promoted c i (putEntry c i { e with state := .valid } u) else u) u

/-- Blade, supply and fan positions: their promotions may change terms of the account, and none of them asks for headroom. -/
def supplyingPositions : List (Fin 26) := (indices 26).filter (fun i => decide (i.val < 22))

/-- Uplink positions: a promotion brings a port into use and serves the wait list, which asks for headroom (R131, R136). -/
def uplinkPositions : List (Fin 26) := (indices 26).filter (fun i => decide (22 ≤ i.val))

/-- An event gives an entry its new content; `report` tells the units of it; when the entry leaves VALID or its key changes, the re-check
goes through the table in position order (R33, R34). The report comes between the two parts of the re-check, so that every change of a
term of the account that the event brings is made before a port is enabled by it (R50; the order of the reports is DESIGN CHOICE,
log 48). -/
def changeThen (c : Ctx) (i : Fin 26) (e : Entry) (report : Units → Units) (u : Units) : Units :=
  let old := u.inv.get i
  let u := storeEntry i e u
  if old.state = .valid ∧ !(e.state == .valid && sameKey old.ident e.ident) then
    recheck c uplinkPositions (report (recheck c supplyingPositions u))
  else report u

/-- The report of an entry that an event has changed from `old` to `e` (R29). -/
def reportChange (c : Ctx) (i : Fin 26) (old e : Entry) (u : Units) : Units := if sameEntry old e then u else reportEntry c i u

/-- An event changes an entry, which is reported if it differs, and the re-check follows (R29, R33, R34). -/
def changeEntry (c : Ctx) (i : Fin 26) (e : Entry) (u : Units) : Units := changeThen c i e (reportChange c i (u.inv.get i) e) u

/-- The result of a validation: passed with identity fields, or failed with a reason (R32, R38). -/
abbrev Validation := Except Reason Ident

/-- The entry that a validation gives: INVALID, DUPLICATE or VALID (R32, R33, R38). -/
def validatedEntry (u : Units) (i : Fin 26) (v : Validation) : Entry :=
  let old := u.inv.get i
  match v with
  | .error r => { old with state := .invalid, reason := r, ident := .cleared }
  | .ok id => { old with state := if keyTaken u i id then .duplicate else .valid, reason := .none, ident := id }

def applyValidation (c : Ctx) (i : Fin 26) (v : Validation) (u : Units) : Units := changeEntry c i (validatedEntry u i v) u

/-- One more insertion, saturating (R30). -/
def oneMore (count : Nat) : Nat := min 65535 (count + 1)

/-- An arrival at a position: UNREAD with the insertion counted (R31, R35). -/
def unreadEntry (e : Entry) : Entry := { e with state := .unread, reason := .none, ident := .cleared, inserts := oneMore e.inserts }

/-- A position becomes ABSENT (R31, R35). -/
def absentEntry (e : Entry) : Entry := { e with state := .absent, reason := .none, ident := .cleared }

/-! ### Validation (R32, R38) -/

/-- The bytes from offset `a` of length `n`. -/
def sliceAt (bs : List Byte) (a n : Nat) : List Byte := (bs.drop a).take n

def printable (b : Byte) : Bool := decide (0x20 ≤ b.toNat ∧ b.toNat ≤ 0x7E)

/-- The serial length is 1 to `limit` and its characters are printable (R32, R38). -/
def serialOk (bs : List Byte) (lenAt charsAt limit : Nat) : Bool :=
  let n := byteAt bs lenAt
  decide (1 ≤ n ∧ n ≤ limit) && (sliceAt bs charsAt n).all printable

/-- Validation of a blade identity record of 64 bytes (R32). -/
def validateBlade (bs : List Byte) : Validation :=
  let maxP := wordAt bs 6
  let minP := wordAt bs 8
  let trip := signedAt bs 0x0A
  if byteAt bs 0 ≠ 1 then .error .badFormat
  else if (identityCrc (bs.take 0x3D)).toNat ≠ wordAt bs 0x3D then .error .badCrc
  else if !serialOk bs 0x0D 0x0E 24 then .error .badSerial
  else if !inRange 50 1000 maxP then .error .badMaxPower
  else if !(decide (20 ≤ minP) && decide (minP ≤ maxP)) then .error .badMinPower
  else if !decide (60 ≤ trip ∧ trip ≤ 120) then .error .badTrip
  else if 3 < byteAt bs 0x0B then .error .badClass
  else if 4 < byteAt bs 0x0C then .error .badLanes
  else .ok { vendor := BitVec.ofNat 16 (wordAt bs 1), product := BitVec.ofNat 16 (wordAt bs 3), revision := bs.getD 5 0,
             serial := sliceAt bs 0x0E (byteAt bs 0x0D), vals := .blade maxP minP trip (byteAt bs 0x0B) (byteAt bs 0x0C) }

/-- The CRC of a module EEPROM is right (R37). -/
def eepromCrcOk (bs : List Byte) : Bool := decide ((identityCrc (bs.take 30)).toNat = wordAt bs 30)

/-- Kind code of a position: 1 blade, 2 supply, 3 fan, 4 uplink module (12.5, 12.6). -/
def kindCode (i : Fin 26) : Nat := if i.val < 12 then 1 else if i.val < 16 then 2 else if i.val < 22 then 3 else 4

/-- Kind-specific values lie in the ranges of R38. -/
def moduleValsOk : KindVals → Bool
  | .supply capacity => inRange 100 4000 capacity
  | .fan rated maxRpm => inRange 5 200 rated && inRange 1000 30000 maxRpm
  | .uplink channels power => (channels == 4 || channels == 8) && inRange 1 50 power
  | _ => false

/-- Kind-specific values of an EEPROM by kind code (12.6). -/
def eepromVals (kind : Nat) (bs : List Byte) : KindVals :=
  if kind = 2 then .supply (wordAt bs 24)
  else if kind = 3 then .fan (byteAt bs 24) (wordAt bs 25)
  else .uplink (byteAt bs 24) (byteAt bs 25)

/-- Validation of the 32 bytes of a module read (R38). -/
def validateModule (i : Fin 26) (bs : List Byte) : Validation :=
  if byteAt bs 0 ≠ 1 then .error .badFormat
  else if byteAt bs 1 ≠ kindCode i then .error .wrongKind
  else if !serialOk bs 7 8 16 then .error .badSerial
  else if !moduleValsOk (eepromVals (kindCode i) bs) then .error .badValue
  else .ok { vendor := BitVec.ofNat 16 (wordAt bs 2), product := BitVec.ofNat 16 (wordAt bs 4), revision := bs.getD 6 0,
             serial := sliceAt bs 8 (byteAt bs 7), vals := eepromVals (kindCode i) bs }

/-! ### Module bus queue (R36 to R39) -/

/-- When nothing is in flight the oldest waiting item starts (R36). -/
def startBus (u : Units) : Units :=
  match u.busOp, u.busQueue with
  | none, .read b :: rest => { u with busQueue := rest, busOp := some (.read b 1 none false) }
  | none, .poll k :: rest => { u with busQueue := rest, busOp := some (.poll k) }
  | _, _ => u

/-- An item joins the queue unless the same item waits there; the bus starts it if it is idle (R36). -/
def queueBus (item : BusItem) (u : Units) : Units :=
  startBus (if u.busQueue.contains item then u else { u with busQueue := u.busQueue ++ [item] })

/-- The item in flight has ended. -/
def endBus (u : Units) : Units := startBus { u with busOp := none }

/-- A read of the bay waits, or is in flight and not discarded (R39, R40). -/
def readRuns (u : Units) (b : Fin 14) : Bool :=
  u.busQueue.contains (.read b) || (match u.busOp with
    | some (.read b' _ _ discarded) => b' == b && !discarded
    | _ => false)

/-- A loss of the bay marks a read in flight as discarded; no further attempt follows, so a read that waits for its next attempt ends at
once (R39, log 11). -/
def discardRead (b : Fin 14) (u : Units) : Units :=
  match u.busOp with
  | some (.read b' attempt retry discarded) =>
    if b' ≠ b ∨ discarded then u
    else if retry.isSome then endBus u
    else { u with busOp := some (.read b' attempt none true) }
  | _ => u

/-- A module arrival (R35). -/
def moduleArrives (c : Ctx) (b : Fin 14) (u : Units) : Units :=
  let i := bayPos b
  queueBus (.read b) (reportEntry c i (changeEntry c i (unreadEntry (u.inv.get i)) u))

/-- A module loss (R35, R39). -/
def moduleLeaves (c : Ctx) (b : Fin 14) (u : Units) : Units :=
  let i := bayPos b
  let u := { u with busQueue := u.busQueue.filter (· != .read b) }
  reportEntry c i (changeEntry c i (absentEntry (u.inv.get i)) (discardRead b u))

/-- A read has ended with a result: the entry takes it, the change and the completed read are reported, and the re-check follows. Only the
uplink unit uses the completed read (R38); with it the new power of an enabled port stands in the port term before the re-check brings
another port into use (R48, R50, log 48). -/
def readEnds (c : Ctx) (b : Fin 14) (v : Validation) (u : Units) : Units :=
  let i := bayPos b
  let e := validatedEntry u i v
  changeThen c i e
    (fun u' =>
      let u' := reportChange c i (u.inv.get i) e u'
      if h : 10 ≤ b.val then uplinkReadDone c ⟨b.val - 10, by omega⟩ u' else u') u

/-- The reason with which a third failed attempt ends (R37). -/
def lastFailure : AttemptResult → Reason
  | .bytes _ => .badCrc
  | _ => .unreadable

/-- The 32 bytes arrived with the right CRC (R37). -/
def attemptOk : AttemptResult → Option (List Byte)
  | .bytes data => if eepromCrcOk data then some data else none
  | _ => none

/-- An attempt of the identity read in flight ends (R37, R39). -/
def attemptEnds (c : Ctx) (r : AttemptResult) (u : Units) : Units :=
  match u.busOp with
  | some (.read b attempt none discarded) =>
    if discarded then endBus u
    else match attemptOk r with
      | some data => endBus (readEnds c b (validateModule (bayPos b) data) u)
      | none =>
        if attempt < 3 then { u with busOp := some (.read b attempt (startTimer c Config.retryDelay) false) }
        else
          let u := if lastFailure r = .unreadable then setChassisBit .moduleBusFault u else u
          endBus (readEnds c b (.error (lastFailure r)) u)
  | _ => u

/-- The wait between attempts is over: the next attempt starts (R37). -/
def nextAttempt (u : Units) : Units :=
  match u.busOp with
  | some (.read b attempt (some _) discarded) => { u with busOp := some (.read b (attempt + 1) none discarded) }
  | _ => u

/-! ### Start-up build (R42) -/

/-- Cold build of one module position: UNREAD with the insertion counted, and a read, when present (R42). -/
def buildCold (c : Ctx) (b : Fin 14) (u : Units) : Units :=
  if bayLevel c b then
    let i := bayPos b
    queueBus (.read b) (putEntry c i (unreadEntry (u.inv.get i)) u)
  else u

/-- Warm build of one module position from its stored state and identity; `valsOk` says the stored values lie inside the ranges of
R38 (R42). The insertion counts when the stored state was ABSENT. -/
def buildWarm (c : Ctx) (b : Fin 14) (stored : EntryState) (id : Ident) (valsOk : Bool) (u : Units) : Units :=
  if bayLevel c b then
    let i := bayPos b
    let old := u.inv.get i
    let inserts := if stored = .absent then oneMore old.inserts else old.inserts
    let e : Entry :=
      if stored = .valid ∧ valsOk then
        { old with state := if keyTaken u i id then .duplicate else .valid, reason := .none, ident := id, inserts := inserts }
      else { old with state := .unread, reason := .none, ident := .cleared, inserts := inserts }
    queueBus (.read b) (putEntry c i e u)
  else u

end Sys2Proof.Machine
end

