-- ==== Sys2Proof/Machine/Thermal.lean ====
section
/-! DEFINITION. The thermal unit: reports, staleness, warning, trip and cut, chassis sensors, zone temperature and monitors
(R97 to R108). -/

namespace Sys2Proof.Machine

/-! ### Blade temperatures (R98, R99) -/

/-- A temperature the part accepts: -40 to 127 °C. -/
def isTemp (t : Int) : Bool := decide (-40 ≤ t ∧ t ≤ 127)

/-- The largest of the four class offsets (R99). -/
def largestOffset (c : Ctx) : Nat := max (max (classOffset c 0) (classOffset c 1)) (max (classOffset c 2) (classOffset c 3))

/-- The class offset of a slot: of its thermal class, the largest without a VALID identity (R99). -/
def slotOffset (c : Ctx) (u : Units) (n : Fin 12) : Nat := match bladeVals u n with
  | some (_, _, _, cls, _) => classOffset c cls
  | none => largestOffset c

/-- The zone-input temperature: blade temperature plus class offset, at most 127 °C (R99). -/
def zoneInputOf (c : Ctx) (u : Units) (n : Fin 12) : Option Int :=
  (bladeTemp (u.slot n)).map (fun t => min 127 (t + slotOffset c u n))

def refreshZoneInput (c : Ctx) (n : Fin 12) (u : Units) : Units :=
  u.updSlot n (fun x => { x with zoneInput := zoneInputOf c u n })

/-- One reading position after an accepted report: beyond the count or -128 empties it, -127 to -41 keeps it (R98). -/
def newReading (old : Option Int) (t : Int) : Option Int :=
  if isTemp t then some t else if t = -128 then none else old

/-- The reading positions after an accepted report of `count` readings (R98). -/
def newReadings (old : List (Option Int)) (count : Nat) (bs : List Byte) : List (Option Int) :=
  (List.range 4).map (fun i => if i < count then newReading (old.getD i none) (signedAt bs (i + 1)) else none)

/-! ### Warning, trip and cut (R102, R103) -/

/-- The warning state is judged on the blade temperature; a rise to RAISED sets THERMAL_WARNING in both words (R102). -/
def judgeWarning (c : Ctx) (n : Fin 12) (u : Units) : Units :=
  match bladeTemp (u.slot n) with
  | none => u
  | some t =>
    let level := tripTemp u n - warningMargin c
    if (u.slot n).warned then
      (if t ≤ level - 2 then u.updSlot n (fun x => { x with warned := false }) else u)
    else if level ≤ t then
      setChassisBit .thermalWarning (setSlotBit n .thermalWarning (u.updSlot n (fun x => { x with warned := true })))
    else u

/-- Trip at T to T + 4, cut at T + 5 or above (R103). -/
def judgeTrip (c : Ctx) (n : Fin 12) (u : Units) : Units :=
  match bladeTemp (u.slot n) with
  | none => u
  | some t =>
    if tripTemp u n + 5 ≤ t then cutToFault c n .thermalCut u
    else if tripTemp u n ≤ t then thermalTrip c n u
    else u

/-- An accepted report: positions, temperatures, age and stale mark, then warning, trip and cut (R97 to R103). The count of an ON slot
restarts; in CHARGING and QUIESCING it does not run (R100, R101). -/
def acceptReport (c : Ctx) (n : Fin 12) (bs : List Byte) (u : Units) : Units :=
  let u := u.updSlot n (fun x =>
    { x with readings := newReadings x.readings (byteAt bs 0) bs, stale := false,
             ageStart := if x.state = .on then some c.now else x.ageStart })
  judgeTrip c n (judgeWarning c n (refreshZoneInput c n u))

/-! ### Staleness (R100) -/

/-- The slot becomes stale. -/
def goStale (n : Fin 12) (u : Units) : Units :=
  setChassisBit .reportStale (setSlotBit n .reportStale (u.updSlot n (fun x => { x with stale := true })))

/-- The clock value at which the report age of a slot reaches the timeout, while it counts and the slot is not stale (R100). -/
def staleAt (c : Ctx) (x : Slot) : Option Nat :=
  if x.state = .on ∧ !x.stale then x.ageStart.map (· + reportTimeout c) else none

/-- A commit that lowers the timeout makes each slot stale whose age has reached it (R100). -/
def checkAges (c : Ctx) (u : Units) : Units :=
  (indices 12).foldl (fun u n => match staleAt c (u.slot n) with
    | some d => if d ≤ c.now then goStale n u else u
    | none => u) u

/-! ### Chassis sensors (R104) -/

/-- A poll of a sensor has ended. -/
def sensorResult (x : Sensor) (value : Option (BitVec 8)) : Sensor :=
  match value with
  | some b =>
    if isTemp b.toInt then { value := some b.toInt, fails := 0, stale := false }
    else { x with fails := min 3 (x.fails + 1), stale := x.stale || decide (3 ≤ x.fails + 1) }
  | none => { x with fails := min 3 (x.fails + 1), stale := x.stale || decide (3 ≤ x.fails + 1) }

/-- The poll in flight ends: the sensor takes its result, SENSOR_STALE is set when it becomes stale, and the next item starts
(R36, R104). -/
def pollEnds (value : Option (BitVec 8)) (u : Units) : Units :=
  match u.busOp with
  | some (.poll k) =>
    let old := u.sensors.get k
    let new := sensorResult old value
    let u := { u with sensors := updAt u.sensors k (fun _ => new) }
    endBus (if new.stale && !old.stale then setChassisBit .sensorStale u else u)
  | _ => u

/-- The poll timer expires: a poll of each sensor joins the module bus queue, and the timer starts again (R36, R104). -/
def pollSensors (c : Ctx) (u : Units) : Units :=
  (indices 4).foldl (fun u k => queueBus (.poll k) u) { u with pollTimer := startTimer c Config.poll }

/-! ### Zone monitors (R105 to R108) -/

/-- The zone temperature: the largest current temperature of its members (R105). -/
def zoneTemp (c : Ctx) (u : Units) (z : Fin 3) : Option Int :=
  ((indices 12).map (fun n =>
      if slotInZone c n z && powered (u.slot n) && !(u.slot n).stale then (u.slot n).zoneInput else none)
    ++ (indices 4).map (fun k =>
      if sensorInZone c k z && !(u.sensors.get k).stale then (u.sensors.get k).value else none)).foldl maxTemp none

/-- Monitor A (`false`) or B (`true`) of a zone. -/
def getMon (x : Zone) (b : Bool) : Monitor := if b then x.monB else x.monA

def setMon (x : Zone) (b : Bool) (m : Monitor) : Zone := if b then { x with monB := m } else { x with monA := m }

/-- The condition of a monitor (R106). -/
def monCondition (c : Ctx) (z : Fin 3) (b : Bool) (t : Int) : Bool :=
  if monBelow c z b then decide (t < monThreshold c z b) else decide (monThreshold c z b < t)

/-- What a comparison makes of a monitor that is not held (R106). -/
def compareMon (c : Ctx) (z : Fin 3) (b : Bool) : Option Int → Monitor
  | none => { valid := false, result := false, held := false }
  | some t => { valid := true, result := monCondition c z b t, held := monCondition c z b t && monAlert c z b }

/-- One comparison: the zone temperature is formed and shown; a monitor that becomes held sets ZONE_ALARM (R105, R106). -/
def compareZone (c : Ctx) (z : Fin 3) (b : Bool) (u : Units) : Units :=
  let m := compareMon c z b (zoneTemp c u z)
  let u := u.updZone z (fun x => { setMon x b m with temp := zoneTemp c u z })
  if m.held then setChassisBit .zoneAlarm u else u

/-- The sample timer expires: one monitor is compared, the mark moves on, and the timer starts again (R107). -/
def sampleZone (c : Ctx) (z : Fin 3) (u : Units) : Units :=
  let x := u.zones.get z
  let u := u.updZone z (fun x => { x with sampTimer := startTimer c (sampleInterval c z) })
  match x.monA.held, x.monB.held with
  | true, true => u
  | true, false => (compareZone c z true u).updZone z (fun x => { x with markB := false })
  | false, true => (compareZone c z false u).updZone z (fun x => { x with markB := true })
  | false, false => (compareZone c z x.markB u).updZone z (fun y => { y with markB := !x.markB })

/-- A commit of the zone's monitor row (R108). -/
def resetMonitors (c : Ctx) (z : Fin 3) (u : Units) : Units :=
  u.updZone z (fun x =>
    { x with monA := .reset, monB := .reset, markB := false, sampTimer := startTimer c (sampleInterval c z) })

/-- Any monitor of any zone is held, or any blade is in thermal warning (R102, R106, R168). -/
def thermalFlag (u : Units) : Bool :=
  (indices 3).any (fun z => (u.zones.get z).monA.held || (u.zones.get z).monB.held)
    || (indices 12).any (fun n => (u.slot n).warned)

end Sys2Proof.Machine
end

