-- ==== Sys2Proof/Machine/Requests.lean ====
section
/-! DEFINITION. What the slot controller and the uplink unit make of the blades' request records and of the manager's slot commands
(R6, R8 to R11, R19, R20, R26, R133, R134), and of seating, removal and the end of settling (R5, R17, R25). -/

namespace Sys2Proof.Machine

/-- Outcomes of a record take (12.9). -/
inductive TakeOutcome where
  | none
  | accepted
  | clamped
  | refusedFormat
  | refusedState
  | refusedHeld
  | refusedLever
  | refusedIdentity
  | refusedCap
  | refusedDefer
  | stale
  | invalid
  | duplicate
  | reportBad
  deriving DecidableEq, Repr

def outcomeCode : TakeOutcome → Byte
  | .none => 0
  | .accepted => 1
  | .clamped => 2
  | .refusedFormat => 3
  | .refusedState => 4
  | .refusedHeld => 5
  | .refusedLever => 6
  | .refusedIdentity => 7
  | .refusedCap => 8
  | .refusedDefer => 9
  | .stale => 10
  | .invalid => 11
  | .duplicate => 12
  | .reportBad => 13

/-! ### Identity (R6) -/

/-- The outcome and the slot state that a validated entry gives (R6, R17). -/
def identityResult (n : Fin 12) (u : Units) : TakeOutcome × Units :=
  match (bladeEntry u n).state with
  | .valid => (.accepted, u.updSlot n (fun x => { x with state := .identified, unvalidated := false }))
  | .duplicate => (.duplicate, u.updSlot n (fun x => { x with state := .standby }))
  | _ => (.invalid, u.updSlot n (fun x => { x with state := .standby }))

/-- An identity record is handed over (R6): validated in STANDBY and IDENTIFIED, refused otherwise. -/
def takeIdentity (c : Ctx) (n : Fin 12) (bs : List Byte) (u : Units) : TakeOutcome × Units :=
  if (u.slot n).state = .standby ∨ (u.slot n).state = .identified then
    identityResult n (applyValidation c (bladePos n) (validateBlade bs) u)
  else (.refusedState, u)

/-! ### Power requests (R8 to R11) -/

/-- The clamp of R9: to the blade's range, then to the slot cap; none when the cap is below the minimum. -/
def clampWatts (c : Ctx) (n : Fin 12) (u : Units) (w : Nat) : Option Nat :=
  let limited := min (max w (minPower u n)) (maxPower u n)
  if slotCap c n = 0 then some limited
  else if slotCap c n < minPower u n then none
  else some (min limited (slotCap c n))

/-- A slot in IDENTIFIED enters WAIT_POWER for clamped watts (R10, R26). -/
def enterWaitPower (c : Ctx) (n : Fin 12) (w : Nat) (u : Units) : Units :=
  joinWait c n w false (u.updSlot n (fun x => { x with state := .waitPower, lastReq := some w }))

/-- A change below the grant (R11). -/
def lowerGrant (c : Ctx) (n : Fin 12) (w : Nat) (u : Units) : Units :=
  let u := (removeWait n u).updSlot n (fun x => { newAllowance c (min x.allowance w) x with grant := w })
  if cutOf (u.slot n) = 0 then { u with capped := u.capped.filter (· != n) } else u

/-- A taken ON or CHANGE in ON (R11). -/
def changeGrant (c : Ctx) (n : Fin 12) (w : Nat) (u : Units) : Units :=
  let u := u.updSlot n (fun x => { x with lastReq := some w })
  if (u.slot n).grant < w then wantRaise c n (w - (u.slot n).grant) u
  else if w = (u.slot n).grant then removeWait n u
  else lowerGrant c n w u

/-- A taken OFF by the slot's state (R10). -/
def powerDown (c : Ctx) (n : Fin 12) (u : Units) : Units :=
  match (u.slot n).state with
  | .waitPower => leaveWaitPower n u
  | .charging | .on | .quiescing => cutToSettling c n u
  | _ => u

/-- A taken ON or CHANGE with clamped watts (R10). -/
def powerUp (c : Ctx) (n : Fin 12) (w : Nat) (u : Units) : Units :=
  match (u.slot n).state with
  | .identified => enterWaitPower c n w u
  | .waitPower => replaceWatts n w (u.updSlot n (fun x => { x with lastReq := some w }))
  | .on => changeGrant c n w u
  | _ => u

/-- The kind (1 ON, 2 CHANGE, 3 OFF) is allowed in the state (R8 tests 4 and 5, R10). -/
def kindAllowed (kind : Nat) : SlotState → Bool
  | .identified => kind != 2
  | .waitPower | .on => true
  | .charging | .quiescing => kind == 3
  | _ => false

/-- An ON or CHANGE request would add power: any but one in ON whose clamped watts are not above the grant (R8 test 6, R11). A request
that cannot be clamped is left to test 7 (log 12). -/
def addsPower (x : Slot) (w : Option Nat) : Bool := match w with
  | some w => x.state != .on || decide (x.grant < w)
  | none => false

/-- An ON or CHANGE request that passes the tests before the clamp (R8 tests 6 to 8). -/
def powerOnRequest (c : Ctx) (n : Fin 12) (w : Nat) (u : Units) : TakeOutcome × Units :=
  if addsPower (u.slot n) (clampWatts c n u w) && !bladeValid u n then (.refusedIdentity, u)
  else match clampWatts c n u w with
    | none => (.refusedCap, u)
    | some w' => (if w' = w then .accepted else .clamped, powerUp c n w' u)

/-- A power request record is handed over (R8). -/
def takePower (c : Ctx) (n : Fin 12) (bs : List Byte) (u : Units) : TakeOutcome × Units :=
  let kind := byteAt bs 0
  if !inRange 1 3 kind then (.refusedFormat, u)
  else if held c n then (.refusedHeld, u)
  else if presLLevel c n && !leverClosed c n then (.refusedLever, u)
  else if !kindAllowed kind (u.slot n).state then (.refusedState, u)
  else if kind = 3 then (.accepted, powerDown c n u)
  else powerOnRequest c n (wordAt bs 1) u

/-! ### Thermal reports (R97) -/

def takeReport (c : Ctx) (n : Fin 12) (bs : List Byte) (u : Units) : TakeOutcome × Units :=
  if !inRange 1 4 (byteAt bs 0) then (.reportBad, u)
  else if !powered (u.slot n) then (.refusedState, u)
  else (.accepted, acceptReport c n bs u)

/-! ### Uplink claims (R133, R134) -/

def groupOf : Nat → Option Group
  | 0 => some .g0
  | 1 => some .g1
  | 2 => some .any
  | _ => none

/-- A taken claim of `count` channels (R134). -/
def applyClaim (c : Ctx) (n : Fin 12) (count : Nat) (g : Group) (u : Units) : Units :=
  let u := u.updSlot n (fun x => { x with claimed := count, group := g })
  let active := activeOf u n
  let u := ((active.reverse).take (active.length - count)).foldl (fun u ch => releaseChan c ch u) u
  syncWait n (fillSlot c n u)

/-- An uplink claim record is handed over (R133). -/
def takeClaim (c : Ctx) (n : Fin 12) (bs : List Byte) (u : Units) : TakeOutcome × Units :=
  let count := byteAt bs 0
  match groupOf (byteAt bs 1) with
  | none => (.refusedFormat, u)
  | some g =>
    if 4 < count then (.refusedFormat, u)
    else if (u.slot n).state ≠ .on then (.refusedState, u)
    else
      let clamped := min count (laneLimit u n)
      if (u.slot n).unvalidated && decide (activeCount u n < clamped) then (.refusedIdentity, u)
      else (if clamped = count then .accepted else .clamped, applyClaim c n clamped g u)

/-! ### Quiesce answers (R19, R20) -/

/-- A DEFER is accepted for MANAGER_OFF and EJECT below max defers (R20). -/
def deferAllowed (c : Ctx) (n : Fin 12) (x : Slot) : Bool :=
  (x.qReason == some .managerOff || x.qReason == some .eject) && decide (x.defers < maxDefers c n)

/-- An accepted DEFER (R20). -/
def extendQuiesce (c : Ctx) (n : Fin 12) (x : Slot) : Slot :=
  let t := x.qTimer.map (· + quiesceTime c n)
  { x with qTimer := t, qRemaining := unitsLeft c t, defers := x.defers + 1 }

/-- A quiesce answer record is handed over (R19). -/
def takeAnswer (c : Ctx) (n : Fin 12) (bs : List Byte) (u : Units) : TakeOutcome × Units :=
  let kind := byteAt bs 1
  if !inRange 1 2 kind then (.refusedFormat, u)
  else if (u.slot n).state ≠ .quiescing ∨ (u.slot n).qNumber.toNat ≠ byteAt bs 0 then (.stale, u)
  else if kind = 1 then (.accepted, cutToSettling c n u)
  else if deferAllowed c n (u.slot n) then (.accepted, u.updSlot n (extendQuiesce c n))
  else (.refusedDefer, u)

/-! ### Manager slot commands (R26) -/

/-- Results of a manager command (12.9). -/
inductive CmdResult where
  | accepted
  | badCommand
  | badTarget
  | badState
  | busy
  | failsafeHold
  | notServed
  deriving DecidableEq, Repr

def resultCode : CmdResult → Byte
  | .accepted => 1
  | .badCommand => 2
  | .badTarget => 3
  | .badState => 4
  | .busy => 5
  | .failsafeHold => 6
  | .notServed => 7

/-- FAILSAFE with fail-safe power hold set (R26, R62). -/
def holdsPower (c : Ctx) : Bool := c.sup.mode == .failsafe && powerHold c

/-- SLOT_ON (R26). -/
def cmdSlotOn (c : Ctx) (n : Fin 12) (u : Units) : CmdResult × Units :=
  if holdsPower c then (.failsafeHold, u)
  else if (u.slot n).state ≠ .identified ∨ held c n ∨ !leverClosed c n then (.badState, u)
  else match clampWatts c n u ((u.slot n).lastReq.getD (maxPower u n)) with
    | some w => (.accepted, enterWaitPower c n w u)
    | none => (.badState, u)

/-- SLOT_OFF (R26). -/
def cmdSlotOff (c : Ctx) (n : Fin 12) (u : Units) : CmdResult × Units :=
  match (u.slot n).state with
  | .on => (.accepted, enterQuiesce c n .managerOff u)
  | .waitPower => (.accepted, leaveWaitPower n u)
  | .charging => (.accepted, cutToSettling c n u)
  | _ => (.badState, u)

/-- SLOT_CUT (R26). -/
def cmdSlotCut (c : Ctx) (n : Fin 12) (u : Units) : CmdResult × Units :=
  match (u.slot n).state with
  | .waitPower => (.accepted, leaveWaitPower n u)
  | .charging | .on | .quiescing => (.accepted, cutToSettling c n u)
  | _ => (.badState, u)

/-- SLOT_CLEAR (R26). -/
def cmdSlotClear (n : Fin 12) (u : Units) : CmdResult × Units :=
  if (u.slot n).state = .fault then (.accepted, clearLatch n u) else (.badState, u)

/-- MODULE_RESCAN (R40). -/
def cmdRescan (c : Ctx) (target : Nat) (u : Units) : CmdResult × Units :=
  if h : 12 ≤ target ∧ target < 26 then
    let b : Fin 14 := ⟨target - 12, by omega⟩
    if !bayLevel c b then (.badState, u)
    else if readRuns u b then (.busy, u)
    else (.accepted, queueBus (.read b) u)
  else (.badTarget, u)

/-! ### Seating, removal, end of settling -/

/-- Entry to STANDBY from SEATING (R5, R31, R162): standby enable, insertion counted, fresh status record and event word. The last charge
time is none of the fields that R5 names and stays (log 13). -/
def seatSlot (c : Ctx) (n : Fin 12) (u : Units) : Units :=
  let u := u.updSlot n (fun x =>
    { x with state := .standby, stbyEn := true, seatTimer := none, identityTake := .none, powerTake := .none, reportTake := .none,
             claimTake := .none, answerTake := .none, defers := 0, unvalidated := false })
  let u := { u with slotEvents := updAt u.slotEvents n (fun _ => 0), linkErr := updAt u.linkErr (slotLink n) (fun _ => 0) }
  changeEntry c (bladePos n) (unreadEntry (bladeEntry u n)) ((u.touch (.slotStatus n)).touch (.slotEvent n))

/-- A slot is emptied: every operation and field that removal ends (R25, R90). -/
def emptySlot (x : Slot) : Slot :=
  { darkSlot x with state := .empty, stbyEn := false, seatTimer := none, settleTimer := none, faultReason := none, leverMark := false,
                    unvalidated := false, lastReq := none, defers := 0 }

/-- A debounced PRES_L loss by the slot's state (R4, R25). A pending disable becomes effective (R3). -/
def removeSlot (c : Ctx) (n : Fin 12) (u : Units) : Units :=
  match (u.slot n).state with
  | .empty => u
  | .seating => u.updSlot n (fun x => { x with state := .empty, seatTimer := none, enabled := rowEnable c n })
  | _ =>
    let u := (powerOff c n u).updSlot n (fun x => { emptySlot x with enabled := rowEnable c n })
    setChassisBit .slotRemoved (changeEntry c (bladePos n) (absentEntry (bladeEntry u n)) u)

/-- The settling timer expires: the slot comes to rest, and a PGOOD level still asserted is an anomaly (R17, R90). -/
def settlingEnds (c : Ctx) (n : Fin 12) (u : Units) : Units :=
  let u := u.updSlot n (fun x => { x with state := restState u n, settleTimer := none })
  if pgoodLevel c n then setSlotBit n .railAnomaly u else u

/-! ### Rail events (R87 to R89) -/

def pgoodRises (c : Ctx) (n : Fin 12) (u : Units) : Units :=
  match (u.slot n).state with
  | .charging => powerGood c n u
  | .standby | .identified | .waitPower => setSlotBit n .railAnomaly u
  | _ => u

def pgoodFalls (c : Ctx) (n : Fin 12) (u : Units) : Units :=
  match (u.slot n).state with
  | .on | .quiescing => cutToFault c n .railLost u
  | _ => u

def railFaults (c : Ctx) (n : Fin 12) (u : Units) : Units :=
  if (u.slot n).mainEn then cutToFault c n .overcurrent u else u

end Sys2Proof.Machine
end

