-- ==== Sys2Proof/Machine/Layouts.lean ====
section
/-! DEFINITION. The content of every part-owned record, the chassis status byte and the packets the part sends (12_layouts.md, R51, R168,
R179). -/

namespace Sys2Proof.Machine

/-! ### Codes (12.9) -/

def slotStateCode : SlotState → Byte
  | .empty => 0 | .seating => 1 | .standby => 2 | .identified => 3 | .waitPower => 4
  | .charging => 5 | .on => 6 | .quiescing => 7 | .settling => 8 | .fault => 9

def entryStateCode : EntryState → Byte
  | .absent => 0 | .unread => 1 | .valid => 2 | .invalid => 3 | .duplicate => 4

def reasonCode : Reason → Byte
  | .none => 0 | .badFormat => 1 | .badCrc => 2 | .badSerial => 3 | .badMaxPower => 4 | .badMinPower => 5
  | .badTrip => 6 | .badClass => 7 | .badLanes => 8 | .wrongKind => 9 | .badValue => 10 | .unreadable => 11

def qReasonCode : Option QReason → Byte
  | none => 0 | some .managerOff => 1 | some .eject => 2 | some .shed => 3 | some .thermal => 4

def faultCode : Option FaultReason → Byte
  | none => 0 | some .chargeTimeout => 1 | some .overcurrent => 2 | some .railLost => 3 | some .thermalCut => 4
  | some .capViolation => 5

def watchCode : Watch → Byte
  | .clear => 0 | .over => 1 | .exceeded => 2

def supplyCode : SupplyState → Byte
  | .absent => 0 | .unread => 1 | .ok => 2 | .failed => 3

def fanCode : FanState → Byte
  | .absent => 0 | .unread => 1 | .running => 2 | .failed => 3 | .invalid => 4

def chanCode : ChanState → Byte
  | .unavailable => 0 | .free => 1 | .switching => 2 | .assigned => 3 | .stranded => 4 | .draining => 5 | .faulted => 6

def portCode : PortState → Nat
  | .unavailable => 0 | .down => 1 | .up => 2

def modeCode : Mode → Byte
  | .startup => 0 | .normal => 1 | .failsafe => 2

def causeCode : RestartCause → Byte
  | .cold => 0 | .resetLine => 1 | .restartLine => 2 | .restartCommand => 3

def groupCode : Group → Byte
  | .g0 => 0 | .g1 => 1 | .any => 2

def cmdCode : ChanCmd → Byte
  | .none => 0 | .connect => 1 | .disconnect => 2

/-! ### Slot status record (12.3) -/

/-- One lane place: channel place and state; 0xFF and 0 when empty. -/
def laneBytes (u : Units) (n : Fin 12) (k : Fin 4) : List Byte := match lanePlace u n k with
  | some ch => [byteOf ch.val, chanCode (u.chans.get ch).state]
  | none => [0xFF, 0]

/-- The wait queue entry of a slot as its record shows it (R51). -/
def waitBytes (u : Units) (n : Fin 12) : List Byte := match u.waitQ.find? (fun e => e.slot == n) with
  | some e => [flagByte [true, e.isRaise], byteOf e.skips] ++ le2 e.watts
  | none => [0, 0, 0, 0]

def takeBytes (t : TakeResult) : List Byte := [t.seq, t.outcome]

/-- Bytes 0x00 to 0x12. -/
def slotHead (c : Ctx) (u : Units) (n : Fin 12) : List Byte :=
  let x := u.slot n
  [slotStateCode x.state,
   flagByte [held c n, x.unvalidated, x.stbyEn, x.mainEn, pgoodLevel c n, railFltLevel c n, x.stale, x.warned],
   entryStateCode (bladeEntry u n).state, reasonCode (bladeEntry u n).reason]
    ++ le2 x.grant ++ le2 x.allowance ++ le2 (drawAverage x) ++ le2 x.lastCharge
    ++ [watchCode x.watch, x.qNumber, qReasonCode x.qReason, byteOf x.defers] ++ le2 x.qRemaining ++ [faultCode x.faultReason]

/-- Bytes 0x13 to 0x3F. -/
def slotTail (u : Units) (n : Fin 12) : List Byte :=
  let x := u.slot n
  waitBytes u n ++ [tempByte (bladeTemp x), tempByte x.zoneInput] ++ x.readings.map tempByte
    ++ [byteOf x.claimed, groupCode x.group, byteOf (pendingCount u n)]
    ++ laneBytes u n 0 ++ laneBytes u n 1 ++ laneBytes u n 2 ++ laneBytes u n 3
    ++ takeBytes x.identityTake ++ takeBytes x.powerTake ++ takeBytes x.reportTake ++ takeBytes x.claimTake ++ takeBytes x.answerTake
    ++ List.replicate 14 0

/-! ### Manager page and summary area (12.4, 12.5) -/

/-- Manager status record (R153, R175). -/
def managerBytes (c : Ctx) : List Byte :=
  [c.sup.cmdSeq, c.sup.cmdKind, c.sup.cmdTarget, c.sup.cmdResult, modeCode c.sup.mode,
   flagByte [c.sup.served, c.sup.hbTimer.isSome, c.sup.hbValue.isSome], c.sup.hbValue.getD 0] ++ List.replicate 9 0

/-- A port record (R129). -/
def portByte (c : Ctx) (u : Units) (p : Fin 4) : Byte :=
  let x := u.ports.get p
  byteOf (portCode x.state + 4 * (flagByte [x.enable, portGroup c p, linkLevel c p]).toNat)

/-- A sensor's status byte (R104). -/
def sensorByte (x : Sensor) : Byte := byteOf (x.fails + (if x.stale then 128 else 0))

/-- Chassis status record. -/
def chassisBytes (c : Ctx) (u : Units) : List Byte :=
  le2 u.invGen.toNat ++ le2 u.chanGen.toNat ++ [causeCode c.sup.cause] ++ u.linkErr.toList.map byteOf
    ++ u.sensors.toList.map (fun x => tempByte x.value) ++ u.sensors.toList.map sensorByte
    ++ (indices 4).map (portByte c u) ++ [0, 0]

/-- A list of slots in twelve places, unused places 0xFF (R51). -/
def slotList (l : List (Fin 12)) : List Byte := (l.map (fun (n : Fin 12) => byteOf n.val) ++ List.replicate 12 0xFF).take 12

/-- Budget record (R51). While a warm restart's adoption runs it shows the terms of the state as far as it is settled, with the deficit flag
clear (DESIGN CHOICE, log 49). -/
def budgetBytes (c : Ctx) (u : Units) : List Byte :=
  le2 (rawCapacity c u) ++ le2 (usable c u) ++ [byteOf (policy c), byteOf (derate c)] ++ le2 (fixedOverhead c) ++ le2 (portTerm u)
    ++ le2 (fanReservation u) ++ le2 (standbyReservation c u) ++ [byteOf (seatedCount u), flagByte [u.deficit, u.shedTimer.isSome]]
    ++ leInt2 (available c u) ++ le2 (committed u) ++ leInt2 (headroom c u) ++ le2 (releasing u) ++ leInt2 (plannedDeficit c u) ++ [0, 0]
    ++ slotList (u.waitQ.map (·.slot)) ++ slotList u.grantOrder ++ slotList u.capped

/-- Feed of a supply bay: 0 A, 1 B (R43). -/
def feedByte (k : Nat) : Byte := if k < 2 then 0 else 1

/-- Supply record (R43). -/
def supplyBytes (c : Ctx) (u : Units) (k : Fin 4) : List Byte :=
  let x := u.supplies.get k
  [supplyCode x.state, feedByte k.val, flagByte [psuOkLevel c k], 0] ++ le2 x.identCap ++ le2 x.counted ++ List.replicate 8 0

/-- Fan record (R111). -/
def fanBytes (u : Units) (f : Fin 6) : List Byte :=
  let x := u.fans.get f
  [fanCode x.state, flagByte [x.verdictFailed]] ++ le2 x.pulses ++ le2 (fanSpeed x) ++ [byteOf x.lowRun, byteOf x.highRun]
    ++ le2 x.rated ++ le2 x.maxRpm ++ List.replicate 4 0

/-- Zone record (R105 to R107, R110). -/
def zoneBytes (u : Units) (z : Fin 3) : List Byte :=
  let x := u.zones.get z
  le2 x.duty ++ le2 x.raw ++ le2 x.target ++ le2 x.estimate
    ++ [byteOf x.sources, flagByte [x.boost, x.comp], tempByte x.temp,
        flagByte [x.monA.valid, x.monA.result, x.monA.held, false, x.monB.valid, x.monB.result, x.monB.held], flagByte [x.markB]]
    ++ List.replicate 19 0

/-- 25 bits as a little-endian word of four bytes. -/
def rowBits (v : Vector Bool 25) : List Byte := le4 (sumOver 25 (fun r => if v.get r then 2 ^ r.val else 0))

/-- Configuration fault and audit record (R170). -/
def auditBytes (c : Ctx) : List Byte :=
  let g := c.cfg
  rowBits g.fault ++ rowBits g.mismatch ++ [flagByte [g.auditing], byteOf g.nextRow] ++ le2 g.auditCount.toNat
    ++ [g.lastRow.row, g.lastRow.seq, g.lastRow.outcome, g.lastRow.reason]

/-- Kind-specific values of an entry, eight bytes; a supply shows the feed of its bay in every state (R28). -/
def valBytes (i : Fin 26) (v : KindVals) : List Byte :=
  let feed : Byte := feedByte (i.val - 12)
  match v with
  | .blade maxP minP trip cls lanes => le2 maxP ++ le2 minP ++ [BitVec.ofInt 8 trip, byteOf cls, byteOf lanes, 0]
  | .supply capacity => le2 capacity ++ [feed, 0, 0, 0, 0, 0]
  | .fan rated maxRpm => le2 rated ++ le2 maxRpm ++ [0, 0, 0, 0]
  | .uplink channels power => [byteOf channels, byteOf power, 0, 0, 0, 0, 0, 0]
  | .cleared => if kindCode i = 2 then [0, 0, feed, 0, 0, 0, 0, 0] else List.replicate 8 0

/-- Inventory entry (R28). -/
def entryBytes (i : Fin 26) (e : Entry) : List Byte :=
  [byteOf (kindCode i), entryStateCode e.state, reasonCode e.reason, e.ident.revision] ++ le2 e.ident.vendor.toNat
    ++ le2 e.ident.product.toNat ++ le2 e.inserts ++ le2 e.lastGen.toNat ++ [byteOf e.ident.serial.length]
    ++ padTo 24 e.ident.serial ++ valBytes i e.ident.vals ++ [0, 0, 0]

/-- Channel table entry (R130). -/
def chanBytes (x : Chan) : List Byte :=
  [chanCode x.state, flagByte [x.inUse, x.answer]]
    ++ (match x.held with
        | some (n, k) => [byteOf n.val, byteOf k.val]
        | none => [0xFF, 0xFF])
    ++ [cmdCode x.cmd, 0, 0, 0]

/-- The content of a part-owned record or a configuration row (R154, R179). Unassigned bits of an event word are written as 0; the word
that the record unit holds may have ones there after a warm restart (log 51). -/
def recBytes (c : Ctx) (u : Units) : RecId → List Byte
  | .slotStatus n => slotHead c u n ++ slotTail u n
  | .slotEvent n => le4 (assignedBits 11 (u.slotEvents.get n)).toNat
  | .managerStatus => managerBytes c
  | .chassisEvent => le4 (assignedBits 23 u.chassisEvent).toNat
  | .chassisStatus => chassisBytes c u
  | .budget => budgetBytes c u
  | .supply k => supplyBytes c u k
  | .fan f => fanBytes u f
  | .zone z => zoneBytes u z
  | .configAudit => auditBytes c
  | .inventory i => entryBytes i (u.inv.get i)
  | .channel p => chanBytes (u.chans.get p)
  | .row r => rowImage (c.cfg.rows.get r)

/-- The 125 records (R154, R157), in the order in which those that change in one step join the pending write-back set (log 8). -/
def allRecs : List RecId :=
  (indices 12).map RecId.slotStatus ++ (indices 12).map RecId.slotEvent ++ [.managerStatus, .chassisEvent, .chassisStatus, .budget]
    ++ (indices 4).map RecId.supply ++ (indices 6).map RecId.fan ++ (indices 3).map RecId.zone ++ [.configAudit]
    ++ (indices 26).map RecId.inventory ++ (indices 32).map RecId.channel ++ (indices 25).map RecId.row

/-! ### Packets the part sends (12.1, R168) -/

/-- The slot of a link; none for CM. -/
def linkSlot (l : Fin 13) : Option (Fin 12) := if h : 0 < l.val then some ⟨l.val - 1, by omega⟩ else none

/-- The chassis status byte for a link (R168). -/
def statusByte (c : Ctx) (u : Units) (l : Fin 13) : Byte :=
  let common := [c.sup.mode == .failsafe, u.deficit, thermalFlag u, c.cfg.fault.toList.any id]
  match linkSlot l with
  | some n =>
    flagByte (common ++ [u.slotEvents.get n != 0, (u.slot n).state == .quiescing, decide ((u.slot n).allowance < (u.slot n).grant),
      slotFlag u n .linkError])
  | none =>
    flagByte (common ++ [u.chassisEvent != 0, (indices 12).any (fun n => (u.slot n).state == .quiescing), !u.capped.isEmpty,
      chassisFlag u .linkError])

/-- Results of a response (12.1). -/
inductive RespResult where
  | done
  | denied
  | badLen
  | badKind
  | opened
  deriving DecidableEq, Repr

def respCode : RespResult → Nat
  | .done => 0
  | .denied => 1
  | .badLen => 2
  | .badKind => 3
  | .opened => 4

/-- A response or open packet (12.1, R159). -/
def respPacket (tag : Nat) (r : RespResult) (status : Byte) (data : List Byte) : List Byte :=
  let body := [0x5A, byteOf (tag + 4 * respCode r), status] ++ data
  body ++ [packetCrc body]

end Sys2Proof.Machine
end

