-- ==== Sys2Proof/Machine/Operands.lean ====
section
/-! DEFINITION. What comes in as bytes: request packets, views and byte kinds, commits, and the records that start-up reads back
(R147, R148, R159, R160, R163, R27, R30, R42, R145). -/

namespace Sys2Proof.Machine

/-! ### Packets (R159) -/

/-- A packet that passes the three tests, as a request; none for a bad packet (R159). -/
def parsePacket (bs : List Byte) : Option Request :=
  let kind := byteAt bs 1 / 4 % 4
  let len := byteAt bs 5
  let count := if kind = 1 then 7 + len else 7
  if byteAt bs 0 = 0xA5 ∧ bs.length = count ∧ bs.getD (count - 1) 0 = packetCrc (bs.take (count - 1)) then
    some { kind := kind, tag := byteAt bs 1 % 4, addr := ofLe (sliceAt bs 2 3), len := len,
           data := if kind = 1 then sliceAt bs 6 len else [] }
  else none

/-! ### Views (R163) -/

/-- Chassis address of a view address. -/
def viewAddr (l : Fin 13) (a : Nat) : Option Nat := match linkSlot l with
  | none => if a < Config.memoryBytes then some a else none
  | some n => if a < 0x1000 then some (slotPage n + a) else if a < 0x2000 then some a else none

/-- Chassis address of a READ's span, none when it falls outside the view or crosses from the slot page into the summary area. -/
def readTarget (l : Fin 13) (r : Request) : Option Nat :=
  match viewAddr l r.addr, viewAddr l (r.addr + (r.len - 1)) with
  | some a, some b => if b = a + (r.len - 1) then some a else none
  | _, _ => none

/-- Chassis address at which a WRITE starts; its bytes stay within the 64-byte page, which lies wholly inside or outside the view. -/
def writeTarget (l : Fin 13) (r : Request) : Option Nat := viewAddr l r.addr

/-! ### Byte kinds (R147) -/

/-- What a write does to a byte: refused, stored (staged and plain bytes alike), the heartbeat byte, or an event word. -/
inductive ByteKind where
  | denied
  | stored
  | heartbeat
  | eventWord
  deriving DecidableEq, Repr

/-- The kind of a chassis address for the manager link (R147). -/
def managerByte (a : Nat) : ByteKind :=
  if a < 0x1000 then .stored
  else if a < 0x2000 then .denied
  else if a < 0x2008 then .stored
  else if a = 0x2020 then .heartbeat
  else if 0x2030 ≤ a ∧ a ≤ 0x2033 then .eventWord
  else if a < 0x2100 then .denied
  else if a < 0x10000 then .stored
  else if a < 0x1C000 then .denied
  else .stored

/-- The kind of a chassis address for a slot link (R147). -/
def slotByte (n : Fin 12) (a : Nat) : ByteKind :=
  if a < slotPage n then .denied
  else
    let o := a - slotPage n
    if o < 0x58 then .stored
    else if 0x60 ≤ o ∧ o < 0x64 then .eventWord
    else if 0x100 ≤ o ∧ o < 0x1000 then .stored
    else .denied

def byteKind (l : Fin 13) (a : Nat) : ByteKind := match linkSlot l with
  | none => managerByte a
  | some n => slotByte n a

/-- Chassis addresses that a WRITE at `a` covers after the wrap of its data (R160, R165). -/
def writeSpan (a len : Nat) : List Nat := (List.range len).map (wrapAddr a)

/-! ### Commits (R148) -/

/-- The request records of a link, in address order. -/
def linkRecords (l : Fin 13) : List TakeRec := match linkSlot l with
  | none => (indices 25).map TakeRec.row ++ [.command]
  | some n => [.identity n, .power n, .report n, .claim n, .answer n]

/-- The commit byte is the last byte of the record (R148). -/
def commitAddr (t : TakeRec) : Nat := (takeSpan t).1 + ((takeSpan t).2 - 1)

/-- The records that a write over these addresses commits, in address order. -/
def commitsOf (l : Fin 13) (addrs : List Nat) : List TakeRec := (linkRecords l).filter (fun t => addrs.contains (commitAddr t))

/-- The slot whose link commits a record. -/
def takeSlot : TakeRec → Option (Fin 12)
  | .identity n | .power n | .report n | .claim n | .answer n => some n
  | .command | .row _ => none

/-! ### Check bytes (R152) -/

/-- The row whose check byte an address is. -/
def checkRow (a : Nat) : Option (Fin 25) := (indices 25).find? (fun r => a == 16 * r.val + 15)

/-- The data of a manager write with each check byte replaced by that of the shadow (R152). -/
def replaceChecks (c : Ctx) (a : Nat) (data : List Byte) : List Byte :=
  (List.range data.length).map (fun i => match checkRow (wrapAddr a i) with
    | some r => rowCheckByte (c.cfg.rows.get r)
    | none => data.getD i 0)

/-- The mask that a write of event bits holds: byte `a` of memory is byte `a - base` of the word (R155). -/
def clearMask (base a : Nat) (data : List Byte) : BitVec 32 :=
  (List.range data.length).foldl (fun m i =>
    m ||| (BitVec.ofNat 32 ((data.getD i 0).toNat * 256 ^ (wrapAddr a i - base)))) 0

/-! ### Records read back at start-up -/

def entryStateOf : Nat → EntryState
  | 0 => .absent
  | 2 => .valid
  | 3 => .invalid
  | 4 => .duplicate
  | _ => .unread

/-- The stored entry belongs to its position (R30). -/
def storedKindOk (i : Fin 26) (bs : List Byte) : Bool := byteAt bs 0 == kindCode i

/-- Insertion count of a stored entry; 0 when its kind does not match (R30). -/
def storedInserts (i : Fin 26) (bs : List Byte) : Nat := if storedKindOk i bs then wordAt bs 8 else 0

/-- State of a stored entry; an entry of another kind stands for one never written, ABSENT (log 14). -/
def storedState (i : Fin 26) (bs : List Byte) : EntryState := if storedKindOk i bs then entryStateOf (byteAt bs 1) else .absent

def storedVals (i : Fin 26) (bs : List Byte) : KindVals :=
  if kindCode i = 2 then .supply (wordAt bs 0x25)
  else if kindCode i = 3 then .fan (wordAt bs 0x25) (wordAt bs 0x27)
  else .uplink (byteAt bs 0x25) (byteAt bs 0x26)

/-- Identity of a stored module entry (12.5). -/
def storedIdent (i : Fin 26) (bs : List Byte) : Ident :=
  { vendor := BitVec.ofNat 16 (wordAt bs 4), product := BitVec.ofNat 16 (wordAt bs 6), revision := bs.getD 3 0,
    serial := sliceAt bs 0x0D (byteAt bs 0x0C), vals := storedVals i bs }

/-- The stored values lie inside the ranges of R38, the serial included (R42). -/
def storedOk (i : Fin 26) (bs : List Byte) : Bool := serialOk bs 0x0C 0x0D 16 && moduleValsOk (storedVals i bs)

/-- Take results in a slot status record (12.3). -/
def imageTake (bs : List Byte) (k : Nat) : TakeResult := { seq := bs.getD (0x28 + 2 * k) 0, outcome := bs.getD (0x29 + 2 * k) 0 }

/-- What a slot takes from its status record at a warm restart (R1, R82, R96, R132). A last charge time above 2550, in a record that the
part has not written, is limited to 2550, the end of its range (DESIGN CHOICE, log 40). -/
def restoreSlot (bs : List Byte) (x : Slot) : Slot :=
  { x with qNumber := bs.getD 0x0D 0, lastCharge := min 2550 (wordAt bs 0x0A), identityTake := imageTake bs 0, powerTake := imageTake bs 1,
           reportTake := imageTake bs 2, claimTake := imageTake bs 3, answerTake := imageTake bs 4 }

/-- Recorded allowance (R27). -/
def imageAllowance (bs : List Byte) : Nat := wordAt bs 6

/-- The channel and its recorded state in lane place k of a status record; none for an empty place or a channel beyond the table
(R145). -/
def imageLane (bs : List Byte) (k : Fin 4) : Option (Fin 32 × Nat) :=
  if h : byteAt bs (0x20 + 2 * k.val) < 32 then some (⟨_, h⟩, byteAt bs (0x21 + 2 * k.val)) else none

end Sys2Proof.Machine
end

