-- ==== Sys2Proof/Machine/Configuration.lean ====
section
/-! DEFINITION. The configuration unit and the supervision unit: rows and their application, load, audit, heartbeat, mode, manager
commands (R170 to R178, R153). -/

namespace Sys2Proof.Machine

/-! ### Acting on a part of the state -/

/-- The units act on the state as it stands. -/
def State.act (f : Ctx → Units → Units) (s : State) : State := { s with units := f s.ctx s.units }

def State.setCfg (f : Cfg → Cfg) (s : State) : State := { s with ctx := { s.ctx with cfg := f s.ctx.cfg } }

def State.setSup (f : Sup → Sup) (s : State) : State := { s with ctx := { s.ctx with sup := f s.ctx.sup } }

/-- A record joins the pending write-back set at the end of the step, changed or not. -/
def State.touch (r : RecId) (s : State) : State := { s with units := s.units.touch r }

/-- The timer of a period that may be 0, "off". -/
def timerOf (c : Ctx) (period : Nat) : Timer := if period = 0 then none else startTimer c period

/-! ### What each row acts on (R171) -/

/-- A slot row: enable, then override line, then class and the scan (R3, R24, R55). -/
def applySlotRow (c : Ctx) (n : Fin 12) (u : Units) : Units :=
  let u :=
    if (u.slot n).state = .empty then
      let was := (u.slot n).enabled
      let u := u.updSlot n (fun x => { x with enabled := rowEnable c n })
      if rowEnable c n && !was && presLLevel c n then enterSeating c n u else u
    else u
  let u' := if held c n then holdSlot c n u else u
  settleAfter c u (repositionWait c n u')

/-- The second curve row of a zone: floors at once, and a changed update period restarts the timer (R116, R127). -/
def applyLimitRow (c : Ctx) (z : Fin 3) (oldPeriod : Nat) (u : Units) : Units :=
  let u' := enforceFloor c z u
  settleAfter c u
    (if updatePeriod c z = oldPeriod then u' else u'.updZone z (fun x => { x with updTimer := startTimer c (updatePeriod c z) }))

/-- Row 24: class offsets recompute the zone-input temperatures, the report timeout is compared at once (R99, R100, R109). -/
def applyThermalRow (c : Ctx) (u : Units) : Units := checkAges c ((indices 12).foldl (fun u n => refreshZoneInput c n u) u)

/-- Row 1: a changed heartbeat timeout or audit period restarts its timer or stops it; the budget unit takes the rest (R60, R62, R174,
R175). -/
def applyRow1 (old : Ctx) (s : State) : State :=
  let s := if hbTimeout s.ctx = hbTimeout old then s else s.setSup (fun x => { x with hbTimer := timerOf s.ctx (hbTimeout s.ctx) })
  let s := if auditPeriod s.ctx = auditPeriod old then s else s.setCfg (fun x => { x with auditTimer := timerOf s.ctx (auditPeriod s.ctx) })
  s.act settle

/-- The new row is handed to each unit that reads it (R171). Rows 14 + 2z and 23 act at the next update, gate or group start. -/
def applyRow (old : Ctx) (r : Fin 25) (s : State) : State :=
  if r.val = 0 then s.act settle
  else if r.val = 1 then applyRow1 old s
  else if h : r.val < 14 then s.act (fun c u => applySlotRow c ⟨r.val - 2, by omega⟩ u)
  else if h : r.val < 20 then
    if r.val % 2 = 0 then s
    else
      let z : Fin 3 := ⟨(r.val - 14) / 2, by omega⟩
      s.act (fun c u => applyLimitRow c z (updatePeriod old z) u)
  else if h : r.val < 23 then s.act (fun c u => resetMonitors c ⟨r.val - 20, by omega⟩ u)
  else if r.val = 23 then s
  else s.act applyThermalRow

/-! ### Row commit (R171, R172) -/

/-- The take of a row hands over bytes 0 to 14 (R171). The row and the fault and audit record of the outcome join the pending write-back set
whatever they held before (R150, R171). -/
def takeRow (r : Fin 25) (bs : Row) (s : State) : State :=
  let seq := bs.getD 14 0
  let fail := fun (reason : Byte) =>
    let s := s.setCfg (fun g => { g with lastRow := { row := byteOf r.val, seq := seq, outcome := 2, reason := reason } })
    ((s.touch (.row r)).touch .configAudit).act (fun _ u => setChassisBit .configReject u)
  match rowCheck s.ctx.cfg.rows r bs with
  | .range => fail 1
  | .order => fail 2
  | .pass =>
    let new := s.setCfg (fun g =>
      { g with rows := updAt g.rows r (fun _ => bs), fault := updAt g.fault r (fun _ => false),
               lastRow := { row := byteOf r.val, seq := seq, outcome := 1, reason := 0 } })
    applyRow s.ctx r ((new.touch (.row r)).touch .configAudit)

/-! ### Load (R173) -/

/-- One row of the load, judged alone. -/
def loadRow (image : List Byte) (r : Fin 25) (g : Cfg) : Cfg :=
  if rowLoads r image then { g with rows := updAt g.rows r (fun _ => image.take 15), fault := updAt g.fault r (fun _ => false) }
  else { g with rows := updAt g.rows r (fun _ => defaultRow r), fault := updAt g.fault r (fun _ => true) }

/-- The two rows of a curve. -/
def curveRows (z : Fin 3) : Fin 25 × Fin 25 := (⟨14 + 2 * z.val, by omega⟩, ⟨15 + 2 * z.val, by omega⟩)

/-- A curve pair judged together: both rows take their defaults when the demands are out of order. A pair of which one row has taken
its defaults alone is judged too, since every shadow row passes its own check (R170, R173, log 15). -/
def loadPair (g : Cfg) (z : Fin 3) : Cfg :=
  let p := curveRows z
  if demandsOrdered (g.rows.get p.1) (g.rows.get p.2) then g
  else { g with rows := updAt (updAt g.rows p.1 (fun _ => defaultRow p.1)) p.2 (fun _ => defaultRow p.2),
                fault := updAt (updAt g.fault p.1 (fun _ => true)) p.2 (fun _ => true) }

/-- The load of the 25 rows from what memory holds (R173). -/
def loadRows (image : Fin 25 → List Byte) (g : Cfg) : Cfg :=
  (indices 3).foldl loadPair ((indices 25).foldl (fun g r => loadRow (image r) r g) g)

/-- Every row on its defaults with its fault bit set: the memory did not answer (R173). -/
def loadDefaults (g : Cfg) : Cfg := { g with rows := defaultRows, fault := Vector.replicate 25 true }

/-- Each row with its fault bit set joins the pending write-back set (R173). -/
def touchFaults (s : State) : State :=
  (indices 25).foldl (fun s r => if s.ctx.cfg.fault.get r then s.touch (.row r) else s) s

/-! ### Audit (R174) -/

/-- An audit begins: mismatch bits and changed marks are cleared and the read of row 0 is asked for (R174). -/
def startAudit (s : State) : State :=
  { s.setCfg (fun g => { g with mismatch := Vector.replicate 25 false, changed := Vector.replicate 25 false, auditing := true, nextRow := 0 })
    with reads := s.reads ++ [.audit 0] }

/-- A row is judged against the shadow, unless its changed mark is set or its write-back is pending (R174). -/
def judgeRow (r : Fin 25) (bs : List Byte) (s : State) : State :=
  if s.ctx.cfg.changed.get r || s.wb.any (fun e => e.record == .row r) then s
  else if bs = rowImage (s.ctx.cfg.rows.get r) then s
  else (s.setCfg (fun g => { g with mismatch := updAt g.mismatch r (fun _ => true) })).touch (.row r)

/-- The audit asks for the next row, or ends after row 24 (R174). -/
def nextAudit (r : Fin 25) (s : State) : State :=
  if h : r.val + 1 < 25 then
    { s.setCfg (fun g => { g with nextRow := r.val + 1 }) with reads := s.reads ++ [.audit ⟨r.val + 1, h⟩] }
  else
    (s.setCfg (fun g => { g with auditing := false, nextRow := 0, auditCount := g.auditCount + 1 })).act
      (fun _ u => setChassisBit .auditDone u)

/-- An audit read has completed (R174). -/
def auditRead (r : Fin 25) (bs : List Byte) (s : State) : State := nextAudit r (judgeRow r bs s)

/-- The audit period timer expires: it starts again, and an audit begins if none runs (R174). -/
def auditExpires (s : State) : State :=
  let s := s.setCfg (fun g => { g with auditTimer := timerOf s.ctx (auditPeriod s.ctx) })
  if s.ctx.cfg.auditing then s else startAudit s

/-- The rows a write commits while an audit runs get their changed marks (R171, R174). -/
def markChanged (rs : List TakeRec) (s : State) : State :=
  if s.ctx.cfg.auditing then
    s.setCfg (fun g => rs.foldl (fun g t => match t with
      | .row r => { g with changed := updAt g.changed r (fun _ => true) }
      | _ => g) g)
  else s

/-! ### Heartbeat and mode (R175, R176) -/

/-- A commit of the heartbeat byte (R175). -/
def heartbeatTaken (v : Byte) (s : State) : State :=
  if s.ctx.sup.hbValue = some v then s
  else s.setSup (fun x =>
    { x with hbValue := some v, served := true, hbTimer := if hbTimeout s.ctx = 0 then x.hbTimer else startTimer s.ctx (hbTimeout s.ctx) })

/-- FAILSAFE is entered: every zone below its lower limit takes it, and the account is recomputed (R116, R176). -/
def enterFailsafe (s : State) : State :=
  ((s.setSup (fun x => { x with mode := .failsafe })).act (fun _ u => setChassisBit .failsafe u)).act
    (fun c u => settle c ((indices 3).foldl (fun u z => enforceFloor c z u) u))

/-- The heartbeat timer expires (R175). -/
def heartbeatLost (s : State) : State :=
  let s := (s.setSup (fun x => { x with hbTimer := none, served := false })).act (fun _ u => setChassisBit .heartbeatLate u)
  if s.ctx.sup.mode = .normal then enterFailsafe s else s

/-- CLEAR_FAILSAFE (R176). -/
def cmdClearFailsafe (s : State) : CmdResult × State :=
  if s.ctx.sup.mode ≠ .failsafe then (.badState, s)
  else if !s.ctx.sup.served then (.notServed, s)
  else (.accepted, (s.setSup (fun x => { x with mode := .normal })).act settle)

/-! ### Manager commands (R153) -/

/-- A command of the slot controller or the inventory unit, with the settling of the account it leads to. -/
def unitsCmd (f : Ctx → Units → CmdResult × Units) (s : State) : CmdResult × State :=
  let r := f s.ctx s.units
  (r.1, { s with units := settleAfter s.ctx s.units r.2 })

/-- The four slot commands by kind, for a target that names a slot (R26). -/
def slotCmd (kind : Nat) (n : Fin 12) (s : State) : CmdResult × State :=
  if kind = 1 then unitsCmd (fun c u => cmdSlotOn c n u) s
  else if kind = 2 then unitsCmd (fun c u => cmdSlotOff c n u) s
  else if kind = 3 then unitsCmd (fun c u => cmdSlotCut c n u) s
  else unitsCmd (fun _ u => cmdSlotClear n u) s

/-- A command by kind and target (12.9): 1 to 4 slot commands, 5 MODULE_RESCAN, 6 AUDIT_CONFIG, 7 CLEAR_FAILSAFE, 8 RESTART. -/
def runCommand (kind target : Nat) (s : State) : CmdResult × State :=
  if 1 ≤ kind ∧ kind ≤ 4 then
    if h : target < 12 then slotCmd kind ⟨target, h⟩ s else (.badTarget, s)
  else if kind = 5 then unitsCmd (fun c u => cmdRescan c target u) s
  else if kind = 6 then (if s.ctx.cfg.auditing then (.busy, s) else (.accepted, startAudit s))
  else if kind = 7 then cmdClearFailsafe s
  else if kind = 8 then (.accepted, s.setSup (fun x => { x with restartArmed := true }))
  else (.badCommand, s)

/-- The manager command record is handed over and its result stands in the manager status record (R153). -/
def takeCommand (bs : List Byte) (s : State) : State :=
  let r := runCommand (byteAt bs 0) (byteAt bs 1) s
  (r.2.setSup (fun x =>
    { x with cmdSeq := bs.getD 7 0, cmdKind := bs.getD 0 0, cmdTarget := bs.getD 1 0, cmdResult := resultCode r.1 })).touch .managerStatus

end Sys2Proof.Machine
end

