-- ==== Sys2Proof/Machine/Records.lean ====
section
/-! DEFINITION. The record unit: record takes, the pending write-back set and ALERT (R148 to R151, R154 to R157). -/

namespace Sys2Proof.Machine

/-! ### Takes (R149 to R151) -/

/-- The copy of a record at its commit: each byte that a queue entry covers, the newest first (R149). -/
def copyOf (wq : List QEntry) (t : TakeRec) : List (Option Byte) := (span (takeSpan t).1 (takeSpan t).2).map (queueByte wq)

/-- The record when the copy covers it whole. -/
def wholeCopy (copy : List (Option Byte)) : Option (List Byte) := if copy.all Option.isSome then some (copy.map (·.getD 0)) else none

/-- The copy laid over a completed read (R149). -/
def overCopy (copy : List (Option Byte)) (read : List Byte) : List Byte := List.zipWith (fun c b => c.getD b) copy read

/-- The take results that a slot record has (R150). -/
def setTake (t : TakeRec) (r : TakeResult) (x : Slot) : Slot := match t with
  | .identity _ => { x with identityTake := r }
  | .power _ => { x with powerTake := r }
  | .report _ => { x with reportTake := r }
  | .claim _ => { x with claimTake := r }
  | .answer _ => { x with answerTake := r }
  | .command | .row _ => x

/-- The owner of a slot's request record acts on it (R6, R8, R19, R97, R133). -/
def ownerActs (t : TakeRec) (bs : List Byte) (c : Ctx) (u : Units) : TakeOutcome × Units := match t with
  | .identity n => takeIdentity c n bs u
  | .power n => takePower c n bs u
  | .report n => takeReport c n bs u
  | .claim n => takeClaim c n bs u
  | .answer n => takeAnswer c n bs u
  | .command | .row _ => (.none, u)

/-- A slot's record is handed over: the owner acts, the account is settled, and outcome and commit byte stand in the slot status record
(R150). -/
def takeForSlot (n : Fin 12) (t : TakeRec) (bs : List Byte) (s : State) : State :=
  let r := ownerActs t bs s.ctx s.units
  let u := settleAfter s.ctx s.units r.2
  let result : TakeResult := { seq := bs.getD (bs.length - 1) 0, outcome := outcomeCode r.1 }
  { s with units := (u.updSlot n (setTake t result)).touch (.slotStatus n) }

/-- An assembled record is handed to its owner (R150). -/
def handOver (t : TakeRec) (bs : List Byte) (s : State) : State := match t with
  | .command => takeCommand bs s
  | .row r => takeRow r bs s
  | .identity n | .power n | .report n | .claim n | .answer n => takeForSlot n t bs s

def State.updLink (l : Fin 13) (f : Link → Link) (s : State) : State := { s with links := updAt s.links l f }

/-- The take at the head of a link has its record: it completes, a discarded one without effect (R25, R150, R151). -/
def completeTake (l : Fin 13) (bs : List Byte) (s : State) : State :=
  match (s.links.get l).takes with
  | [] => s
  | t :: rest =>
    let s := s.updLink l (fun x => { x with takes := rest })
    if t.discarded then s else handOver t.record bs s

/-- The takes of a link run one after another; one whose copy is incomplete asks for an internal read (R148, R149). `fuel` is their
number. -/
def runTakes (l : Fin 13) : Nat → State → State
  | 0, s => s
  | fuel + 1, s =>
    match (s.links.get l).takes with
    | [] => s
    | t :: _ => match wholeCopy t.copy with
      | some bs => runTakes l fuel (completeTake l bs s)
      | none => { s with reads := s.reads ++ [.take l] }

/-- The records that an admitted write commits are copied and taken (R148, R149, R171). -/
def commitRecords (l : Fin 13) (rs : List TakeRec) (s : State) : State :=
  let takes := rs.map (fun t => ({ record := t, copy := copyOf s.wq t, discarded := false } : Take))
  runTakes l takes.length ((markChanged rs s).updLink l (fun x => { x with takes := takes }))

/-- An internal read for the take at the head of a link has completed (R149). -/
def takeRead (l : Fin 13) (s : State) : State :=
  match (s.links.get l).takes with
  | [] => s
  | t :: rest =>
    let read := readSpan s.wq s.mem (takeSpan t.record).1 (takeSpan t.record).2
    runTakes l rest.length (completeTake l (overCopy t.copy read) s)

/-- The take that runs, the first of a link's takes, is discarded; those behind it have not begun (R148). -/
def discardFirst : List Take → List Take
  | [] => []
  | t :: rest => { t with discarded := true } :: rest

/-- A slot has been emptied: the outcome of its running take is discarded; a record whose take begins later is judged in EMPTY
(R25, R151). -/
def discardTakes (n : Fin 12) (s : State) : State := s.updLink (slotLink n) (fun x => { x with takes := discardFirst x.takes })

/-! ### Pending write-back set (R157) -/

def pendingRec (wb : List WbEntry) (r : RecId) : Bool := wb.any (fun e => e.record == r)

/-- One record at the end of a step: an entry takes the latest content; a changed or touched record without one joins (R157). A
configuration row that passes the load with other content than the defaults is such a changed record and joins, although R173 names only
the rows that fail (DEDUCED, log 46). Contents are compared before and after the whole command: a record that changes and changes back within
it does not join (DESIGN CHOICE, log 50). -/
def syncRec (pre post : State) (wb : List WbEntry) (r : RecId) : List WbEntry :=
  let new := recBytes post.ctx post.units r
  if pendingRec wb r then wb.map (fun e => if e.record = r then { e with content := new } else e)
  else if post.units.touched.contains r || recBytes pre.ctx pre.units r != new then wb ++ [{ record := r, content := new }]
  else wb

/-- The pending write-back set after a step. -/
def syncWb (pre post : State) : List WbEntry := allRecs.foldl (syncRec pre post) post.wb

/-- A write-back of row `r` is pending and a manager write over these addresses overlaps it (R152). -/
def rowPending (wb : List WbEntry) (addrs : List Nat) : Bool :=
  wb.any (fun e => match e.record with
    | .row r => addrs.any (fun a => a / 16 == r.val)
    | _ => false)

/-! ### ALERT (R156) -/

/-- ALERT follows the event word and the mask: after a cold start from the configuration load on, after a warm restart from step 3 on. -/
def alertLive (c : Ctx) : Bool :=
  if c.sup.cold then configLoaded c
  else match c.sup.phase with
    | .adopt _ | .done => true
    | _ => false

def alertLevel (c : Ctx) (u : Units) : Bool := u.chassisEvent &&& alertMask c != 0

/-- The end of a step: changed records join the pending write-back set, and ALERT is judged again (R154, R156, R157). -/
def finish (pre post : State) : State :=
  { post with units := { post.units with touched := [] }, wb := syncWb pre post,
              alert := if alertLive post.ctx then alertLevel post.ctx post.units else post.alert }

end Sys2Proof.Machine
end

