-- ==== Sys2Proof/Machine/Startup.lean ====
section
/-! DEFINITION. Cold start, warm restart and start-up (R177, with R2, R27, R30, R42, R63, R64, R91, R137, R145, R161, R169, R173). -/

namespace Sys2Proof.Machine

/-! ### The beginning of a restart (R177) -/

/-- The link's latest packet may still be on its way to the sender (R161, log 39). -/
def sending (s : State) (l : Fin 13) : Bool := match s.sentAt.get l with
  | some t => decide (s.ctx.now < t + Config.packetTime)
  | none => false

/-- A restart cuts off a packet being sent: some of its bytes have gone out, and how many is free (R161, log 39). -/
def cutPackets (s : State) : Vector (List Byte) 13 :=
  Vector.ofFn (fun l => if sending s l then (s.tx.get l).take (Config.bytesSent s.cuts l) else s.tx.get l)

/-- The commands that the crossbar may yet carry out after a restart, at which nothing is in flight any longer (R137, log 33). -/
def lateCmds (u : Units) : List XCmd := u.xLate ++ (u.xFlight.map (·.cmd)).toList

/-- A cold start begins: every unit takes its cold-start values; what lies outside the part stays: memory, the crossbar with the commands
it has been sent, the raw levels of the inputs, the packets as far as they were sent, and the clock (R177, logs 16, 33, 39 and 52). -/
def beginCold (cause : RestartCause) (s : State) : State :=
  { State.reset with
      pending := s.pending, tx := cutPackets s, cuts := s.cuts + 1, mem := s.mem,
      ctx := { Ctx.reset with now := s.ctx.now, sup := { Sup.reset with cause := cause }, pins := clearPins s.ctx.pins },
      units := { Units.reset with xbar := s.units.xbar, xLate := lateCmds s.units, xChances := s.units.xChances } }

/-- A slot at the beginning of a warm restart: the latches stay, and the slot waits for adoption (R1, R83, R91). -/
def restartSlot (x : Slot) : Slot := { Slot.reset with stbyEn := x.stbyEn, mainEn := x.mainEn, settled := false }

/-- A port at the beginning of a warm restart: the UPL_EN latch stays (R145). -/
def restartPort (x : Port) : Port := { Port.reset with enable := x.enable }

/-- A warm restart begins: latches, crossbar, PWM, ALERT and the write queue stay (R83, R121, R137, R156, R164, R177). A command in flight
is in flight no longer and may yet be carried out (log 33); a transaction at the memory port ends without effect, and an entry that was
being drained is drained again (R167, R177 and R164 do not name it: DESIGN CHOICE, log 44). Records that wait behind a running take are
abandoned with it (log 52). -/
def beginWarm (cause : RestartCause) (s : State) : State :=
  { State.reset with
      pending := s.pending, tx := cutPackets s, cuts := s.cuts + 1, mem := s.mem, wq := s.wq, pwm := s.pwm, alert := s.alert,
      ctx := { Ctx.reset with now := s.ctx.now, sup := { Sup.reset with cause := cause, cold := false }, pins := haltPins s.ctx.pins },
      units := { Units.reset with
        xbar := s.units.xbar, xLate := lateCmds s.units, xChances := s.units.xChances,
        slots := updAll s.units.slots restartSlot, ports := updAll s.units.ports restartPort } }

/-! ### Leaving STARTUP (R177, steps 6 and 7) -/

/-- Report ages of ON slots start from zero and cap watches are CLEAR (R78, R100). -/
def startSlotTimers (c : Ctx) (x : Slot) : Slot :=
  { x with ageStart := if x.state = .on then some c.now else x.ageStart, watch := .clear, watchTimer := none }

/-- The timers of the units that start at the end of start-up (R104, R107, R112, R122). -/
def startUnitTimers (c : Ctx) (u : Units) : Units :=
  openGates c
    { u with slots := updAll u.slots (startSlotTimers c), pollTimer := startTimer c Config.poll,
             zones := Vector.ofFn (fun z =>
               { u.zones.get z with updTimer := startTimer c (updatePeriod c z), sampTimer := startTimer c (sampleInterval c z), markB := false }) }

/-- The open packet of a link (R161, R168). -/
def openPacket (c : Ctx) (u : Units) (l : Fin 13) : List Byte := respPacket 0 .opened (statusByte c u l) []

/-- Every port sends an open packet and becomes OPEN (R161). -/
def openPorts (s : State) : State :=
  { s with
      links := updAll s.links (fun x => { x with isOpen := true }), tx := Vector.ofFn (openPacket s.ctx s.units),
      sentAt := Vector.replicate 13 (some s.ctx.now) }

/-- The mode leaves STARTUP: NORMAL, or FAILSAFE with its bit without memory; timers start, the account is settled, the ports open
(R161, R177). -/
def leaveStartup (s : State) : State :=
  let s := s.setSup (fun x =>
    { x with phase := .done, images := [], mode := if x.memOk then .normal else .failsafe, hbTimer := timerOf s.ctx (hbTimeout s.ctx) })
  let s := s.setCfg (fun g => { g with auditTimer := if s.ctx.sup.memOk then timerOf s.ctx (auditPeriod s.ctx) else none })
  let s := s.act startUnitTimers
  openPorts (if s.ctx.sup.memOk then s.act settle else enterFailsafe s)

/-! ### Building (R42 to R44, R63, R111, R126, R129) -/

/-- What memory holds of a record (R166); nothing is written between the reads of step 3 and their end (log 17). -/
def stored (s : State) (r : RecId) : List Byte := readSpan s.wq s.mem (recSpan r).1 (recSpan r).2

/-- The module entries are built in position order (R42). -/
def buildInventory (image : Fin 26 → List Byte) (warm : Bool) (c : Ctx) (u : Units) : Units :=
  (indices 14).foldl (fun u b =>
    let i := bayPos b
    if warm then buildWarm c b (storedState i (image i)) (storedIdent i (image i)) (storedOk i (image i)) u else buildCold c b u) u

/-- Supply, fan and port records are derived from the sampled lines and the built entries (R43, R111, R129). -/
def deriveAll (c : Ctx) (u : Units) : Units :=
  let u := (indices 4).foldl (fun u k => deriveSupply c k u) u
  let u := (indices 6).foldl (fun u f => deriveFan c f u) u
  (indices 4).foldl (fun u p => derivePort c p u) u

/-- What the units take from the records that step 3 reads (R1, R29, R30, R82, R96, R130, R132, R155). Event words are taken as read, ones
at unassigned bit positions too, which the word holds and its record does not show (R177, R179; DEDUCED, logs 32 and 51). -/
def takeStored (s : State) (c : Ctx) (u : Units) : Units :=
  let warm := !c.sup.cold
  { u with
    invGen := BitVec.ofNat 16 (wordAt (stored s .chassisStatus) 0),
    chanGen := if warm then BitVec.ofNat 16 (wordAt (stored s .chassisStatus) 2) else u.chanGen,
    inv := Vector.ofFn (fun i => { u.inv.get i with inserts := storedInserts i (stored s (.inventory i)) }),
    slots := if warm then Vector.ofFn (fun n => restoreSlot (stored s (.slotStatus n)) (u.slots.get n)) else u.slots,
    slotEvents := if warm then Vector.ofFn (fun n => u.slotEvents.get n ||| BitVec.ofNat 32 (ofLe (stored s (.slotEvent n)))) else u.slotEvents,
    chassisEvent := if warm then u.chassisEvent ||| BitVec.ofNat 32 (ofLe (stored s .chassisEvent)) else u.chassisEvent }

/-- What supervision and configuration take from memory (R170, R178). -/
def takeStoredCtx (s : State) (c : Ctx) : Ctx :=
  let m := stored s .managerStatus
  let a := stored s .configAudit
  { c with
    sup := { c.sup with cmdSeq := m.getD 0 0, cmdKind := m.getD 1 0, cmdTarget := m.getD 2 0, cmdResult := m.getD 3 0,
                        images := if c.sup.cold then [] else (indices 12).map (fun n => stored s (.slotStatus n)) },
    cfg := if c.sup.cold then c.cfg
      else { c.cfg with auditCount := BitVec.ofNat 16 (wordAt a 10),
                        lastRow := { row := a.getD 12 0, seq := a.getD 13 0, outcome := a.getD 14 0, reason := a.getD 15 0 } } }

/-- Every restart sets RESTART in all thirteen event words (R177). -/
def setRestart (u : Units) : Units := (indices 12).foldl (fun u n => setSlotBit n .restart u) (setChassisBit .restart u)

/-- Every part-owned record joins the pending write-back set when write-backs may begin, so that memory shows the state the part works
from (R28, R157, log 18). -/
def touchOwned (u : Units) : Units :=
  { u with touched := u.touched ++ allRecs.filter (fun r => match r with
      | .row _ => false
      | _ => true) }

/-! ### Cold start, step 6 -/

/-- The CLEAR is sent to the crossbar (R137). -/
def sendClear (c : Ctx) (u : Units) : Units :=
  { u with xFlight := some { cmd := .clear, deadline := c.now + Config.crossbarTimeout, ignored := false } }

/-- Each slot's enable takes effect, and a present enabled slot enters SEATING (R2, R3). -/
def placeSlots (c : Ctx) (u : Units) : Units :=
  (indices 12).foldl (fun u n =>
    let u := u.updSlot n (fun x => { x with enabled := rowEnable c n })
    if rowEnable c n && presLLevel c n then enterSeating c n u else u) u

def finishCold (s : State) : State :=
  leaveStartup ((s.setSup (fun x => { x with built := true })).act (fun c u => settle c (placeSlots c (sendClear c u))))

/-! ### Adoption (R27, R91) -/

/-- The slot is adopted ON with the recorded allowance, clamped (R27). -/
def adoptOn (c : Ctx) (n : Fin 12) (image identity : List Byte) (u : Units) : Units :=
  let u := applyValidation c (bladePos n) (validateBlade identity) u
  let w := min (max (imageAllowance image) (minPower u n)) (maxPower u n)
  let u := u.updSlot n (fun x =>
    { enterOn c x with grant := w, allowance := w, unvalidated := !bladeValid u n, stbyEn := true, mainEn := true })
  toGrantEnd n u

/-- The slot enters STANDBY, and its identity take runs when an identity record was read (R27). Without memory its entry is UNREAD, as
after a seating, with no insertion counted (log 19). -/
def adoptStandby (c : Ctx) (n : Fin 12) (identity : Option (List Byte)) (u : Units) : Units :=
  let u := u.updSlot n (fun x => { darkSlot x with state := .standby, stbyEn := true })
  match identity with
  | some bs =>
    let r := takeIdentity c n bs u
    r.2.updSlot n (fun x => { x with identityTake := { seq := bs.getD 63 0, outcome := outcomeCode r.1 } })
  | none => changeEntry c (bladePos n) { bladeEntry u n with state := .unread, reason := .none, ident := .cleared } u

/-- A present slot that is disabled: its identity is re-validated like that of any present slot, and it enters EMPTY (R27, log 47). -/
def settleDisabled (c : Ctx) (n : Fin 12) (identity : Option (List Byte)) (u : Units) : Units :=
  let u := match identity with
    | some bs => applyValidation c (bladePos n) (validateBlade bs) u
    | none => u
  u.updSlot n emptySlot

/-- A slot is settled (R27, R91): adopted ON, STANDBY or EMPTY, by the levels at this moment. -/
def settleSlot (n : Fin 12) (identity : Option (List Byte)) (c : Ctx) (u : Units) : Units :=
  let image := c.sup.images.getD n.val []
  let u := (u.updSlot n (fun x => { x with enabled := rowEnable c n, settled := true })).touch (.slotStatus n)
  if !presLLevel c n then u.updSlot n emptySlot
  else if !rowEnable c n then settleDisabled c n identity u
  else match identity with
    | some bs => if pgoodLevel c n then adoptOn c n image bs u else adoptStandby c n (some bs) u
    | none => adoptStandby c n none u

/-- The slot has to be settled with an adoption read of its identity record: each present slot, when memory answers (R2, R27). -/
def wantsAdoption (c : Ctx) (n : Fin 12) : Bool := c.sup.memOk && presLLevel c n

/-! ### Channel table rebuild (R145) -/

/-- A channel that a status record names is kept for the slot (R145). -/
def keepChan (c : Ctx) (n : Fin 12) (k : Fin 4) (ch : Fin 32) (recorded : Nat) (u : Units) : Units :=
  let up := (u.ports.get (portOf ch)).state == .up
  if powered (u.slot n) && decide (k.val < laneLimit u n) && (recorded == 2 || recorded == 3 || recorded == 4) then
    if recorded = 2 then
      queueCmd c (.connect ch n k) (updChan ch (fun x => { x with state := .switching, held := some (n, k), cmd := .connect }) u)
    else updChan ch (fun x => { x with state := if up then .assigned else .stranded, held := some (n, k) }) u
  else updChan ch (fun x => { x with state := .draining, held := some (n, k), answer := false, drain := startTimer c (drainTime c) }) u

/-- A later record names a channel already kept: a channel kept active is connected again to its holder's lane (R145). -/
def reconnect (c : Ctx) (ch : Fin 32) (u : Units) : Units :=
  match (u.chans.get ch).state, (u.chans.get ch).held with
  | .assigned, some (m, k) | .stranded, some (m, k) =>
    queueCmd c (.connect ch m k) (updChan ch (fun x => { x with state := .switching, cmd := .connect }) u)
  | _, _ => u

/-- One recorded lane place (R145). -/
def rebuildLane (c : Ctx) (u : Units) (n : Fin 12) (k : Fin 4) : Units :=
  match imageLane (c.sup.images.getD n.val (List.replicate 64 0xFF)) k with
  | none => u
  | some (ch, recorded) =>
    if !(u.chans.get ch).inUse then u
    else if (u.chans.get ch).held.isSome then (if heldBy n (u.chans.get ch) then u else reconnect c ch u)
    else keepChan c n k ch recorded u

/-- The enable of a port is loaded: asserted while it has a held channel, with its power in the port term (R145). -/
def loadEnable (u : Units) (p : Fin 4) : Units :=
  u.updPort p (fun x => { x with enable := portHasHeld u p, power := if portHasHeld u p then ((portVals u p).map (·.2)).getD 0 else 0 })

def rebuildChannels (c : Ctx) (u : Units) : Units :=
  let u := (indices 4).foldl (fun u p => portComesIntoUse p u) u
  let u := (indices 12).foldl (fun u n => (indices 4).foldl (fun u k => rebuildLane c u n k) u) u
  let u := (indices 12).foldl (fun u n =>
    if powered (u.slot n) then u.updSlot n (fun x => { x with claimed := activeCount u n, group := .any }) else u) u
  (indices 4).foldl loadEnable u

/-! ### Warm restart, the end of step 6 -/

/-- The conditions of one slot act as events, in the order of R27; each is settled as an event is. -/
def slotConditions (c : Ctx) (u : Units) (n : Fin 12) : Units :=
  let u := if railFltLevel c n then settleAfter c u (railFaults c n u) else u
  let u := if !pgoodLevel c n then settleAfter c u (pgoodFalls c n u) else u
  let u := if pgoodLevel c n && !(u.slot n).mainEn then pgoodRises c n u else u
  let u := if held c n then settleAfter c u (holdSlot c n u) else u
  if !leverClosed c n && (u.slot n).state == .on then settleAfter c u (leverOpened c n u) else u

def finishWarm (s : State) : State :=
  let s := (s.act rebuildChannels).setSup (fun x => { x with built := true })
  leaveStartup ((s.act settle).act (fun c u => (indices 12).foldl (slotConditions c) u))

/-- Slots are settled in slot number order; one that is present waits for the adoption read of its identity record (R27). `fuel` is the number of
slots left. -/
def adoptFrom : Nat → Nat → State → State
  | 0, _, s => finishWarm s
  | fuel + 1, n, s =>
    if h : n < 12 then
      if wantsAdoption s.ctx ⟨n, h⟩ then
        { s.setSup (fun x => { x with phase := .adopt ⟨n, h⟩ }) with reads := s.reads ++ [.adopt ⟨n, h⟩] }
      else adoptFrom fuel (n + 1) (s.act (settleSlot ⟨n, h⟩ none))
    else finishWarm s

/-- The adoption read of a slot has completed (R27). -/
def adoptRead (n : Fin 12) (s : State) : State :=
  let bs := readSpan s.wq s.mem (takeSpan (.identity n)).1 (takeSpan (.identity n)).2
  adoptFrom (11 - n.val) (n.val + 1) (s.act (settleSlot n (some bs)))

/-! ### The sequence of start-up (R177) -/

/-- Steps 4 to 6, after the records have been taken: inputs are sampled, the inventory is built, the generators of absent fans rest (R120),
and the slots are placed or settled. -/
def buildAll (image : Fin 26 → List Byte) (s : State) : State :=
  let s := { s with ctx := { s.ctx with pins := samplePins s.ctx.pins } }
  let warm := !s.ctx.sup.cold
  let s := (s.act (buildInventory image (warm && s.ctx.sup.memOk))).act deriveAll
  let s := { s with pwm := restGens s.units s.pwm }
  if warm then adoptFrom 12 0 (s.setSup (fun x => { x with phase := .adopt 0 })) else finishCold s

/-- Step 3 is complete: the units take what they read, and RESTART is set in the thirteen event words (R177). -/
def recordsRead (s : State) : State :=
  let image := fun i => stored s (.inventory i)
  let s' := { s with ctx := takeStoredCtx s s.ctx, units := touchOwned (setRestart (takeStored s s.ctx s.units)) }
  buildAll image s'

/-- The configuration load has ended (R121). -/
def generatorsStart (s : State) : State := { s with pwm := startGens s.ctx s.units s.pwm }

/-- Step 2 is complete: the rows are loaded, and the reads of step 3 are asked for (R173, R177). -/
def rowsRead (s : State) : State :=
  let image := fun (r : Fin 25) => stored s (.row r)
  let s := generatorsStart (touchFaults (s.setCfg (loadRows image)))
  { s.setSup (fun x => { x with phase := .records }) with reads := s.reads ++ markLast .records (recordReads s.ctx.sup.cold) }

/-- The device ID read has ended (R169): with an answer the rows are read; without one, every row runs on its defaults, the write queue is
emptied, and start-up goes on with nothing read. -/
def deviceIdEnds (answered : Bool) (s : State) : State :=
  if answered then
    { s.setSup (fun x => { x with memOk := true, phase := .rows }) with reads := markLast .rows rowReads }
  else
    let s := generatorsStart { s.setCfg loadDefaults with wq := [] }
    buildAll (fun _ => []) ((s.setSup (fun x => { x with memOk := false, phase := .records })).act (fun _ u => touchOwned (setRestart u)))

end Sys2Proof.Machine
end

