-- ==== Sys2Proof/Machine/Links.lean ====
section
/-! DEFINITION. Link ports, write queue, memory arbiter and memory port (R152, R155, R158 to R168). -/

namespace Sys2Proof.Machine

/-! ### Link errors and packets (R159, R161, R162) -/

/-- A link error: the counter rises, at most 255, and the LINK_ERROR bit of the link's event word is set (R162). -/
def linkError (l : Fin 13) (u : Units) : Units :=
  let u := { u with linkErr := updAt u.linkErr l (fun k => min 255 (k + 1)) }
  match linkSlot l with
  | some n => setSlotBit n .linkError u
  | none => setChassisBit .linkError u

/-- Bytes received between two idle conditions (R159, R161). -/
def receive (l : Fin 13) (bs : List Byte) (s : State) : State :=
  let x := s.links.get l
  match parsePacket bs with
  | some r =>
    if x.isOpen && decide (x.fifo.length < 4) then s.updLink l (fun x => { x with fifo := x.fifo ++ [r] })
    else s.act (fun _ u => linkError l u)
  | none => s.act (fun _ u => linkError l u)

/-! ### Heads (R160) -/

/-- The request at the head of a link's FIFO. -/
def headOf (s : State) (l : Fin 13) : Option Request := (s.links.get l).fifo.head?

/-- The head leaves with a response, composed from the state at this moment (R161, R168). -/
def respond (l : Fin 13) (tag : Nat) (r : RespResult) (data : List Byte) (s : State) : State :=
  { s.updLink l (fun x => { x with fifo := x.fifo.tail, judged := false }) with
    tx := updAt s.tx l (fun _ => respPacket tag r (statusByte s.ctx s.units l) data),
    sentAt := updAt s.sentAt l (fun _ => some s.ctx.now) }

/-- A WRITE covers a byte that is not writable for the link (R147). -/
def coversDenied (l : Fin 13) (a len : Nat) : Bool := (writeSpan a len).any (fun x => byteKind l x == .denied)

/-- Tests 1 to 5 of R160: the result that is answered at once, or none. -/
def judge (c : Ctx) (l : Fin 13) (r : Request) : Option RespResult :=
  if 2 ≤ r.kind then some .badKind
  else if r.len = 0 ∨ 64 < r.len then some .badLen
  else if !c.sup.memOk then some .denied
  else if r.kind = 0 then (if (readTarget l r).isNone then some .denied else none)
  else match writeTarget l r with
    | none => some .denied
    | some a => if coversDenied l a r.len then some .denied else none

/-- The head of a link is judged, unless takes hold the link (R150, R160). -/
def judgeHead (l : Fin 13) (s : State) : State :=
  let x := s.links.get l
  match x.fifo with
  | [] => s
  | r :: _ =>
    if x.judged || !x.takes.isEmpty then s
    else match judge s.ctx l r with
      | some res => respond l r.tag res [] s
      | none => s.updLink l (fun x => { x with judged := true })

/-! ### Admission (R152, R155, R164) -/

/-- What a judged WRITE is: an ordinary write, the heartbeat byte, or a clear of event bits (R147, R148, R155). -/
inductive WriteClass where
  | plain
  | heartbeat
  | clear
  deriving DecidableEq, Repr

def writeClass (l : Fin 13) (a : Nat) : WriteClass := match byteKind l a with
  | .heartbeat => .heartbeat
  | .eventWord => .clear
  | _ => .plain

/-- The judged WRITE at the head of a link, with its chassis address, when nothing but queue space holds it back (R150, R152). -/
def waitingWrite (s : State) (l : Fin 13) : Option (Request × Nat) :=
  match headOf s l with
  | some r =>
    if (s.links.get l).judged && (s.links.get l).takes.isEmpty && r.kind == 1 then
      match writeTarget l r with
      | some a => if l.val = 0 ∧ rowPending s.wb (writeSpan a r.len) then none else some (r, a)
      | none => none
    else none
  | none => none

/-- The positions after the arbiter's pointer, in round order (R167). -/
def roundAfter (p : Fin 15) : List (Fin 15) := (indices 15).map (fun i => ⟨(p.val + 1 + i.val) % 15, Nat.mod_lt _ (by decide)⟩)

/-- The link at an arbiter position. -/
def posLink (p : Fin 15) : Option (Fin 13) := if h : p.val < 13 then some ⟨p.val, h⟩ else none

/-- Free entries of the write queue (R164). -/
def freeEntries (s : State) : Nat := 8 - s.wq.length

/-- The waiting link that stands first in round order after the pointer (R164). -/
def firstWaiting (s : State) : Option (Fin 13) :=
  (roundAfter s.arb).findSome? (fun p => (posLink p).bind (fun l => if (waitingWrite s l).isSome then some l else none))

/-- A waiting head may enter: three entries are free, and when they are just enough for one the link stands first (R164). -/
def mayAdmit (s : State) (l : Fin 13) : Bool :=
  decide (4 ≤ freeEntries s) || (freeEntries s == 3 && firstWaiting s == some l)

/-- The waiting WRITE of a link if it is of this class and may enter. -/
def admissible (s : State) (l : Fin 13) (k : WriteClass) : Option (Request × Nat) :=
  match waitingWrite s l with
  | some (r, a) => if mayAdmit s l && writeClass l a == k then some (r, a) else none
  | none => none

/-- The write enters the queue and is answered DONE; a manager write has its check bytes replaced (R152, R164). -/
def enterQueue (l : Fin 13) (r : Request) (a : Nat) (s : State) : State :=
  let data := if l.val = 0 then replaceChecks s.ctx a r.data else r.data
  respond l r.tag .done [] { s with wq := s.wq ++ [{ addr := a, data := data, source := some l }] }

/-- An ordinary write is admitted, and the records it commits are taken (R148, R164). -/
def admitWrite (l : Fin 13) (s : State) : State :=
  match admissible s l .plain with
  | none => s
  | some (r, a) => commitRecords l (commitsOf l (writeSpan a r.len)) (enterQueue l r a s)

/-- The heartbeat byte is admitted and taken within its commit (R148, R175). -/
def admitHeartbeat (s : State) : State :=
  match admissible s 0 .heartbeat with
  | none => s
  | some (r, a) => heartbeatTaken (r.data.getD 0 0) (enterQueue 0 r a s)

/-- Event bits of a link's word are cleared; a clear of LINK_ERROR resets the link's counter (R155, R162). -/
def clearWord (l : Fin 13) (a : Nat) (data : List Byte) (u : Units) : Units :=
  match linkSlot l with
  | some n =>
    let mask := clearMask (slotPage n + 0x60) a data
    { (u.touch (.slotEvent n)) with
      slotEvents := updAt u.slotEvents n (fun w => clearBits w mask),
      linkErr := if mask.getLsbD (slotBit .linkError) then updAt u.linkErr l (fun _ => 0) else u.linkErr }
  | none =>
    let mask := clearMask 0x2030 a data
    { (u.touch .chassisEvent) with
      chassisEvent := clearBits u.chassisEvent mask,
      linkErr := if mask.getLsbD (chassisBit .linkError) then updAt u.linkErr l (fun _ => 0) else u.linkErr }

/-- A write to an event word is admitted: it occupies no entry, its bits are cleared and it is answered DONE (R155). -/
def admitClear (l : Fin 13) (s : State) : State :=
  match admissible s l .clear with
  | none => s
  | some (r, a) => respond l r.tag .done [] (s.act (fun _ u => clearWord l a r.data u))

/-! ### Arbiter and memory port (R158, R165 to R167) -/

/-- The judged READ at the head of a link, with its chassis address, when it is offered: no take holds the link and no record it overlaps
is pending (R150, R158). -/
def offeredRead (s : State) (l : Fin 13) : Option (Request × Nat) :=
  match headOf s l with
  | some r =>
    if (s.links.get l).judged && (s.links.get l).takes.isEmpty && r.kind == 0 then
      match readTarget l r with
      | some a => if s.wb.any (fun e => overlapsRec a r.len e.record) then none else some (r, a)
      | none => none
    else none
  | none => none

/-- Start-up's reads of rows and records come after the queue has drained (R164, R177). -/
def drainsFirst (c : Ctx) : Bool := match c.sup.phase with
  | .rows | .records => true
  | _ => false

/-- What a position asks for, when it is a contender (R167). -/
def contender (s : State) (p : Fin 15) : Option Grant :=
  match posLink p with
  | some l => if (offeredRead s l).isSome then some (.read l) else none
  | none =>
    if p.val = 13 then (if s.reads.isEmpty || (drainsFirst s.ctx && !s.wq.isEmpty) then none else some .internal)
    else (if s.wq.isEmpty then none else some .drain)

/-- The first contender after the pointer, with its position (R167). -/
def nextGrant (s : State) : Option (Fin 15 × Grant) := (roundAfter s.arb).findSome? (fun p => (contender s p).map (fun g => (p, g)))

/-- The arbiter grants the free port; a full queue drains ahead of the round without moving the pointer (R167, R169). Nothing is granted
until the device ID has been answered, so the entries kept through a warm restart drain after the ID read and before the first read of
rows: R177 has them drain "before the first read" and does not say whether the ID read is that read (DESIGN CHOICE, log 53). -/
def grantPort (s : State) : State :=
  if s.port.isSome || !s.ctx.sup.memOk then s
  else if s.wq.length = 8 then { s with port := some .drain }
  else match nextGrant s with
    | some (p, g) => { s with port := some g, arb := p }
    | none => s

/-- An upstream READ completes: its data is formed now, from memory and queue (R166). -/
def completeRead (s : State) : State :=
  match s.port with
  | some (.read l) =>
    match headOf s l with
    | some r =>
      match readTarget l r with
      | some a => respond l r.tag .done (readSpan s.wq s.mem a r.len) { s with port := none }
      | none => { s with port := none }
    | none => { s with port := none }
  | _ => s

/-- The drain transaction completes: the oldest entry is in memory and leaves the queue (R165). -/
def completeDrain (s : State) : State :=
  match s.port, s.wq with
  | some .drain, e :: rest => { s with wq := rest, mem := drainEntry e s.mem, port := none }
  | some .drain, [] => { s with port := none }
  | _, _ => s

/-- What an internal read was for acts on its data (R149, R173, R174, R177). -/
def internalData (r : IRead) (s : State) : State := match r with
  | .rows _ _ last => if last then rowsRead s else s
  | .records _ _ last => if last then recordsRead s else s
  | .adopt n => adoptRead n s
  | .take l => takeRead l s
  | .audit row => auditRead row (stored s (.row row)) s

/-- The internal read in progress completes (R149). -/
def completeInternal (s : State) : State :=
  match s.port, s.reads with
  | some .internal, r :: rest => internalData r { s with reads := rest, port := none }
  | some .internal, [] => { s with port := none }
  | _, _ => s

/-! ### Placement (R157, R158, R164) -/

/-- The queue entries of a record: one, or two when it spans two 64-byte pages (R157). Of two, the one of the lower page stands first and
drains first, which neither R157 nor R164 states (DESIGN CHOICE, log 54). -/
def placementEntries (addr : Nat) (content : List Byte) : List QEntry :=
  let room := 64 - addr % 64
  if content.length ≤ room then [{ addr := addr, data := content, source := none }]
  else [{ addr := addr, data := content.take room, source := none }, { addr := addr + room, data := content.drop room, source := none }]

/-- The record is frozen: the READ at the memory port overlaps it (R158). -/
def frozen (s : State) (r : RecId) : Bool := match s.port with
  | some (.read l) => match headOf s l with
    | some q => match readTarget l q with
      | some a => overlapsRec a q.len r
      | none => false
    | none => false
  | _ => false

/-- An entry may be placed: it is not frozen and it fits (R157). -/
def placeable (s : State) (e : WbEntry) : Bool :=
  !frozen s e.record && decide ((placementEntries (recSpan e.record).1 e.content).length ≤ freeEntries s)

/-- Write-backs have begun: step 3 of start-up is complete and memory answers (R157, R169). -/
def writeBacksRun (c : Ctx) : Bool := c.sup.memOk && (match c.sup.phase with
  | .adopt _ | .done => true
  | _ => false)

/-- The placement of one entry of the set. -/
def placeEntry (e : WbEntry) (s : State) : State :=
  { s with wq := s.wq ++ placementEntries (recSpan e.record).1 e.content, wb := s.wb.filter (fun x => x.record != e.record) }

/-- Of the entries that may be placed the one that joined first is placed. Once the manager status record showing an accepted RESTART
has been placed, the warm restart begins (R157, R178). -/
def placeNext (s : State) : State :=
  if writeBacksRun s.ctx then
    match s.wb.find? (placeable s) with
    | some e =>
      let s' := placeEntry e s
      if e.record = .managerStatus ∧ s.ctx.sup.restartArmed then beginWarm .restartCommand s' else s'
    | none => s
  else s

end Sys2Proof.Machine
end

