-- ==== Sys2Proof/Machine/Start.lean ====
section
/-! DEFINITION. Meanings of the restart, start-up and supervision commands (R137, R149, R169, R174, R175, R177). -/

namespace Sys2Proof.Machine

/-- The outcome of a command: the next state, its record and ALERT changes made. -/
def done (pre post : State) : Host.Outcome State Fault Refusal := .next (finish pre post)

/-- A timer's expiry: the clock stands at the deadline and the event is taken. An expiry of a timer that does not run is no event (log 7). -/
def atTimer (t : Timer) (f : State → State) (s : State) : State := match t with
  | some d => f { s with ctx := atDeadline s.ctx d }
  | none => s

/-- The units act on an event, and the budget unit acts once at its end if the event changed what it acts on (R50, R56, R65, log 9). -/
def actAndSettle (f : Ctx → Units → Units) (s : State) : State := s.act (fun c u => settleAfter c u (f c u))

/-- COLD_START (R177): power-on or the RESET line. -/
def execColdStart (cause : ColdCause) (s : State) : Host.Outcome State Fault Refusal :=
  .next (beginCold (match cause with
    | .powerOn => .cold
    | .resetLine => .resetLine) s)

/-- WARM_RESTART (R177): the RESTART line. The RESTART command's restart begins in WRITE_BACK_PLACEMENT (R178). -/
def execWarmRestart (s : State) : Host.Outcome State Fault Refusal := .next (beginWarm .restartLine s)

/-- DEVICE_ID_READ (R169): step 1 of start-up ends with or without an answer. -/
def execDeviceIdRead (answered : Bool) (s : State) : Host.Outcome State Fault Refusal :=
  done s (if s.ctx.sup.phase = .deviceId then deviceIdEnds answered s else s)

/-- INTERNAL_READ_COMPLETE (R149). -/
def execInternalReadComplete (s : State) : Host.Outcome State Fault Refusal := done s (completeInternal s)

/-- HEARTBEAT_TIMER_EXPIRY (R175). -/
def execHeartbeatTimerExpiry (s : State) : Host.Outcome State Fault Refusal := done s (atTimer s.ctx.sup.hbTimer heartbeatLost s)

/-- AUDIT_PERIOD_EXPIRY (R174). -/
def execAuditPeriodExpiry (s : State) : Host.Outcome State Fault Refusal := done s (atTimer s.ctx.cfg.auditTimer auditExpires s)

end Sys2Proof.Machine
end

