-- ==== Sys2Proof/Machine/Ports.lean ====
section
/-! DEFINITION. Meanings of the link, write queue and memory port commands (R155, R157 to R168). -/

namespace Sys2Proof.Machine

/-- PACKET_RECEIVED (R159, R161). -/
def execPacketReceived (link : Fin 13) (bytes : List Byte) (s : State) : Host.Outcome State Fault Refusal := done s (receive link bytes s)

/-- HEAD_JUDGMENT (R160). -/
def execHeadJudgment (link : Fin 13) (s : State) : Host.Outcome State Fault Refusal := done s (judgeHead link s)

/-- WRITE_ADMISSION (R164): the ordinary WRITE at the head of a link. -/
def execWriteAdmission (link : Fin 13) (s : State) : Host.Outcome State Fault Refusal := done s (admitWrite link s)

/-- EVENT_WORD_CLEAR (R155). -/
def execEventWordClear (link : Fin 13) (s : State) : Host.Outcome State Fault Refusal := done s (admitClear link s)

/-- HEARTBEAT_WRITE (R148, R175). -/
def execHeartbeatWrite (s : State) : Host.Outcome State Fault Refusal := done s (admitHeartbeat s)

/-- ARBITER_GRANT (R167). -/
def execArbiterGrant (s : State) : Host.Outcome State Fault Refusal := done s (grantPort s)

/-- READ_COMPLETE (R166). -/
def execReadComplete (s : State) : Host.Outcome State Fault Refusal := done s (completeRead s)

/-- WRITE_DRAIN (R165). -/
def execWriteDrain (s : State) : Host.Outcome State Fault Refusal := done s (completeDrain s)

/-- WRITE_BACK_PLACEMENT (R157). A placement changes no record; the restart that it may begin leaves the set empty (R157, R178). -/
def execWriteBackPlacement (s : State) : Host.Outcome State Fault Refusal := .next (placeNext s)

end Sys2Proof.Machine
end

