-- ==== Sys2Proof/Machine/Contacts.lean ====
section
/-! DEFINITION. Meanings of the slot commands: contacts, override lines, rails, slot timers, budget timer, sense conversions (R2 to R5,
R14 to R25, R71, R79, R85 to R93). -/

namespace Sys2Proof.Machine

/-- A debounced change of an input is taken as an event (R2); when the filter does not wait for it there is none (log 7). -/
def onPin (p : Pin) (level : Bool) (f : State → State) (s : State) : State := match debounced s.ctx p level with
  | some c => f { s with ctx := c }
  | none => s

/-- The slot takes its events: it is settled, and its effective enable is on (R3, R85). -/
def listens (x : Slot) : Bool := x.settled && x.enabled

/-- A slot event is handed to the units when the slot takes its events, and the account is settled. -/
def slotEvent (n : Fin 12) (f : Ctx → Units → Units) (s : State) : State :=
  if listens (s.units.slot n) then actAndSettle f s else s

/-- A slot event that changes no term of the account, the queue or a list. -/
def slotAct (n : Fin 12) (f : Ctx → Units → Units) (s : State) : State := if listens (s.units.slot n) then s.act f else s

/-- RAW_INPUT_CHANGE (R2): a raw input level changes. -/
def execRawInputChange (pin : Pin) (level : Bool) (s : State) : Host.Outcome State Fault Refusal :=
  done s { s with ctx := rawChange s.ctx pin level }

/-- PRES_L_ARRIVAL (R4): an enabled EMPTY slot enters SEATING. -/
def execPresLArrival (slot : Fin 12) (s : State) : Host.Outcome State Fault Refusal :=
  done s (onPin (.presL slot) true
    (slotAct slot (fun c u => if (u.slot slot).state = .empty then enterSeating c slot u else u)) s)

/-- PRES_L_LOSS (R25): every operation of the slot ends, and the running take of one of its records is discarded. -/
def execPresLLoss (slot : Fin 12) (s : State) : Host.Outcome State Fault Refusal :=
  done s (onPin (.presL slot) false (fun s =>
    if (s.units.slot slot).state = .empty then s else slotEvent slot (fun c u => removeSlot c slot u) (discardTakes slot s)) s)

/-- LEVER_OPENING (R23): a PRES_S opening while PRES_L is present. -/
def execLeverOpening (slot : Fin 12) (s : State) : Host.Outcome State Fault Refusal :=
  done s (onPin (.presS slot) false (fun s =>
    if presLLevel s.ctx slot then slotEvent slot (fun c u => leverOpened c slot u) s else s) s)

/-- A PRES_S closing acts in SEATING and on a marked FAULT (R4, R16, R23). -/
def leverCloses (c : Ctx) (n : Fin 12) (u : Units) : Units :=
  match (u.slot n).state with
  | .seating => u.updSlot n (fun x => { x with seatTimer := startTimer c Config.seating })
  | .fault => if (u.slot n).leverMark then clearLatch n u else u
  | _ => u

/-- PRES_S_CLOSING (R4, R16). -/
def execPresSClosing (slot : Fin 12) (s : State) : Host.Outcome State Fault Refusal :=
  done s (onPin (.presS slot) true (slotAct slot (fun c u => leverCloses c slot u)) s)

/-- The slots mapped to an override line are held (R24). -/
def assertLine (c : Ctx) (k : Fin 4) (u : Units) : Units :=
  (indices 12).foldl (fun u n => if slotLine c n = some k then holdSlot c n u else u) u

/-- OVERRIDE_ASSERTION (R24). -/
def execOverrideAssertion (line : Fin 4) (s : State) : Host.Outcome State Fault Refusal :=
  done s (onPin (.ovr line) true (actAndSettle (fun c u => assertLine c line u)) s)

/-- OVERRIDE_RELEASE (R24): the hold ends and nothing starts. -/
def execOverrideRelease (line : Fin 4) (s : State) : Host.Outcome State Fault Refusal := done s (onPin (.ovr line) false id s)

/-- PGOOD_ASSERTION (R87, R89). -/
def execPgoodAssertion (slot : Fin 12) (s : State) : Host.Outcome State Fault Refusal :=
  done s (onPin (.pgood slot) true (slotAct slot (fun c u => pgoodRises c slot u)) s)

/-- PGOOD_LOSS (R89). -/
def execPgoodLoss (slot : Fin 12) (s : State) : Host.Outcome State Fault Refusal :=
  done s (onPin (.pgood slot) false (slotEvent slot (fun c u => pgoodFalls c slot u)) s)

/-- RAIL_FLT_ASSERTION (R88). -/
def execRailFltAssertion (slot : Fin 12) (s : State) : Host.Outcome State Fault Refusal :=
  done s (onPin (.railFlt slot) true (slotEvent slot (fun c u => railFaults c slot u)) s)

/-- RAIL_FLT_RELEASE (R88): only the shown level changes. -/
def execRailFltRelease (slot : Fin 12) (s : State) : Host.Outcome State Fault Refusal := done s (onPin (.railFlt slot) false id s)

/-- SEATING_TIMER_EXPIRY (R5). -/
def execSeatingTimerExpiry (slot : Fin 12) (s : State) : Host.Outcome State Fault Refusal :=
  done s (atTimer (s.units.slot slot).seatTimer (actAndSettle (fun c u => seatSlot c slot u)) s)

/-- SETTLING_TIMER_EXPIRY (R17, R90). -/
def execSettlingTimerExpiry (slot : Fin 12) (s : State) : Host.Outcome State Fault Refusal :=
  done s (atTimer (s.units.slot slot).settleTimer (State.act (fun c u => settlingEnds c slot u)) s)

/-- QUIESCE_DEADLINE_EXPIRY (R22). -/
def execQuiesceDeadlineExpiry (slot : Fin 12) (s : State) : Host.Outcome State Fault Refusal :=
  done s (atTimer (s.units.slot slot).qTimer (actAndSettle (fun c u => cutToSettling c slot (setSlotBit slot .quiesceTimeout u))) s)

/-- CHARGE_TIMEOUT (R87). -/
def execChargeTimeout (slot : Fin 12) (s : State) : Host.Outcome State Fault Refusal :=
  done s (atTimer (s.units.slot slot).chargeTimer (actAndSettle (fun c u => cutToFault c slot .chargeTimeout u)) s)

/-- A cap watch timer expires: OVER becomes EXCEEDED for three more graces, EXCEEDED is a violation (R79). -/
def graceEnds (c : Ctx) (n : Fin 12) (u : Units) : Units :=
  match (u.slot n).watch with
  | .over => setSlotBit n .capExceeded (u.updSlot n (fun x => { x with watch := .exceeded, watchTimer := startTimer c (3 * capGrace c) }))
  | .exceeded => cutToFault c n .capViolation u
  | .clear => u

/-- CAP_GRACE_EXPIRY (R79). -/
def execCapGraceExpiry (slot : Fin 12) (s : State) : Host.Outcome State Fault Refusal :=
  done s (atTimer (s.units.slot slot).watchTimer (actAndSettle (fun c u => graceEnds c slot u)) s)

/-- SHED_DELAY_EXPIRY (R71, R73): victims are chosen against the planned deficit at this moment. -/
def execShedDelayExpiry (s : State) : Host.Outcome State Fault Refusal :=
  done s (atTimer s.units.shedTimer (actAndSettle (fun c u => plannedShed c { u with shedTimer := none })) s)

/-- A sample joins the ring in place of the oldest (R93). -/
def pushSample (ring : List Nat) (w : Nat) : List Nat := ring.tail ++ [w]

/-- A conversion of the channel whose turn it is: stored while the main enable is asserted, else discarded (R92, R93). A stored sample that
leaves the draw average as it was runs the cap watch but changes no record, so that the slot status record does not join the pending set
for it (R93 and R157 read together: DEDUCED, log 45). -/
def convert (n : Fin 12) (w : Nat) (c : Ctx) (u : Units) : Units :=
  if c.pins.sampled && u.senseNext == n then
    let u := { u with senseNext := n + 1 }
    if (u.slot n).mainEn && (u.slot n).settled then
      u.updSlot n (fun x => watchCompare c { x with ring := pushSample x.ring w })
    else u
  else u

/-- SENSE_CONVERSION (R92). -/
def execSenseConversion (slot : Fin 12) (count : BitVec 10) (s : State) : Host.Outcome State Fault Refusal :=
  done s (s.act (convert slot count.toNat))

end Sys2Proof.Machine
end

