-- ==== Sys2Proof/Machine/Modules.lean ====
section
/-! DEFINITION. Meanings of the module and supply commands (R35 to R39, R43, R44). -/

namespace Sys2Proof.Machine

/-- MODULE_ARRIVAL (R35). -/
def execModuleArrival (bay : Fin 14) (s : State) : Host.Outcome State Fault Refusal :=
  done s (onPin (.bay bay) true (actAndSettle (fun c u => moduleArrives c bay u)) s)

/-- A module has left; the generator of a fan that has become ABSENT rests at once (R35, R120). -/
def moduleLost (bay : Fin 14) (s : State) : State :=
  let s := actAndSettle (fun c u => moduleLeaves c bay u) s
  { s with pwm := restGens s.units s.pwm }

/-- MODULE_LOSS (R35, R39). -/
def execModuleLoss (bay : Fin 14) (s : State) : Host.Outcome State Fault Refusal :=
  done s (onPin (.bay bay) false (moduleLost bay) s)

/-- PSU_OK_LOSS (R44). -/
def execPsuOkLoss (supply : Fin 4) (s : State) : Host.Outcome State Fault Refusal :=
  done s (onPin (.psuOk supply) false (actAndSettle (fun c u => deriveSupply c supply u)) s)

/-- PSU_OK_RETURN (R44). -/
def execPsuOkReturn (supply : Fin 4) (s : State) : Host.Outcome State Fault Refusal :=
  done s (onPin (.psuOk supply) true (actAndSettle (fun c u => deriveSupply c supply u)) s)

/-- IDENTITY_READ_ATTEMPT_END (R37). -/
def execIdentityReadAttemptEnd (result : AttemptResult) (s : State) : Host.Outcome State Fault Refusal :=
  done s (actAndSettle (fun c u => attemptEnds c result u) s)

/-- The timer of the wait between two attempts (R37). -/
def retryTimer (u : Units) : Timer := match u.busOp with
  | some (.read _ _ retry _) => retry
  | _ => none

/-- RETRY_DELAY_EXPIRY (R37). -/
def execRetryDelayExpiry (s : State) : Host.Outcome State Fault Refusal :=
  done s (atTimer (retryTimer s.units) (State.act (fun _ u => nextAttempt u)) s)

end Sys2Proof.Machine
end

