-- ==== Sys2Proof/Machine/Cooling.lean ====
section
/-! DEFINITION. Meanings of the thermal and fan commands (R100, R104, R107, R112, R119 to R123). -/

namespace Sys2Proof.Machine

/-- REPORT_AGE_TIMEOUT (R100): the age of an ON slot that is not stale reaches the timeout. -/
def execReportAgeTimeout (slot : Fin 12) (s : State) : Host.Outcome State Fault Refusal :=
  done s (atTimer (staleAt s.ctx (s.units.slot slot)) (State.act (fun _ u => goStale slot u)) s)

/-- POLL_TIMER_EXPIRY (R104). -/
def execPollTimerExpiry (s : State) : Host.Outcome State Fault Refusal := done s (atTimer s.units.pollTimer (State.act pollSensors) s)

/-- SENSOR_POLL_END (R104). -/
def execSensorPollEnd (value : Option (BitVec 8)) (s : State) : Host.Outcome State Fault Refusal :=
  done s (s.act (fun _ u => pollEnds value u))

/-- SAMPLE_TIMER_EXPIRY (R107). -/
def execSampleTimerExpiry (zone : Fin 3) (s : State) : Host.Outcome State Fault Refusal :=
  done s (atTimer (s.units.zones.get zone).sampTimer (State.act (fun c u => sampleZone c zone u)) s)

/-- UPDATE_TIMER_EXPIRY (R112). -/
def execUpdateTimerExpiry (zone : Fin 3) (s : State) : Host.Outcome State Fault Refusal :=
  done s (atTimer (s.units.zones.get zone).updTimer (actAndSettle (fun c u => zoneUpdate c zone u)) s)

/-- TACH_PULSE (R122). -/
def execTachPulse (fan : Fin 6) (s : State) : Host.Outcome State Fault Refusal := done s (s.act (fun _ u => tachCount fan u))

/-- TACH_GATE_CLOSE (R122). -/
def execTachGateClose (s : State) : Host.Outcome State Fault Refusal := done s (atTimer s.units.gateTimer (actAndSettle closeGates) s)

/-- GROUP_START (R119 to R121). -/
def execGroupStart (s : State) : Host.Outcome State Fault Refusal := done s { s with pwm := groupStart s.ctx s.units s.pwm }

end Sys2Proof.Machine
end

