-- ==== Sys2Proof/Machine/Crossbar.lean ====
section
/-! DEFINITION. Meanings of the uplink commands (R129, R137 to R139, R142, R143). -/

namespace Sys2Proof.Machine

/-- UPL_LINK_FALL (R129, R142). -/
def execUplLinkFall (port : Fin 4) (s : State) : Host.Outcome State Fault Refusal :=
  done s (onPin (.uplLink port) false (actAndSettle (fun c u => derivePort c port u)) s)

/-- UPL_LINK_RISE (R129, R143). -/
def execUplLinkRise (port : Fin 4) (s : State) : Host.Outcome State Fault Refusal :=
  done s (onPin (.uplLink port) true (actAndSettle (fun c u => derivePort c port u)) s)

/-- A drain timer expires: a DISCONNECT joins the queue (R139). -/
def drainEnds (ch : Fin 32) (c : Ctx) (u : Units) : Units :=
  if (u.chans.get ch).state = .draining then
    queueCmd c (.disconnect ch) (updChan ch (fun x => { x with cmd := .disconnect, drain := none }) u)
  else u

/-- DRAIN_TIMER_EXPIRY (R139). -/
def execDrainTimerExpiry (channel : Fin 32) (s : State) : Host.Outcome State Fault Refusal :=
  done s (atTimer (s.units.chans.get channel).drain (State.act (drainEnds channel)) s)

/-- The command in flight ends; the account is settled, and the wait list is served when a drain has ended (R136, R137). The budget unit's
restoration and queue scan come first here; `derivePort` and `uplinkReadDone` serve within the uplink unit's own event, before the budget
unit acts (DESIGN CHOICE, log 43). -/
def flightEnds (f : XFlight) (ack : Bool) (c : Ctx) (u : Units) : Units :=
  let u' := settleAfter c u (endCommand c f ack u)
  if endsDrain f ack u then serveWait c u' else u'

/-- One command that is in flight no longer: the crossbar has carried it out by now, or may yet do so; which is a free value (log 33). -/
def lateOne (u : Units) (cmd : XCmd) : Units :=
  if Config.carriesOut u.xChances then { u with xChances := u.xChances + 1, xbar := crossbarDo cmd u.xbar }
  else { u with xChances := u.xChances + 1, xLate := u.xLate ++ [cmd] }

/-- What the crossbar has made of the commands that ended without an acknowledge. The part ignores the acknowledges that these bring
(R137). -/
def lateCarry (u : Units) : Units := u.xLate.foldl lateOne { u with xLate := [] }

/-- The crossbar carries out the command in flight, after those that it has carried out late (R137). -/
def carryOut (cmd : XCmd) (u : Units) : Units := { lateCarry u with xbar := crossbarDo cmd (lateCarry u).xbar }

/-- CROSSBAR_ACKNOWLEDGE (R137) of the command in flight. When none is in flight the part ignores it. -/
def execCrossbarAcknowledge (s : State) : Host.Outcome State Fault Refusal :=
  done s (match s.units.xFlight with
    | some f => s.act (fun c u => flightEnds f true c (carryOut f.cmd u))
    | none => s.act (fun _ u => lateCarry u))

/-- The 20 ms of a command have passed without an acknowledge; `carriedOut` says whether the crossbar had made the change, and if not it
may yet make it (R137, logs 4 and 33). -/
def flightTimesOut (f : XFlight) (carriedOut : Bool) (c : Ctx) (u : Units) : Units :=
  let u := if carriedOut then carryOut f.cmd u else { lateCarry u with xLate := (lateCarry u).xLate ++ [f.cmd] }
  flightEnds f false c (setChassisBit .crossbarTimeout u)

/-- CROSSBAR_COMMAND_TIMEOUT (R137). -/
def execCrossbarCommandTimeout (carriedOut : Bool) (s : State) : Host.Outcome State Fault Refusal :=
  done s (match s.units.xFlight with
    | some f => atTimer (some f.deadline) (State.act (flightTimesOut f carriedOut)) s
    | none => s)

end Sys2Proof.Machine
end

