-- ==== Sys2Proof/Machine/Dispatch.lean ====
section
/-! DEFINITION. The meaning of every command: one arm per constructor of `Instr`. -/

namespace Sys2Proof.Machine

def exec (i : Instr) (s : State) : Host.Outcome State Fault Refusal :=
  match i with
  | .coldStart cause => Sys2Proof.Machine.execColdStart cause s
  | .warmRestart => Sys2Proof.Machine.execWarmRestart s
  | .deviceIdRead answered => Sys2Proof.Machine.execDeviceIdRead answered s
  | .internalReadComplete => Sys2Proof.Machine.execInternalReadComplete s
  | .packetReceived link bytes => Sys2Proof.Machine.execPacketReceived link bytes s
  | .headJudgment link => Sys2Proof.Machine.execHeadJudgment link s
  | .writeAdmission link => Sys2Proof.Machine.execWriteAdmission link s
  | .eventWordClear link => Sys2Proof.Machine.execEventWordClear link s
  | .heartbeatWrite => Sys2Proof.Machine.execHeartbeatWrite s
  | .arbiterGrant => Sys2Proof.Machine.execArbiterGrant s
  | .readComplete => Sys2Proof.Machine.execReadComplete s
  | .writeDrain => Sys2Proof.Machine.execWriteDrain s
  | .writeBackPlacement => Sys2Proof.Machine.execWriteBackPlacement s
  | .rawInputChange pin level => Sys2Proof.Machine.execRawInputChange pin level s
  | .presLArrival slot => Sys2Proof.Machine.execPresLArrival slot s
  | .presLLoss slot => Sys2Proof.Machine.execPresLLoss slot s
  | .leverOpening slot => Sys2Proof.Machine.execLeverOpening slot s
  | .presSClosing slot => Sys2Proof.Machine.execPresSClosing slot s
  | .overrideAssertion line => Sys2Proof.Machine.execOverrideAssertion line s
  | .overrideRelease line => Sys2Proof.Machine.execOverrideRelease line s
  | .pgoodAssertion slot => Sys2Proof.Machine.execPgoodAssertion slot s
  | .pgoodLoss slot => Sys2Proof.Machine.execPgoodLoss slot s
  | .railFltAssertion slot => Sys2Proof.Machine.execRailFltAssertion slot s
  | .railFltRelease slot => Sys2Proof.Machine.execRailFltRelease slot s
  | .moduleArrival bay => Sys2Proof.Machine.execModuleArrival bay s
  | .moduleLoss bay => Sys2Proof.Machine.execModuleLoss bay s
  | .psuOkLoss supply => Sys2Proof.Machine.execPsuOkLoss supply s
  | .psuOkReturn supply => Sys2Proof.Machine.execPsuOkReturn supply s
  | .uplLinkFall port => Sys2Proof.Machine.execUplLinkFall port s
  | .uplLinkRise port => Sys2Proof.Machine.execUplLinkRise port s
  | .tachPulse fan => Sys2Proof.Machine.execTachPulse fan s
  | .seatingTimerExpiry slot => Sys2Proof.Machine.execSeatingTimerExpiry slot s
  | .settlingTimerExpiry slot => Sys2Proof.Machine.execSettlingTimerExpiry slot s
  | .quiesceDeadlineExpiry slot => Sys2Proof.Machine.execQuiesceDeadlineExpiry slot s
  | .chargeTimeout slot => Sys2Proof.Machine.execChargeTimeout slot s
  | .capGraceExpiry slot => Sys2Proof.Machine.execCapGraceExpiry slot s
  | .shedDelayExpiry => Sys2Proof.Machine.execShedDelayExpiry s
  | .reportAgeTimeout slot => Sys2Proof.Machine.execReportAgeTimeout slot s
  | .pollTimerExpiry => Sys2Proof.Machine.execPollTimerExpiry s
  | .sensorPollEnd value => Sys2Proof.Machine.execSensorPollEnd value s
  | .identityReadAttemptEnd result => Sys2Proof.Machine.execIdentityReadAttemptEnd result s
  | .retryDelayExpiry => Sys2Proof.Machine.execRetryDelayExpiry s
  | .sampleTimerExpiry zone => Sys2Proof.Machine.execSampleTimerExpiry zone s
  | .updateTimerExpiry zone => Sys2Proof.Machine.execUpdateTimerExpiry zone s
  | .tachGateClose => Sys2Proof.Machine.execTachGateClose s
  | .groupStart => Sys2Proof.Machine.execGroupStart s
  | .senseConversion slot count => Sys2Proof.Machine.execSenseConversion slot count s
  | .drainTimerExpiry channel => Sys2Proof.Machine.execDrainTimerExpiry channel s
  | .crossbarAcknowledge => Sys2Proof.Machine.execCrossbarAcknowledge s
  | .crossbarCommandTimeout carriedOut => Sys2Proof.Machine.execCrossbarCommandTimeout carriedOut s
  | .heartbeatTimerExpiry => Sys2Proof.Machine.execHeartbeatTimerExpiry s
  | .auditPeriodExpiry => Sys2Proof.Machine.execAuditPeriodExpiry s

end Sys2Proof.Machine
end

