-- ==== Sys2Proof/Safety.lean ====
section
/-! DEFINITION. What counts as a sound state, and what a command leaves alone, in the terms the claims use. -/

namespace Sys2Proof.Machine

/-! ### Sound states -/

/-- The write queue holds at most 8 entries, of which at most 6 come from upstream links (R164). -/
def QueueShare (s : State) : Prop := s.wq.length ≤ 8 ∧ (s.wq.filter (fun e => e.source.isSome)).length ≤ 6

/-- Every request FIFO holds at most 4 requests (R161). -/
def FifoBound (s : State) : Prop := ∀ l : Fin 13, (s.links.get l).fifo.length ≤ 4

/-- Chassis memory is in its canonical form, and every queue entry starts inside it. -/
def MemorySound (s : State) : Prop := Memory.wf s.mem = true ∧ ∀ e ∈ s.wq, e.addr < Config.memoryBytes

/-- Every configuration shadow row passes its own row check (R170). -/
def RowsPass (s : State) : Prop := ∀ r : Fin 25, rowCheck s.ctx.cfg.rows r (s.ctx.cfg.rows.get r) = .pass

/-- ALERT follows the chassis event word and the mask, and is deasserted until a cold start has loaded the mask (R156). -/
def AlertFollows (s : State) : Prop :=
  (alertLive s.ctx = true → s.alert = alertLevel s.ctx s.units) ∧ (s.ctx.sup.cold = true → alertLive s.ctx = false → s.alert = false)

/-- A judged head is a request that passed tests 1 to 5 of R160, and a WRITE in a FIFO brings the data that its length names. -/
def HeadsSound (s : State) : Prop :=
  (s.ctx.sup.phase = .deviceId → s.ctx.sup.memOk = false)
    ∧ (∀ l : Fin 13, (s.links.get l).judged = true → ∃ r rest, (s.links.get l).fifo = r :: rest ∧ judge s.ctx l r = none)
    ∧ (∀ l : Fin 13, ∀ r ∈ (s.links.get l).fifo, r.kind = 1 → r.data.length = r.len)

/-- Every byte of a queue entry from a link is one that the link may write (R147). -/
def WritesStayHome (s : State) : Prop :=
  ∀ e ∈ s.wq, ∀ l, e.source = some l → ∀ i < e.data.length, byteKind l (wrapAddr e.addr i) ≠ .denied

/-- Power of a slot (R13, R15): main enable exactly in CHARGING, ON and QUIESCING, the allowance at most the grant, both 0 elsewhere. -/
def SlotPower (x : Slot) : Prop :=
  x.mainEn = powered x ∧ x.allowance ≤ x.grant ∧ (powered x = false → x.grant = 0 ∧ x.allowance = 0)

/-- A slot that start-up has yet to place or to settle: EMPTY, with no timer that would move it (R1, R177). -/
def Fresh (x : Slot) : Prop := x.state = .empty ∧ x.seatTimer = none ∧ x.settleTimer = none

/-- The internal reads that a phase of start-up waits for, the last of them marked; in service there are takes and audit rows (R149, R177). -/
def PhaseReads (p : Phase) (rs : List IRead) : Prop := match p with
  | .deviceId => rs = []
  | .rows => ∃ pre a len, rs = pre ++ [.rows a len true] ∧ ∀ r ∈ pre, ∃ a len, r = .rows a len false
  | .records => ∃ pre a len, rs = pre ++ [.records a len true] ∧ ∀ r ∈ pre, ∃ a len, r = .records a len false
  | .adopt n => rs = [.adopt n]
  | .done => ∀ r ∈ rs, (∃ l, r = .take l) ∨ ∃ row, r = .audit row

/-- Start-up holds everything back (R2, R91, R161, R177): until it is done the mode is STARTUP, links are closed and empty, no audit waits,
and no slot waits for power or charges; before step 4 no filter runs and every slot is fresh; while slot `n` is adopted, the slots from `n`
on are fresh and not settled. -/
structure StartSound (s : State) : Prop where
  reads : PhaseReads s.ctx.sup.phase s.reads
  mode : s.ctx.sup.mode = .startup ↔ s.ctx.sup.phase ≠ .done
  built : s.ctx.sup.built = true ↔ s.ctx.sup.phase = .done
  links : s.ctx.sup.phase ≠ .done → ∀ l, (s.links.get l).isOpen = false ∧ (s.links.get l).fifo = [] ∧ (s.links.get l).takes = []
  audit : s.ctx.sup.phase ≠ .done → s.ctx.cfg.auditTimer = none
  noGrants : s.ctx.sup.phase ≠ .done → ∀ n, (s.units.slot n).state ≠ .waitPower ∧ (s.units.slot n).state ≠ .charging
  early : s.ctx.sup.phase = .deviceId ∨ s.ctx.sup.phase = .rows ∨ s.ctx.sup.phase = .records →
    s.ctx.pins.sampled = false ∧ (∀ p, (getFilter s.ctx.pins p).timer = none)
      ∧ ∀ n, Fresh (s.units.slot n) ∧ (s.units.slot n).settled = s.ctx.sup.cold
  adopting : ∀ n, s.ctx.sup.phase = .adopt n → s.ctx.sup.cold = false
    ∧ ∀ m, ((s.units.slot m).settled = true ↔ m < n) ∧ (n ≤ m → Fresh (s.units.slot m))
  settled : s.ctx.sup.phase = .done → ∀ n, (s.units.slot n).settled = true

/-- Power of the slots and what stands behind it (R13, R15, R27, R32, R53, R54): main enable exactly with main power once a slot is settled,
20 W at least and the grant at most as the allowance of a powered slot, none elsewhere; a slot that is ready for power has a VALID identity
with a sound range; a wait queue entry stands once for its slot, whose state it fits, for watts not below the blade's minimum. -/
structure PowerSound (u : Units) : Prop where
  enable : ∀ n, (u.slot n).settled = true → (u.slot n).mainEn = powered (u.slot n)
  range : ∀ n, (u.slot n).allowance ≤ (u.slot n).grant
  off : ∀ n, powered (u.slot n) = false → (u.slot n).grant = 0 ∧ (u.slot n).allowance = 0
  floor : ∀ n, powered (u.slot n) = true → 20 ≤ (u.slot n).allowance
  unsettled : ∀ n, (u.slot n).settled = false → (u.slot n).state = .empty
  seating : ∀ n, (u.slot n).seatTimer ≠ none → (u.slot n).state = .seating
  settling : ∀ n, (u.slot n).settleTimer ≠ none → (u.slot n).state = .settling
  ready : ∀ n, (u.slot n).state = .identified ∨ (u.slot n).state = .waitPower → bladeValid u n = true
  identity : ∀ n, (bladeEntry u n).state = .valid ∨ (bladeEntry u n).state = .duplicate →
    ∃ maxP minP trip cls lanes, (bladeEntry u n).ident.vals = .blade maxP minP trip cls lanes ∧ 20 ≤ minP ∧ minP ≤ maxP
  entries : ∀ e ∈ u.waitQ, (e.isRaise = true → (u.slot e.slot).state = .on)
    ∧ (e.isRaise = false → (u.slot e.slot).state = .waitPower ∧ minPower u e.slot ≤ e.watts)
  once : (u.waitQ.map (·.slot)).Nodup

/-- The laws of the channel table and of the uplink wait list (R130, R132, R136, R140): a channel has a holder exactly in the four held
states, and a lane place one channel at most; an active channel's holder is in ON or QUIESCING, its place below the lane limit; a place out
of use is UNAVAILABLE without a holder; a slot waits at most once, in ON, with channels pending. Before the table is rebuilt it is empty. -/
structure UplinkSound (s : State) : Prop where
  holder : ∀ ch, (s.units.chans.get ch).held.isSome = isHeld (s.units.chans.get ch)
  places : ∀ ch ch' p, (s.units.chans.get ch).held = some p → (s.units.chans.get ch').held = some p → ch = ch'
  active : ∀ ch n k, isActive (s.units.chans.get ch) = true → (s.units.chans.get ch).held = some (n, k) →
    ((s.units.slot n).state = .on ∨ (s.units.slot n).state = .quiescing) ∧ k.val < laneLimit s.units n
  unused : ∀ ch, (s.units.chans.get ch).inUse = false →
    (s.units.chans.get ch).state = .unavailable ∧ (s.units.chans.get ch).held = none
  once : s.units.upWait.Nodup
  waiting : ∀ n ∈ s.units.upWait, (s.units.slot n).state = .on ∧ 0 < pendingCount s.units n
  unbuilt : s.ctx.sup.built = false → s.units.upWait = [] ∧ ∀ ch, s.units.chans.get ch = .reset

/-! ### What a command leaves alone -/

/-- The slot is not in WAIT_POWER, CHARGING or ON: no cap, restoration, grant or shed selection reaches it. -/
def quiet (x : Slot) : Bool := x.state != .waitPower && x.state != .charging && x.state != .on

/-- The slot has no main power and does not wait for it: nothing that the budget unit does reaches it. -/
def dark (x : Slot) : Bool := quiet x && x.state != .quiescing

/-- The units that the budget unit leaves alone when it acts on a change of the account: inventory, module bus, supplies, sensors, zones,
fans, crossbar, port states; event bits stay set, and no slot gains a wait queue entry. -/
structure Frame (u u' : Units) : Prop where
  linkErr : u'.linkErr = u.linkErr
  inv : u'.inv = u.inv
  invGen : u'.invGen = u.invGen
  busQueue : u'.busQueue = u.busQueue
  busOp : u'.busOp = u.busOp
  supplies : u'.supplies = u.supplies
  sensors : u'.sensors = u.sensors
  pollTimer : u'.pollTimer = u.pollTimer
  zones : u'.zones = u.zones
  fans : u'.fans = u.fans
  gateTimer : u'.gateTimer = u.gateTimer
  xbar : u'.xbar = u.xbar
  xLate : u'.xLate = u.xLate
  xChances : u'.xChances = u.xChances
  senseNext : u'.senseNext = u.senseNext
  portStates : ∀ p, (u'.ports.get p).state = (u.ports.get p).state
  slotBits : ∀ n b, slotFlag u n b = true → slotFlag u' n b = true
  chassisBits : ∀ b, chassisFlag u b = true → chassisFlag u' b = true
  waits : ∀ n, hasWait u n = false → hasWait u' n = false

/-- A command of a unit leaves alone the queue of commands, supervision, configuration, generators, links, write queue, memory port and
memory: every byte of memory and every link register is as before. -/
structure SameOutside (s t : State) : Prop where
  pending : t.pending = s.pending
  sup : t.ctx.sup = s.ctx.sup
  cfg : t.ctx.cfg = s.ctx.cfg
  pwm : t.pwm = s.pwm
  links : t.links = s.links
  tx : t.tx = s.tx
  sentAt : t.sentAt = s.sentAt
  cuts : t.cuts = s.cuts
  wq : t.wq = s.wq
  reads : t.reads = s.reads
  arb : t.arb = s.arb
  port : t.port = s.port
  mem : t.mem = s.mem

/-- The clock and the input filters are as before, too. -/
structure SameInputs (s t : State) : Prop where
  now : t.ctx.now = s.ctx.now
  pins : t.ctx.pins = s.ctx.pins

/-- Slots without main power that do not wait for it stay as they are, but for slot `n`. -/
def OthersStay (n : Fin 12) (u u' : Units) : Prop := ∀ m, m ≠ n → dark (u.slot m) = true → u'.slot m = u.slot m

/-- The same of slots that a promotion (R7, R34) does not reach: neither in STANDBY nor with the unvalidated mark. -/
def UnpromotedStay (n : Fin 12) (u u' : Units) : Prop :=
  ∀ m, m ≠ n → dark (u.slot m) = true → (u.slot m).state ≠ .standby → (u.slot m).unvalidated = false → u'.slot m = u.slot m

/-! ### Inputs -/

/-- The filter of an input waits, until the clock shows `d`, to take a new level (R2). -/
def Waits (s : State) (p : Pin) (level : Bool) (d : Nat) : Prop :=
  (getFilter s.ctx.pins p).raw = level ∧ (getFilter s.ctx.pins p).level ≠ level ∧ (getFilter s.ctx.pins p).timer = some d

/-- The clock stands at `d` and the input's debounced level is the new one; no other filter, register or row has changed (R2). -/
def Shown (s : State) (p : Pin) (level : Bool) (d : Nat) : Ctx :=
  { atDeadline s.ctx d with pins := updFilter s.ctx.pins (fun f => { f with level := level, timer := none }) p }

/-- The units after a command that changes only what `u` says: the touched records have joined the pending write-back set. -/
def Units.settled (u : Units) : Units := { u with touched := [] }

/-! ### Packets and heads -/

/-- The bytes of a request packet (12.1): start byte, kind and tag with any upper half, address, length, data, CRC. -/
def requestPacket (high kind tag addr len : Nat) (data : List Byte) : List Byte :=
  let body := [0xA5, byteOf (16 * high + 4 * kind + tag), byteOf addr, byteOf (addr / 256), byteOf (addr / 65536), byteOf len] ++ data
  body ++ [packetCrc body]

/-- The link's judged head is the WRITE `r` with chassis address `a`, and nothing but queue space holds it back (R150, R152, R160). -/
structure WriteWaits (s : State) (l : Fin 13) (r : Request) (a : Nat) : Prop where
  head : ∃ rest, (s.links.get l).fifo = r :: rest
  judged : (s.links.get l).judged = true
  free : (s.links.get l).takes = []
  kind : r.kind = 1
  target : writeTarget l r = some a
  rows : l = 0 → rowPending s.wb (writeSpan a r.len) = false

/-- Queue space for the link's head: four free entries, or three when no other waiting link stands before it in round order (R164). -/
def HasRoom (s : State) (l : Fin 13) : Prop := s.wq.length ≤ 4 ∨ (s.wq.length = 5 ∧ firstWaiting s = some l)

end Sys2Proof.Machine
end

