-- ==== Sys2Proof/Certificates/Slice0/Obligations.lean ====
section
/-! DEFINITION. The statements about the block, for the provers. -/

open Sys2Proof Sys2Proof.Machine

/-! ### The step -/

/-- A step with a command waiting is `exec` of the front command on the state with the queue's rest; with none waiting one millisecond
passes and nothing else changes (the model's choice: log 1). -/
def Obligations.StepTakesTheFrontCommand : Prop :=
  (∀ (c : Instr) (rest : List Instr) (s : State), step { s with pending := c :: rest } = exec c { s with pending := rest })
    ∧ ∀ s : State, s.pending = [] → step s = .next { s with ctx := { s.ctx with now := s.ctx.now + 1 } }

/-- Every command completes in every state, and none of them reads or changes the queue of the commands behind it. -/
def Obligations.EveryCommandCompletesAndLeavesTheQueue : Prop :=
  ∀ (c : Instr) (s : State), ∃ t, exec c s = .next t ∧ t.pending = s.pending

/-! ### Invariants of every step -/

/-- R164 and R161: the write queue never holds more than 8 entries, at most 6 of them from links, and no FIFO more than 4 requests. -/
def Obligations.QueueAndFifoBoundsKept : Prop :=
  ∀ s t : State, QueueShare s → FifoBound s → step s = .next t → QueueShare t ∧ FifoBound t

/-- R170: every configuration shadow row always holds values that pass that row's check. -/
def Obligations.ShadowRowsAlwaysPass : Prop := ∀ s t : State, RowsPass s → step s = .next t → RowsPass t

/-- Chassis memory keeps its canonical form, and every queue entry starts inside the memory (the form of memory is the model's: log 5). -/
def Obligations.MemoryStaysSound : Prop := ∀ s t : State, MemorySound s → step s = .next t → MemorySound t

/-- R156: ALERT follows the chassis event word under the mask, is deasserted from power-on until the rows are loaded, and keeps its level
through a warm restart until step 3 is complete; the EVT flag of each link shows the link's own word, unmasked. -/
def Obligations.AlertFollowsTheEventWord : Prop :=
  AlertFollows State.reset
    ∧ (∀ s t : State, AlertFollows s → step s = .next t → AlertFollows t)
    ∧ (∀ s t : State, step s = .next t → t.ctx.sup.cold = false → alertLive t.ctx = false → t.alert = s.alert)
    ∧ (∀ (c : Ctx) (u : Units) (n : Fin 12), (statusByte c u (slotLink n)).getLsbD 4 = (u.slotEvents.get n != 0))
    ∧ (∀ (c : Ctx) (u : Units), (statusByte c u 0).getLsbD 4 = (u.chassisEvent != 0))

/-- R147, last sentence: a request from a slot link changes chassis memory only inside that slot's own page. Every step keeps the queue
free of bytes its source may not write, and the drain of a slot link's entry changes no byte outside the slot's page. -/
def Obligations.SlotLinksWriteOnlyTheirPage : Prop :=
  (∀ s t : State, HeadsSound s → WritesStayHome s → step s = .next t → HeadsSound t ∧ WritesStayHome t)
    ∧ ∀ (s : State) (n : Fin 12) (e : QEntry) (rest : List QEntry), MemorySound s → WritesStayHome s → s.port = some .drain →
        s.wq = e :: rest → e.source = some (slotLink n) →
        ∃ t, exec .writeDrain s = .next t ∧ t.wq = rest
          ∧ ∀ a, ¬ (0x10000 + n.val * 0x1000 ≤ a ∧ a < 0x11000 + n.val * 0x1000) → readCell t.mem a = readCell s.mem a

/-- The state right after reset meets every invariant, and holds the cold-start values that the rules give: mode STARTUP, every slot EMPTY
with both rails off, event words 0, every duty 1000, outputs and ALERT off, nothing queued, every port CLOSED (R1, R82, R110, R121,
R155 to R157, R161, R164, R175, R177). -/
def Obligations.ResetHoldsTheColdStartValues : Prop :=
  (QueueShare State.reset ∧ FifoBound State.reset ∧ RowsPass State.reset ∧ MemorySound State.reset ∧ HeadsSound State.reset
      ∧ WritesStayHome State.reset ∧ StartSound State.reset ∧ PowerSound State.reset.units ∧ UplinkSound State.reset)
    ∧ State.reset.ctx.sup.mode = .startup ∧ State.reset.ctx.sup.hbValue = none ∧ State.reset.ctx.sup.served = false
    ∧ (∀ n, (State.reset.units.slot n).state = .empty ∧ (State.reset.units.slot n).mainEn = false
        ∧ (State.reset.units.slot n).stbyEn = false ∧ (State.reset.units.slot n).grant = 0 ∧ State.reset.units.slotEvents.get n = 0)
    ∧ State.reset.units.chassisEvent = 0 ∧ State.reset.alert = false
    ∧ (∀ z, (State.reset.units.zones.get z).duty = 1000)
    ∧ (∀ f p k, State.reset.pwm.output f p k = false)
    ∧ (∀ l, (State.reset.links.get l).isOpen = false ∧ State.reset.units.linkErr.get l = 0)
    ∧ State.reset.wq = [] ∧ State.reset.wb = [] ∧ State.reset.pending = []

/-! ### Restarts and start-up (R169, R177) -/

/-- COLD_START: start-up begins anew with cold-start values, latches clear, outputs low, nothing queued for the crossbar; a response being
sent is cut off (R161). Memory, crossbar, raw inputs, packets sent whole and the clock are outside the part and stay, and a command in
flight may yet be carried out; records that wait behind a running take go with it (the model's reading: logs 16, 33, 39 and 52). That no filter
timer runs from the beginning of a restart to step 4 is the model's choice (log 2). -/
def Obligations.ColdStartBeginsFromColdValues : Prop :=
  ∀ (cause : ColdCause) (s : State), ∃ t, exec (.coldStart cause) s = .next t
    ∧ t.ctx.sup.mode = .startup ∧ t.ctx.sup.phase = .deviceId ∧ t.ctx.sup.cold = true
    ∧ t.ctx.sup.cause = (match cause with | .powerOn => .cold | .resetLine => .resetLine)
    ∧ (∀ n, (t.units.slot n).state = .empty ∧ (t.units.slot n).mainEn = false ∧ (t.units.slot n).stbyEn = false
        ∧ (t.units.slot n).grant = 0 ∧ (t.units.slot n).allowance = 0 ∧ t.units.slotEvents.get n = 0)
    ∧ t.units.chassisEvent = 0 ∧ (∀ p, (t.units.ports.get p).enable = false) ∧ t.units.waitQ = [] ∧ t.units.busQueue = []
    ∧ t.units.busOp = none ∧ t.units.xq = [] ∧ t.units.xFlight = none
    ∧ t.units.xbar = s.units.xbar ∧ t.units.xLate = s.units.xLate ++ (s.units.xFlight.map (·.cmd)).toList
    ∧ (∀ f p k, t.pwm.output f p k = false) ∧ t.alert = false
    ∧ (∀ l, (t.links.get l).isOpen = false ∧ (t.links.get l).fifo = [] ∧ (t.links.get l).takes = [])
    ∧ t.wq = [] ∧ t.wb = [] ∧ t.reads = [] ∧ t.port = none
    ∧ t.mem = s.mem ∧ t.ctx.now = s.ctx.now
    ∧ (∀ l, t.tx.get l <+: s.tx.get l ∧ (sending s l = false → t.tx.get l = s.tx.get l))
    ∧ (∀ p, (getFilter t.ctx.pins p).raw = (getFilter s.ctx.pins p).raw ∧ (getFilter t.ctx.pins p).timer = none)

/-- WARM_RESTART: the enable latches, the crossbar, the generators, ALERT and the write queue stay; every link closes with a response being
sent cut off, takes, internal reads and the pending write-back set are abandoned, the crossbar queue is empty (R83, R121, R137, R145, R156,
R161, R164, R177). That a transaction at the memory port ends without effect, and that a command in flight may yet be carried out, is the
model's reading (logs 44 and 33), as are which packets count as being sent (log 39) and that records behind a running take go with it (log 52). -/
def Obligations.WarmRestartKeepsTheLatches : Prop :=
  ∀ s : State, ∃ t, exec .warmRestart s = .next t
    ∧ t.ctx.sup.mode = .startup ∧ t.ctx.sup.phase = .deviceId ∧ t.ctx.sup.cold = false ∧ t.ctx.sup.cause = .restartLine
    ∧ (∀ n, (t.units.slot n).mainEn = (s.units.slot n).mainEn ∧ (t.units.slot n).stbyEn = (s.units.slot n).stbyEn
        ∧ (t.units.slot n).state = .empty)
    ∧ (∀ p, (t.units.ports.get p).enable = (s.units.ports.get p).enable)
    ∧ t.units.xbar = s.units.xbar ∧ t.units.busQueue = [] ∧ t.units.busOp = none ∧ t.units.xq = [] ∧ t.units.xFlight = none
    ∧ t.units.xLate = s.units.xLate ++ (s.units.xFlight.map (·.cmd)).toList
    ∧ (∀ l, t.tx.get l <+: s.tx.get l ∧ (sending s l = false → t.tx.get l = s.tx.get l))
    ∧ t.pwm = s.pwm ∧ t.alert = s.alert ∧ t.wq = s.wq ∧ t.mem = s.mem ∧ t.ctx.now = s.ctx.now
    ∧ (∀ l, (t.links.get l).isOpen = false ∧ (t.links.get l).fifo = [] ∧ (t.links.get l).takes = [])
    ∧ t.wb = [] ∧ t.reads = [] ∧ t.port = none ∧ t.ctx.cfg.auditing = false

/-- DEVICE_ID_READ (R169, R173, R177): with an answer the 25 rows are asked for in seven reads of at most 64 bytes; without one every row
runs on its defaults with its fault bit set, the mode becomes FAILSAFE with its event bit, RESTART is set in all words and the ports open.
Memory is not touched. That the queue, which R164 keeps through a warm restart, is emptied then is the model's reading (log 31). -/
def Obligations.DeviceIdDecidesStartUp : Prop :=
  ∀ s : State, s.ctx.sup.phase = .deviceId →
    (∃ t, exec (.deviceIdRead true) s = .next t ∧ t.ctx.sup.memOk = true ∧ t.ctx.sup.phase = .rows ∧ t.ctx.sup.mode = s.ctx.sup.mode
      ∧ t.reads = [.rows 0 64 false, .rows 64 64 false, .rows 128 64 false, .rows 192 64 false, .rows 256 64 false, .rows 320 64 false,
          .rows 384 16 true]
      ∧ t.units = s.units.settled ∧ t.ctx.cfg = s.ctx.cfg ∧ t.wq = s.wq ∧ t.mem = s.mem ∧ t.links = s.links)
    ∧ (∃ t, exec (.deviceIdRead false) s = .next t ∧ t.ctx.sup.memOk = false ∧ t.ctx.sup.phase = .done ∧ t.ctx.sup.mode = .failsafe
      ∧ (∀ r, t.ctx.cfg.rows.get r = defaultRow r ∧ t.ctx.cfg.fault.get r = true)
      ∧ chassisFlag t.units .failsafe = true ∧ chassisFlag t.units .restart = true
      ∧ (∀ n, slotFlag t.units n .restart = true)
      ∧ (∀ l, (t.links.get l).isOpen = true) ∧ t.wq = [] ∧ t.mem = s.mem ∧ t.reads = s.reads)

/-- INTERNAL_READ_COMPLETE of the rows (R121, R173, R177): a read that is not the last only makes way for the next, and all rows are taken from memory
and queue as they stand when the last one completes (the model's reading: log 17). With the last, a row that loads is the shadow row, and one that
does not takes its defaults with its fault bit set and joins the pending set; a curve whose demands are out of order takes the defaults of both
its rows (a curve of which one row has its defaults is judged too: the model's reading, log 15). Generators that were held low start together (the
raw level stands for a fan's presence until step 4: log 10), running ones go on. The records are asked for. -/
def Obligations.ConfigurationLoadFillsTheShadow : Prop :=
  (∀ (s : State) (read : IRead) (a len : Nat) (rest : List IRead), s.port = some .internal → s.reads = read :: rest →
      (read = .rows a len false ∨ read = .records a len false) →
      ∃ t, exec .internalReadComplete s = .next t ∧ t.port = none ∧ t.reads = rest ∧ t.units = s.units.settled ∧ t.ctx = s.ctx
        ∧ t.pwm = s.pwm ∧ t.wq = s.wq ∧ t.mem = s.mem ∧ t.links = s.links ∧ t.tx = s.tx)
    ∧ ∀ (s : State) (a len : Nat) (rest : List IRead), s.port = some .internal → s.reads = .rows a len true :: rest →
      ∃ t, exec .internalReadComplete s = .next t ∧ t.port = none ∧ t.ctx.sup = { s.ctx.sup with phase := .records }
        ∧ t.reads = rest ++ markLast .records (recordReads s.ctx.sup.cold)
        ∧ (let image := fun r : Fin 25 => readSpan s.wq s.mem (16 * r.val) 16
           let alone := fun r : Fin 25 => if rowLoads r (image r) then (image r).take 15 else defaultRow r
           (∀ r : Fin 25, r.val < 14 ∨ 20 ≤ r.val → t.ctx.cfg.rows.get r = alone r ∧ t.ctx.cfg.fault.get r = !rowLoads r (image r))
            ∧ (∀ z : Fin 3,
                let p := curveRows z
                if demandsOrdered (alone p.1) (alone p.2) then
                  (t.ctx.cfg.rows.get p.1 = alone p.1 ∧ t.ctx.cfg.fault.get p.1 = !rowLoads p.1 (image p.1))
                    ∧ t.ctx.cfg.rows.get p.2 = alone p.2 ∧ t.ctx.cfg.fault.get p.2 = !rowLoads p.2 (image p.2)
                else (t.ctx.cfg.rows.get p.1 = defaultRow p.1 ∧ t.ctx.cfg.fault.get p.1 = true)
                    ∧ t.ctx.cfg.rows.get p.2 = defaultRow p.2 ∧ t.ctx.cfg.fault.get p.2 = true))
        ∧ (∀ r, t.ctx.cfg.fault.get r = true → ∃ e ∈ t.wb, e.record = .row r ∧ e.content = rowImage (defaultRow r))
        ∧ t.ctx.cfg.lastRow = s.ctx.cfg.lastRow ∧ t.ctx.pins = s.ctx.pins ∧ t.units = s.units.settled
        ∧ (s.pwm.running = true → t.pwm = s.pwm)
        ∧ (s.pwm.running = false → t.pwm.running = true ∧ t.pwm.upper = wordAt (t.ctx.cfg.rows.get 23) 2
            ∧ t.pwm.polarity = byteAt (t.ctx.cfg.rows.get 23) 4
            ∧ (∀ f, (getFilter s.ctx.pins (.bay (fanBay f))).raw = true → (s.units.zones.get (fanZone f)).duty = 1000 →
                ∀ i, ∀ k ≤ t.pwm.upper, t.pwm.output f i k = !t.pwm.polarity.testBit f.val)
            ∧ (∀ f, (getFilter s.ctx.pins (.bay (fanBay f))).raw = false → ∀ i k, t.pwm.output f i k = t.pwm.polarity.testBit f.val))
        ∧ t.wq = s.wq ∧ t.mem = s.mem ∧ t.links = s.links ∧ t.tx = s.tx

/-- INTERNAL_READ_COMPLETE of the records and of an adoption read (R2, R3, R27, R30, R42, R91, R137, R161, R177). At the end of a cold start every
input shows its raw level; each enabled slot that is present enters SEATING, the others are EMPTY; a present module is UNREAD with its insertion
counted; RESTART is set; a CLEAR goes to the crossbar; the mode is NORMAL and every port sends its open packet. A warm restart asks for the
identity of the first present slot and re-validates it; that slot is then adopted ON with its recorded allowance, clamped, or enters STANDBY
and has its identity taken, or is EMPTY if it is disabled (its entry keeps the result: the model's reading, log 47); the next present slot
follows, or start-up ends. The records are taken as they stand when the last read of them completes (the model's reading: log 17). -/
def Obligations.StartUpPlacesOrAdoptsTheSlots : Prop :=
  (∀ (s : State) (a len : Nat) (rest : List IRead), s.port = some .internal → s.reads = .records a len true :: rest →
      s.ctx.sup.cold = true → s.ctx.sup.memOk = true →
      s.units = { Units.reset with
        linkErr := s.units.linkErr, slotEvents := s.units.slotEvents, chassisEvent := s.units.chassisEvent, xbar := s.units.xbar,
        xLate := s.units.xLate, xChances := s.units.xChances } →
      ∃ t, exec .internalReadComplete s = .next t ∧ t.port = none ∧ t.reads = rest
        ∧ t.ctx.sup.phase = .done ∧ t.ctx.sup.mode = .normal ∧ t.ctx.sup.built = true
        ∧ (∀ p, getFilter t.ctx.pins p =
            { raw := (getFilter s.ctx.pins p).raw, level := (getFilter s.ctx.pins p).raw, timer := none })
        ∧ (∀ n, (t.units.slot n).mainEn = false ∧ (t.units.slot n).stbyEn = false ∧ slotFlag t.units n .restart = true
            ∧ (if rowEnable s.ctx n = true ∧ (getFilter s.ctx.pins (.presL n)).raw = true then
                (t.units.slot n).state = .seating
                  ∧ (t.units.slot n).seatTimer = (if (getFilter s.ctx.pins (.presS n)).raw then some (s.ctx.now + 200) else none)
              else (t.units.slot n).state = .empty ∧ (t.units.slot n).seatTimer = none))
        ∧ (∀ b, if (getFilter s.ctx.pins (.bay b)).raw then
              (t.units.inv.get (bayPos b)).state = .unread ∧ (t.units.inv.get (bayPos b)).inserts
                = oneMore (storedInserts (bayPos b) (stored s (.inventory (bayPos b))))
            else (t.units.inv.get (bayPos b)).state = .absent)
        ∧ chassisFlag t.units .restart = true
        ∧ t.units.xFlight = some { cmd := .clear, deadline := s.ctx.now + 20, ignored := false }
        ∧ (∀ l, (t.links.get l).isOpen = true ∧ t.tx.get l = respPacket 0 .opened (statusByte t.ctx t.units l) [])
        ∧ t.wq = s.wq ∧ t.mem = s.mem)
    ∧ (∀ (s : State) (a len : Nat) (rest : List IRead) (m : Fin 12), s.port = some .internal → s.reads = .records a len true :: rest →
      s.ctx.sup.cold = false → s.ctx.sup.memOk = true →
      (∀ j, j ≤ m → ((getFilter s.ctx.pins (.presL j)).raw = true ↔ j = m)) →
      ∃ t, exec .internalReadComplete s = .next t ∧ t.port = none ∧ t.reads = rest ++ [.adopt m] ∧ t.ctx.sup.phase = .adopt m
        ∧ t.ctx.sup.mode = s.ctx.sup.mode
        ∧ (∀ j, j < m → (t.units.slot j).state = .empty ∧ (t.units.slot j).mainEn = false ∧ (t.units.slot j).stbyEn = false)
        ∧ (∀ j, m ≤ j → (t.units.slot j).qNumber = (stored s (.slotStatus j)).getD 0x0D 0
            ∧ (t.units.slot j).mainEn = (s.units.slot j).mainEn ∧ (t.units.slot j).stbyEn = (s.units.slot j).stbyEn)
        ∧ (∀ n, slotFlag t.units n .restart = true) ∧ chassisFlag t.units .restart = true
        ∧ t.ctx.sup.cmdSeq = (stored s .managerStatus).getD 0 0 ∧ t.ctx.sup.cmdResult = (stored s .managerStatus).getD 3 0
        ∧ t.links = s.links ∧ t.tx = s.tx ∧ t.wq = s.wq ∧ t.mem = s.mem)
    ∧ ∀ (s : State) (n : Fin 12) (rest : List IRead), s.port = some .internal → s.reads = .adopt n :: rest → s.ctx.sup.memOk = true →
      (∀ m, n < m → (∀ j, n < j → j ≤ m → (wantsAdoption s.ctx j = true ↔ j = m)) → presLLevel s.ctx n = true →
        ∃ t, exec .internalReadComplete s = .next t ∧ t.port = none ∧ t.reads = rest ++ [.adopt m] ∧ t.ctx.sup.phase = .adopt m
          ∧ (let bs := readSpan s.wq s.mem (takeSpan (.identity n)).1 64
             let x := s.units.slot n
             let y := t.units.slot n
             (match validateBlade bs with
              | .error why => (bladeEntry t.units n).state = .invalid ∧ (bladeEntry t.units n).reason = why
              | .ok id => (bladeEntry t.units n).ident = id
                  ∧ (bladeEntry t.units n).state = (if keyTaken s.units (bladePos n) id then .duplicate else .valid))
              ∧ (bladeEntry t.units n).inserts = (bladeEntry s.units n).inserts
              ∧ y.settled = true ∧ y.qNumber = x.qNumber ∧ y.powerTake = x.powerTake
              ∧ (if rowEnable s.ctx n = false then y.state = .empty ∧ y.mainEn = false ∧ y.stbyEn = false ∧ y.grant = 0 ∧ y.allowance = 0
                else if pgoodLevel s.ctx n then
                  y.state = .on ∧ y.mainEn = true ∧ y.stbyEn = true ∧ y.grant = y.allowance
                    ∧ y.allowance = min (max (imageAllowance (s.ctx.sup.images.getD n.val [])) (minPower t.units n)) (maxPower t.units n)
                    ∧ y.unvalidated = !bladeValid t.units n ∧ t.units.grantOrder = s.units.grantOrder.filter (· != n) ++ [n]
                else y.mainEn = false ∧ y.stbyEn = true ∧ y.grant = 0 ∧ y.allowance = 0
                    ∧ y.state = (if bladeValid t.units n then .identified else .standby) ∧ y.identityTake.seq = bs.getD 63 0))
          ∧ (∀ j, n < j → j < m → (t.units.slot j).state = .empty ∧ (t.units.slot j).mainEn = false ∧ (t.units.slot j).stbyEn = false)
          ∧ t.links = s.links ∧ t.tx = s.tx ∧ t.wq = s.wq ∧ t.mem = s.mem)
      ∧ ((∀ m, n < m → wantsAdoption s.ctx m = false) →
        ∃ t, exec .internalReadComplete s = .next t ∧ t.port = none ∧ t.reads = rest ∧ t.ctx.sup.phase = .done ∧ t.ctx.sup.mode = .normal
          ∧ t.ctx.sup.built = true ∧ (∀ m, n ≤ m → (t.units.slot m).settled = true)
          ∧ (∀ l, (t.links.get l).isOpen = true ∧ t.tx.get l = respPacket 0 .opened (statusByte t.ctx t.units l) [])
          ∧ t.wq = s.wq ∧ t.mem = s.mem)

/-- AUDIT_PERIOD_EXPIRY (R174): the timer starts again for one period; with no audit running, the mismatch bits and changed marks are cleared
and the read of row 0 is asked for; with one running nothing starts. INTERNAL_READ_COMPLETE for a row of the audit: the row is skipped when its
changed mark is set or its write-back is pending; otherwise a difference from the shadow and its check byte sets the mismatch bit and joins the
shadow row to the pending set. The next row is asked for, or the audit ends with its count and AUDIT_DONE. -/
def Obligations.AuditRunsOverTheRows : Prop :=
  (∀ (s : State) (d : Nat), s.ctx.cfg.auditTimer = some d →
    ∃ t, exec .auditPeriodExpiry s = .next t ∧ t.ctx.now = max s.ctx.now d ∧ t.ctx.sup = s.ctx.sup ∧ t.units = s.units.settled
      ∧ t.ctx.cfg.rows = s.ctx.cfg.rows ∧ t.ctx.cfg.fault = s.ctx.cfg.fault
      ∧ t.ctx.cfg.auditTimer = (if auditPeriod s.ctx = 0 then none else some (max s.ctx.now d + auditPeriod s.ctx))
      ∧ t.mem = s.mem ∧ t.wq = s.wq ∧ t.links = s.links
      ∧ (s.ctx.cfg.auditing = false → t.ctx.cfg.auditing = true ∧ t.ctx.cfg.nextRow = 0 ∧ t.reads = s.reads ++ [.audit 0]
          ∧ (∀ r, t.ctx.cfg.mismatch.get r = false ∧ t.ctx.cfg.changed.get r = false))
      ∧ (s.ctx.cfg.auditing = true → t.reads = s.reads ∧ t.ctx.cfg.mismatch = s.ctx.cfg.mismatch ∧ t.ctx.cfg.changed = s.ctx.cfg.changed))
    ∧ ∀ (s : State) (r : Fin 25) (rest : List IRead), s.port = some .internal → s.reads = .audit r :: rest →
    ∃ t, exec .internalReadComplete s = .next t ∧ t.port = none
      ∧ t.ctx.cfg.rows = s.ctx.cfg.rows ∧ t.ctx.cfg.fault = s.ctx.cfg.fault ∧ t.ctx.cfg.changed = s.ctx.cfg.changed
      ∧ (∀ q, q ≠ r → t.ctx.cfg.mismatch.get q = s.ctx.cfg.mismatch.get q)
      ∧ (t.ctx.cfg.mismatch.get r = true ↔ s.ctx.cfg.mismatch.get r = true ∨ (s.ctx.cfg.changed.get r = false
          ∧ pendingRec s.wb (.row r) = false ∧ readSpan s.wq s.mem (16 * r.val) 16 ≠ rowImage (s.ctx.cfg.rows.get r)))
      ∧ (s.ctx.cfg.changed.get r = false → readSpan s.wq s.mem (16 * r.val) 16 ≠ rowImage (s.ctx.cfg.rows.get r) →
          ∃ e ∈ t.wb, e.record = .row r ∧ e.content = rowImage (s.ctx.cfg.rows.get r))
      ∧ (∀ h : r.val < 24, t.reads = rest ++ [.audit ⟨r.val + 1, by omega⟩] ∧ t.ctx.cfg.nextRow = r.val + 1
          ∧ t.ctx.cfg.auditing = s.ctx.cfg.auditing ∧ t.ctx.cfg.auditCount = s.ctx.cfg.auditCount)
      ∧ (r.val = 24 → t.reads = rest ∧ t.ctx.cfg.auditing = false ∧ t.ctx.cfg.auditCount = s.ctx.cfg.auditCount + 1
          ∧ chassisFlag t.units .auditDone = true)
      ∧ t.mem = s.mem ∧ t.wq = s.wq ∧ t.links = s.links ∧ t.tx = s.tx ∧ t.ctx.sup = s.ctx.sup
      ∧ t.units = { s.units with chassisEvent := t.units.chassisEvent, touched := [] }

/-! ### Packets, heads and the write queue (R155, R159 to R168) -/

/-- PACKET_RECEIVED (R159, R161, R162): a packet composed as 12.1 says is the request it spells, whatever the upper half of its kind and tag
byte; a wrong first byte, a wrong byte count or a wrong CRC makes a bad packet. A request joins the FIFO of an OPEN port with fewer than 4
requests; a bad packet, or a request to a CLOSED or full port, raises the link's counter (to 255 at most) and sets LINK_ERROR in its word. No
packet is sent and no byte of memory changes. -/
def Obligations.PacketJoinsTheFifoOrCounts : Prop :=
  (∀ (high kind tag addr len : Nat) (data : List Byte), high < 16 → kind < 4 → tag < 4 → addr < 0x1000000 → len < 256 →
      data.length = (if kind = 1 then len else 0) →
      parsePacket (requestPacket high kind tag addr len data) = some { kind := kind, tag := tag, addr := addr, len := len, data := data })
    ∧ (∀ bs : List Byte, bs.getD 0 0 ≠ 0xA5 → parsePacket bs = none)
    ∧ (∀ bs : List Byte, bs.length ≠ (if byteAt bs 1 / 4 % 4 = 1 then 7 + byteAt bs 5 else 7) → parsePacket bs = none)
    ∧ (∀ (body : List Byte) (crc : Byte), crc ≠ packetCrc body → parsePacket (body ++ [crc]) = none)
    ∧ ∀ (s : State) (l : Fin 13) (bs : List Byte),
        (∀ r, parsePacket bs = some r → (s.links.get l).isOpen = true → (s.links.get l).fifo.length < 4 →
          ∃ t, exec (.packetReceived l bs) s = .next t ∧ (t.links.get l).fifo = (s.links.get l).fifo ++ [r]
            ∧ (∀ m, m ≠ l → t.links.get m = s.links.get m) ∧ t.units = s.units.settled ∧ t.ctx = s.ctx ∧ t.tx = s.tx ∧ t.wq = s.wq
            ∧ t.mem = s.mem)
        ∧ (parsePacket bs = none ∨ (s.links.get l).isOpen = false ∨ 4 ≤ (s.links.get l).fifo.length →
          ∃ t, exec (.packetReceived l bs) s = .next t ∧ t.links = s.links ∧ t.tx = s.tx
            ∧ t.units.linkErr.get l = min 255 (s.units.linkErr.get l + 1) ∧ (∀ m, m ≠ l → t.units.linkErr.get m = s.units.linkErr.get m)
            ∧ (∀ n, l = slotLink n → slotFlag t.units n .linkError = true ∧ t.units.chassisEvent = s.units.chassisEvent)
            ∧ (l = 0 → chassisFlag t.units .linkError = true ∧ t.units.slotEvents = s.units.slotEvents)
            ∧ t.units = { s.units with
                linkErr := t.units.linkErr, slotEvents := t.units.slotEvents, chassisEvent := t.units.chassisEvent, touched := [] }
            ∧ t.ctx = s.ctx ∧ t.wq = s.wq ∧ t.mem = s.mem)

/-- HEAD_JUDGMENT (R160): the first of tests 1 to 5 that decides answers the head at once with its result and its tag; a head that passes
them waits. A request so answered does nothing else. R163: a READ that passes test 4 covers bytes of the link's view alone: any byte of memory
for CM, one's own slot page or the summary area for a slot link. -/
def Obligations.HeadIsJudgedInOrder : Prop :=
  (∀ (s : State) (l : Fin 13) (r : Request) (rest : List Request),
      (s.links.get l).fifo = r :: rest → (s.links.get l).judged = false → (s.links.get l).takes = [] →
      ∃ t, exec (.headJudgment l) s = .next t ∧ t.units = s.units.settled ∧ t.ctx = s.ctx ∧ t.wq = s.wq ∧ t.mem = s.mem
        ∧ t.reads = s.reads ∧ t.port = s.port
        ∧ (let answered := fun res => (t.links.get l).fifo = rest ∧ (t.links.get l).judged = false
                ∧ t.tx.get l = respPacket r.tag res (statusByte s.ctx s.units l) []
           let waits := t.links.get l = { s.links.get l with judged := true } ∧ t.tx = s.tx
           if 2 ≤ r.kind then answered .badKind
           else if r.len = 0 ∨ 64 < r.len then answered .badLen
           else if s.ctx.sup.memOk = false then answered .denied
           else if r.kind = 0 then (if readTarget l r = none then answered .denied else waits)
           else match writeTarget l r with
             | none => answered .denied
             | some a => if ∃ i < r.len, byteKind l (wrapAddr a i) = .denied then answered .denied else waits)
        ∧ (∀ m, m ≠ l → t.links.get m = s.links.get m ∧ t.tx.get m = s.tx.get m))
    ∧ (∀ (r : Request) (a : Nat), 1 ≤ r.len → readTarget 0 r = some a → a = r.addr ∧ a + r.len ≤ 0x40000)
      ∧ ∀ (n : Fin 12) (r : Request) (a : Nat), 1 ≤ r.len → readTarget (slotLink n) r = some a →
          (r.addr + r.len ≤ 0x1000 ∧ a = 0x10000 + n.val * 0x1000 + r.addr)
            ∨ (0x1000 ≤ r.addr ∧ r.addr + r.len ≤ 0x2000 ∧ a = r.addr)

/-- WRITE_ADMISSION of a write that commits no record (R152, R164): it enters the queue as its newest entry, from its link, and is answered
DONE; a manager write has each check byte of a row replaced. No byte of memory changes and no unit acts. -/
def Obligations.AdmittedWriteEntersTheQueue : Prop :=
  ∀ (s : State) (l : Fin 13) (r : Request) (a : Nat), WriteWaits s l r a → HasRoom s l →
    byteKind l a ≠ .heartbeat → byteKind l a ≠ .eventWord → commitsOf l (writeSpan a r.len) = [] →
    ∃ (t : State) (data : List Byte), exec (.writeAdmission l) s = .next t
      ∧ t.wq = s.wq ++ [{ addr := a, data := data, source := some l }] ∧ data.length = r.data.length
      ∧ (l ≠ 0 → data = r.data)
      ∧ (l = 0 → ∀ i < r.data.length, data.getD i 0 = (if h : wrapAddr a i < 400 ∧ wrapAddr a i % 16 = 15 then
          rowCheckByte (s.ctx.cfg.rows.get ⟨wrapAddr a i / 16, by omega⟩) else r.data.getD i 0))
      ∧ (t.links.get l).fifo = (s.links.get l).fifo.tail ∧ (t.links.get l).judged = false
      ∧ t.tx.get l = respPacket r.tag .done (statusByte s.ctx s.units l) []
      ∧ (∀ m, m ≠ l → t.links.get m = s.links.get m ∧ t.tx.get m = s.tx.get m)
      ∧ t.units = s.units.settled ∧ t.ctx = s.ctx ∧ t.mem = s.mem ∧ t.reads = s.reads

/-- WRITE_ADMISSION of a whole record of a blade (R148 to R151): the take completes within the commit, the owner acts on the record as it stands in
the write, the account is settled (once, at the end of the event: log 9), and sequence and outcome stand in the slot's status record, which joins
the pending set. A commit whose record the queue does not hold whole asks for an internal read and keeps the copy; INTERNAL_READ_COMPLETE gives
each byte its copied value, or the one that was read, and hands the record over, or ends the take without effect when the slot was emptied
meanwhile. -/
def Obligations.CommittedBladeRecordsAreTaken : Prop :=
  let taken := fun (s t : State) (n : Fin 12) (tk : TakeRec) (bs : List Byte) =>
    t.units = ((settleAfter s.ctx s.units (ownerActs tk bs s.ctx s.units).2).updSlot n (setTake tk
        { seq := bs.getD (bs.length - 1) 0, outcome := outcomeCode (ownerActs tk bs s.ctx s.units).1 })).settled
      ∧ ∃ e ∈ t.wb, e.record = .slotStatus n ∧ e.content = recBytes t.ctx t.units (.slotStatus n)
  (∀ (s : State) (n : Fin 12) (tk : TakeRec) (r : Request), tk ∈ linkRecords (slotLink n) →
      WriteWaits s (slotLink n) r (takeSpan tk).1 → HasRoom s (slotLink n) → r.len = (takeSpan tk).2 → r.data.length = r.len →
      ∃ t, exec (.writeAdmission (slotLink n)) s = .next t ∧ taken s t n tk r.data
        ∧ t.wq = s.wq ++ [{ addr := (takeSpan tk).1, data := r.data, source := some (slotLink n) }]
        ∧ (t.links.get (slotLink n)).takes = [] ∧ t.ctx = s.ctx ∧ t.mem = s.mem ∧ t.reads = s.reads)
    ∧ (∀ (s : State) (n : Fin 12) (tk : TakeRec) (r : Request) (a : Nat), WriteWaits s (slotLink n) r a → HasRoom s (slotLink n) →
      byteKind (slotLink n) a = .stored → commitsOf (slotLink n) (writeSpan a r.len) = [tk] →
      (let wq := s.wq ++ [{ addr := a, data := r.data, source := some (slotLink n) }]
       wholeCopy (copyOf wq tk) = none →
        ∃ t, exec (.writeAdmission (slotLink n)) s = .next t ∧ t.wq = wq ∧ t.reads = s.reads ++ [.take (slotLink n)]
          ∧ (t.links.get (slotLink n)).takes = [{ record := tk, copy := copyOf wq tk, discarded := false }]
          ∧ t.units = s.units.settled ∧ t.ctx = s.ctx ∧ t.mem = s.mem))
    ∧ (∀ (s : State) (n : Fin 12) (tk : TakeRec) (copy : List (Option Byte)) (discarded : Bool) (rest : List IRead),
      s.port = some .internal → s.reads = .take (slotLink n) :: rest →
      (s.links.get (slotLink n)).takes = [{ record := tk, copy := copy, discarded := discarded }] → tk ∈ linkRecords (slotLink n) →
      copy.length = (takeSpan tk).2 →
      ∃ (t : State) (data : List Byte), exec .internalReadComplete s = .next t ∧ data.length = copy.length
        ∧ (∀ i < copy.length, data.getD i 0 = (copy.getD i none).getD ((s.wq.reverse.findSome? (fun e =>
            entryByte e ((takeSpan tk).1 + i))).getD (readCell s.mem ((takeSpan tk).1 + i))))
        ∧ (discarded = false → taken s t n tk data) ∧ (discarded = true → t.units = s.units.settled)
        ∧ (t.links.get (slotLink n)).takes = [] ∧ t.reads = rest ∧ t.port = none ∧ t.ctx = s.ctx ∧ t.wq = s.wq ∧ t.mem = s.mem
        ∧ t.tx = s.tx)

/-- WRITE_ADMISSION of the whole manager command record (R26, R40, R153, R174, R176, R178): sequence, kind, target and result stand in the manager
status record, which joins the pending set. A kind that names no command, and a slot command without a slot, change nothing; the others do what
their unit makes of them, and the account is settled (once, at the end of the event: log 9). -/
def Obligations.ManagerCommandsAreAnswered : Prop :=
  (∀ (s : State) (r : Request), WriteWaits s 0 r 0x2000 → HasRoom s 0 → r.len = 8 → r.data.length = 8 →
      ∃ t, exec (.writeAdmission 0) s = .next t
        ∧ t.ctx.sup.cmdSeq = r.data.getD 7 0 ∧ t.ctx.sup.cmdKind = r.data.getD 0 0 ∧ t.ctx.sup.cmdTarget = r.data.getD 1 0
        ∧ (∃ e ∈ t.wb, e.record = .managerStatus ∧ e.content = recBytes t.ctx t.units .managerStatus)
        ∧ t.wq = s.wq ++ [{ addr := 0x2000, data := r.data, source := some 0 }] ∧ (t.links.get 0).takes = [] ∧ t.mem = s.mem
        ∧ t.ctx.cfg.rows = s.ctx.cfg.rows ∧ t.ctx.pins = s.ctx.pins ∧ t.ctx.now = s.ctx.now ∧ t.pwm = s.pwm
        ∧ (let kind := byteAt r.data 0
           let target := byteAt r.data 1
           let answer := t.ctx.sup.cmdResult
           let unit := fun (x : CmdResult × Units) => answer = resultCode x.1 ∧ t.units = (settleAfter s.ctx s.units x.2).settled
           (kind = 0 ∨ 8 < kind → answer = 2 ∧ t.units = s.units.settled)
            ∧ (1 ≤ kind → kind ≤ 4 → 12 ≤ target → answer = 3 ∧ t.units = s.units.settled)
            ∧ (∀ n : Fin 12, target = n.val →
                (kind = 1 → unit (cmdSlotOn s.ctx n s.units)) ∧ (kind = 2 → unit (cmdSlotOff s.ctx n s.units))
                ∧ (kind = 3 → unit (cmdSlotCut s.ctx n s.units)) ∧ (kind = 4 → unit (cmdSlotClear n s.units)))
            ∧ (kind = 5 → unit (cmdRescan s.ctx target s.units))
            ∧ (kind = 6 → (if s.ctx.cfg.auditing then answer = 5 ∧ t.reads = s.reads
                else answer = 1 ∧ t.ctx.cfg.auditing = true ∧ t.reads = s.reads ++ [.audit 0]))
            ∧ (kind = 7 → (if s.ctx.sup.mode ≠ .failsafe then answer = 4 ∧ t.ctx.sup.mode = s.ctx.sup.mode
                else if s.ctx.sup.served = false then answer = 7 ∧ t.ctx.sup.mode = .failsafe
                else answer = 1 ∧ t.ctx.sup.mode = .normal))
            ∧ (kind = 8 → answer = 1 ∧ t.ctx.sup.restartArmed = true ∧ t.units = s.units.settled)))
    ∧ ∀ (c : Ctx) (n : Fin 12) (u : Units),
      (let on := cmdSlotOn c n u
       if c.sup.mode = .failsafe ∧ powerHold c = true then on = (.failsafeHold, u)
       else if (u.slot n).state ≠ .identified ∨ held c n = true ∨ leverClosed c n = false then on = (.badState, u)
       else match clampWatts c n u ((u.slot n).lastReq.getD (maxPower u n)) with
         | none => on = (.badState, u)
         | some w => on.1 = .accepted ∧ (on.2.slot n).state = .waitPower ∧ (on.2.slot n).lastReq = some w
            ∧ (∃ e ∈ on.2.waitQ, e.slot = n ∧ e.watts = w ∧ e.isRaise = false ∧ e.skips = 0 ∧ e.cls = slotClass c n)
            ∧ ∀ m, m ≠ n → on.2.slot m = u.slot m)
      ∧ (let off := cmdSlotOff c n u
         ((u.slot n).state = .on → off.1 = .accepted ∧ (off.2.slot n).state = .quiescing ∧ (off.2.slot n).qReason = some .managerOff
            ∧ (off.2.slot n).qNumber = (u.slot n).qNumber + 1 ∧ (off.2.slot n).qTimer = some (c.now + quiesceTime c n)
            ∧ (off.2.slot n).allowance = (u.slot n).allowance)
          ∧ ((u.slot n).state = .waitPower → off.1 = .accepted ∧ (off.2.slot n).state = .identified ∧ hasWait off.2 n = false)
          ∧ ((u.slot n).state = .charging → off.1 = .accepted ∧ (off.2.slot n).state = .settling ∧ (off.2.slot n).mainEn = false)
          ∧ ((u.slot n).state ∉ [SlotState.on, .waitPower, .charging] → off = (.badState, u)))
      ∧ (let cut := cmdSlotCut c n u
         ((u.slot n).state = .waitPower → cut.1 = .accepted ∧ (cut.2.slot n).state = .identified ∧ hasWait cut.2 n = false)
          ∧ (powered (u.slot n) = true → cut.1 = .accepted ∧ (cut.2.slot n).state = .settling ∧ (cut.2.slot n).mainEn = false
              ∧ (cut.2.slot n).grant = 0 ∧ (cut.2.slot n).settleTimer = some (c.now + 500))
          ∧ ((u.slot n).state ≠ .waitPower → powered (u.slot n) = false → cut = (.badState, u)))
      ∧ ((u.slot n).state = .fault → (cmdSlotClear n u).1 = .accepted
          ∧ (cmdSlotClear n u).2 = u.updSlot n (fun x =>
              { x with state := if bladeValid u n then .identified else .standby, faultReason := none, leverMark := false }))
      ∧ ((u.slot n).state ≠ .fault → cmdSlotClear n u = (.badState, u))
      ∧ (∀ target, (target < 12 ∨ 25 < target → cmdRescan c target u = (.badTarget, u))
          ∧ ∀ b : Fin 14, target = b.val + 12 →
            (bayLevel c b = false → cmdRescan c target u = (.badState, u))
            ∧ (bayLevel c b = true → readRuns u b = true → cmdRescan c target u = (.busy, u))
            ∧ (bayLevel c b = true → readRuns u b = false → (cmdRescan c target u).1 = .accepted ∧ (cmdRescan c target u).2.inv = u.inv
                ∧ (BusItem.read b ∈ (cmdRescan c target u).2.busQueue ∨ (cmdRescan c target u).2.busOp = some (.read b 1 none false))))

/-- WRITE_ADMISSION of a whole configuration row (R152, R171): a row that passes the check against the shadow becomes the shadow row and clears
its fault bit; one that fails leaves the shadow, and every unit but the event bit, as they were. The last row take shows the outcome, the shadow
row and the fault and audit record join the pending set, and an audit that runs marks the row. -/
def Obligations.RowCommitsAreChecked : Prop :=
  ∀ (s : State) (row : Fin 25) (r : Request), WriteWaits s 0 r (16 * row.val) → HasRoom s 0 → r.len = 16 → r.data.length = 16 →
    ∃ t, exec (.writeAdmission 0) s = .next t
      ∧ t.wq = s.wq ++ [{ addr := 16 * row.val, data := r.data.take 15 ++ [rowCheckByte (s.ctx.cfg.rows.get row)], source := some 0 }]
      ∧ (∃ e ∈ t.wb, e.record = .row row ∧ e.content = rowImage (t.ctx.cfg.rows.get row))
      ∧ (∃ e ∈ t.wb, e.record = .configAudit ∧ e.content = recBytes t.ctx t.units .configAudit)
      ∧ (∀ q, q ≠ row → t.ctx.cfg.rows.get q = s.ctx.cfg.rows.get q ∧ t.ctx.cfg.fault.get q = s.ctx.cfg.fault.get q
          ∧ t.ctx.cfg.changed.get q = s.ctx.cfg.changed.get q)
      ∧ t.ctx.cfg.changed.get row = (s.ctx.cfg.changed.get row || s.ctx.cfg.auditing)
      ∧ t.ctx.cfg.lastRow.row = byteOf row.val ∧ t.ctx.cfg.lastRow.seq = r.data.getD 14 0
      ∧ (match rowCheck s.ctx.cfg.rows row (r.data.take 15) with
        | .pass => t.ctx.cfg.rows.get row = r.data.take 15 ∧ t.ctx.cfg.fault.get row = false ∧ t.ctx.cfg.lastRow.outcome = 1
            ∧ t.ctx.cfg.lastRow.reason = 0
        | why => t.ctx.cfg.rows.get row = s.ctx.cfg.rows.get row ∧ t.ctx.cfg.fault.get row = s.ctx.cfg.fault.get row
            ∧ t.ctx.cfg.lastRow.outcome = 2 ∧ t.ctx.cfg.lastRow.reason = (if why = .range then 1 else 2)
            ∧ chassisFlag t.units .configReject = true ∧ t.units = { s.units with chassisEvent := t.units.chassisEvent, touched := [] }
            ∧ t.ctx.sup = s.ctx.sup ∧ t.ctx.cfg.auditTimer = s.ctx.cfg.auditTimer)
      ∧ t.ctx.sup.mode = s.ctx.sup.mode ∧ t.ctx.pins = s.ctx.pins ∧ (t.links.get 0).takes = [] ∧ t.mem = s.mem ∧ t.reads = s.reads
      ∧ t.pwm = s.pwm

/-- EVENT_WORD_CLEAR (R155, R162): each bit that the write holds as one is cleared in the link's own word and every other bit stays; a clear
of LINK_ERROR resets the link's counter; the write is answered DONE and takes no queue entry. That the status byte of the DONE shows the
word as the clear leaves it is the model's reading (log 26). -/
def Obligations.EventBitsClearByOnes : Prop :=
  (∀ (s : State) (n : Fin 12) (r : Request) (a : Nat), WriteWaits s (slotLink n) r a → HasRoom s (slotLink n) →
      byteKind (slotLink n) a = .eventWord →
      ∃ t, exec (.eventWordClear (slotLink n)) s = .next t
        ∧ t.units.slotEvents.get n = s.units.slotEvents.get n &&& ~~~ clearMask (slotPage n + 0x60) a r.data
        ∧ (∀ m, m ≠ n → t.units.slotEvents.get m = s.units.slotEvents.get m) ∧ t.units.chassisEvent = s.units.chassisEvent
        ∧ t.units.linkErr.get (slotLink n) = (if (clearMask (slotPage n + 0x60) a r.data).getLsbD 9 then 0
            else s.units.linkErr.get (slotLink n))
        ∧ (∀ m, m ≠ slotLink n → t.units.linkErr.get m = s.units.linkErr.get m)
        ∧ t.units = { s.units with linkErr := t.units.linkErr, slotEvents := t.units.slotEvents, touched := [] }
        ∧ (t.links.get (slotLink n)).fifo = (s.links.get (slotLink n)).fifo.tail
        ∧ t.tx.get (slotLink n) = respPacket r.tag .done (statusByte t.ctx t.units (slotLink n)) []
        ∧ t.wq = s.wq ∧ t.mem = s.mem ∧ t.ctx = s.ctx)
    ∧ (∀ (s : State) (r : Request) (a : Nat), WriteWaits s 0 r a → HasRoom s 0 → byteKind 0 a = .eventWord →
      ∃ t, exec (.eventWordClear 0) s = .next t
        ∧ t.units.chassisEvent = s.units.chassisEvent &&& ~~~ clearMask 0x2030 a r.data
        ∧ t.units = { s.units with linkErr := t.units.linkErr, chassisEvent := t.units.chassisEvent, touched := [] }
        ∧ t.units.linkErr.get 0 = (if (clearMask 0x2030 a r.data).getLsbD 21 then 0 else s.units.linkErr.get 0)
        ∧ (∀ m, m ≠ 0 → t.units.linkErr.get m = s.units.linkErr.get m)
        ∧ (t.links.get 0).fifo = (s.links.get 0).fifo.tail
        ∧ t.tx.get 0 = respPacket r.tag .done (statusByte t.ctx t.units 0) []
        ∧ t.wq = s.wq ∧ t.mem = s.mem ∧ t.ctx = s.ctx)
    ∧ ∀ (base : Nat) (b0 b1 b2 b3 : Byte), base % 4 = 0 →
      clearMask base base [b0, b1, b2, b3] = b3 ++ b2 ++ b1 ++ b0

/-- HEARTBEAT_WRITE (R148, R175): a new value is taken, sets the served mark and, with a timeout other than 0, starts the timer anew; the
same value changes nothing of supervision. Either way the byte enters the queue. -/
def Obligations.HeartbeatWriteServesOnANewValue : Prop :=
  ∀ (s : State) (r : Request), WriteWaits s 0 r 0x2020 → HasRoom s 0 → r.data.length = 1 →
    ∃ t, exec .heartbeatWrite s = .next t
      ∧ (s.ctx.sup.hbValue ≠ some (r.data.getD 0 0) →
          t.ctx.sup = { s.ctx.sup with
            hbValue := some (r.data.getD 0 0), served := true,
            hbTimer := if hbTimeout s.ctx = 0 then s.ctx.sup.hbTimer else some (s.ctx.now + hbTimeout s.ctx) })
      ∧ (s.ctx.sup.hbValue = some (r.data.getD 0 0) → t.ctx.sup = s.ctx.sup)
      ∧ t.wq = s.wq ++ [{ addr := 0x2020, data := r.data, source := some 0 }]
      ∧ (t.links.get 0).fifo = (s.links.get 0).fifo.tail
      ∧ t.units = s.units.settled ∧ t.ctx.cfg = s.ctx.cfg ∧ t.ctx.pins = s.ctx.pins ∧ t.mem = s.mem

/-- ARBITER_GRANT (R167): a full queue drains at once and the pointer stays; otherwise the first position after the pointer that contends
gets the free port and the pointer; with no contender nothing happens. -/
def Obligations.ArbiterServesInRoundOrder : Prop :=
  ∀ s : State, s.port = none → s.ctx.sup.memOk = true →
    ∃ t, exec .arbiterGrant s = .next t ∧ t.units = s.units.settled ∧ t.ctx = s.ctx ∧ t.mem = s.mem ∧ t.wq = s.wq ∧ t.links = s.links
      ∧ t.reads = s.reads
      ∧ (s.wq.length = 8 → t.port = some .drain ∧ t.arb = s.arb)
      ∧ (s.wq.length ≠ 8 → (∀ p, contender s p = none) → t.port = none ∧ t.arb = s.arb)
      ∧ (s.wq.length ≠ 8 → ∀ (k : Fin 15) (g : Grant),
          contender s ⟨(s.arb.val + 1 + k.val) % 15, Nat.mod_lt _ (by decide)⟩ = some g →
          (∀ j : Fin 15, j < k → contender s ⟨(s.arb.val + 1 + j.val) % 15, Nat.mod_lt _ (by decide)⟩ = none) →
          t.port = some g ∧ t.arb.val = (s.arb.val + 1 + k.val) % 15)

/-- READ_COMPLETE (R166): each byte is that of the newest queue entry that covers it as the queue stands now, and that of memory where none
does; the response carries the request's tag, and the port is free. -/
def Obligations.ReadReturnsTheNewestByte : Prop :=
  ∀ (s : State) (l : Fin 13) (r : Request) (rest : List Request) (a : Nat), s.port = some (.read l) →
    (s.links.get l).fifo = r :: rest → readTarget l r = some a →
    ∃ (t : State) (data : List Byte), exec .readComplete s = .next t ∧ data.length = r.len
      ∧ (∀ i < r.len, data.getD i 0 = ((s.wq.reverse.findSome? (fun e => entryByte e (a + i))).getD (readCell s.mem (a + i))))
      ∧ t.tx.get l = respPacket r.tag .done (statusByte s.ctx s.units l) data
      ∧ (t.links.get l).fifo = rest ∧ (t.links.get l).judged = false ∧ t.port = none ∧ t.arb = s.arb
      ∧ (∀ m, m ≠ l → t.links.get m = s.links.get m ∧ t.tx.get m = s.tx.get m)
      ∧ t.units = s.units.settled ∧ t.ctx = s.ctx ∧ t.wq = s.wq ∧ t.mem = s.mem

/-- WRITE_DRAIN (R165): the oldest entry's bytes stand in memory, wrapped within their 64-byte page, every other byte is as before, and the
entry has left the queue. -/
def Obligations.DrainWritesTheOldestEntry : Prop :=
  ∀ (s : State) (e : QEntry) (rest : List QEntry), MemorySound s → s.port = some .drain → s.wq = e :: rest → e.data.length ≤ 64 →
    ∃ t, exec .writeDrain s = .next t ∧ t.wq = rest ∧ t.port = none ∧ t.arb = s.arb
      ∧ (∀ i < e.data.length, readCell t.mem (e.addr / 64 * 64 + (e.addr % 64 + i) % 64) = e.data.getD i 0)
      ∧ (∀ x, (∀ i < e.data.length, x ≠ e.addr / 64 * 64 + (e.addr % 64 + i) % 64) → readCell t.mem x = readCell s.mem x)
      ∧ t.units = s.units.settled ∧ t.ctx = s.ctx ∧ t.links = s.links ∧ t.reads = s.reads

/-- WRITE_BACK_PLACEMENT (R157, R158, R178): of the entries that may be placed the one that joined first enters the queue, as one entry or as two when
it spans two pages, and leaves the set. Once the manager status record has been placed with a RESTART accepted, the warm restart begins with the
queue kept. That of two entries the one of the lower page stands first is the model's choice (log 54); that it begins in the same step, whatever
later result the placed record shows, is the model's reading (log 30). -/
def Obligations.PlacementTakesTheFirstPlaceable : Prop :=
  ∀ (s : State) (a b : List WbEntry) (e : WbEntry), writeBacksRun s.ctx = true → s.wb = a ++ e :: b → placeable s e = true →
    (∀ x ∈ a, placeable s x = false) →
    ∃ t, exec .writeBackPlacement s = .next t
      ∧ t.wq = s.wq ++ placementEntries (recSpan e.record).1 e.content ∧ t.mem = s.mem
      ∧ (placementEntries (recSpan e.record).1 e.content).length = (if (recSpan e.record).1 % 64 + e.content.length ≤ 64 then 1 else 2)
      ∧ (e.record = .managerStatus → s.ctx.sup.restartArmed = true →
          t.ctx.sup.mode = .startup ∧ t.ctx.sup.cause = .restartCommand ∧ t.ctx.sup.cold = false ∧ t.wb = []
            ∧ (∀ n, (t.units.slot n).mainEn = (s.units.slot n).mainEn))
      ∧ (e.record ≠ .managerStatus ∨ s.ctx.sup.restartArmed = false →
          t.wb = s.wb.filter (fun x => x.record != e.record) ∧ t.units = s.units ∧ t.ctx = s.ctx ∧ t.links = s.links ∧ t.tx = s.tx
            ∧ t.reads = s.reads ∧ t.port = s.port ∧ t.arb = s.arb ∧ t.pwm = s.pwm ∧ t.alert = s.alert)

/-- R154 and R157, at the end of a command: a record whose content has changed, or that was touched, has an entry with the latest content,
and an entry that a record already had keeps its place with the latest content; no other record joins. That contents are compared before and
after the whole command, so that a change taken back within it joins nothing, is the model's choice (log 50). -/
def Obligations.ChangedRecordsJoinTheSet : Prop :=
  ∀ (pre post : State) (r : RecId),
    ((pendingRec post.wb r = true ∨ r ∈ post.units.touched ∨ recBytes pre.ctx pre.units r ≠ recBytes post.ctx post.units r) ↔
        pendingRec (finish pre post).wb r = true)
      ∧ (∀ e ∈ (finish pre post).wb, e.record = r → e.content = recBytes post.ctx post.units r)
      ∧ ((finish pre post).wb.take post.wb.length).map (·.record) = post.wb.map (·.record)

/-! ### Contacts, rails and slot timers (R2 to R5, R14 to R25, R85 to R93) -/

/-- RAW_INPUT_CHANGE, OVERRIDE_RELEASE and RAIL_FLT_RELEASE (R2, R24, R88). A raw change starts the filter's timer for the input's debounce
time, or stops it when the level returns; a release only shows its new level. No unit acts. That no filter runs before step 4 of start-up
has sampled the inputs is the model's choice (log 2). -/
def Obligations.FiltersShowOnlyDebouncedLevels : Prop :=
  (∀ (s : State) (p : Pin) (level : Bool), (getFilter s.ctx.pins p).raw ≠ level →
      ∃ t, exec (.rawInputChange p level) s = .next t
        ∧ getFilter t.ctx.pins p = {
            raw := level,
            level := (getFilter s.ctx.pins p).level,
            timer := if s.ctx.pins.sampled = true ∧ (getFilter s.ctx.pins p).level ≠ level then some (s.ctx.now + debounceTime level p)
              else none }
        ∧ (∀ q, q ≠ p → getFilter t.ctx.pins q = getFilter s.ctx.pins q) ∧ t.units = s.units.settled ∧ SameOutside s t)
    ∧ (∀ (s : State) (k : Fin 4) (d : Nat), Waits s (.ovr k) false d →
      ∃ t, exec (.overrideRelease k) s = .next t ∧ t.ctx = Shown s (.ovr k) false d ∧ t.units = s.units.settled ∧ SameOutside s t)
    ∧ (∀ (s : State) (n : Fin 12) (d : Nat), Waits s (.railFlt n) false d →
      ∃ t, exec (.railFltRelease n) s = .next t ∧ t.ctx = Shown s (.railFlt n) false d ∧ t.units = s.units.settled ∧ SameOutside s t)
    ∧ (∀ n, debounceTime true (.presL n) = 200 ∧ debounceTime false (.presL n) = 5)
    ∧ (∀ n b, debounceTime b (.presS n) = 50 ∧ debounceTime b (.pgood n) = 2)
    ∧ (∀ k b, debounceTime b (.ovr k) = 20 ∧ debounceTime b (.uplLink k) = 100)
    ∧ (∀ n, debounceTime true (.railFlt n) = 1 ∧ debounceTime false (.railFlt n) = 20)
    ∧ (∀ b, debounceTime true (.bay b) = 200 ∧ debounceTime false (.bay b) = 20)
    ∧ (∀ k, debounceTime true (.psuOk k) = 500 ∧ debounceTime false (.psuOk k) = 2)

/-- PRES_L_ARRIVAL and PRES_S_CLOSING (R4, R16): an enabled EMPTY slot enters SEATING, its 200 ms running while the lever is closed; the
closing starts them in SEATING, clears a marked FAULT, and starts nothing elsewhere. Nothing but the slot changes. -/
def Obligations.SeatingFollowsTheContacts : Prop :=
  (∀ (s : State) (n : Fin 12) (d : Nat), Waits s (.presL n) true d → listens (s.units.slot n) = true → (s.units.slot n).state = .empty →
      ∃ t, exec (.presLArrival n) s = .next t ∧ t.ctx = Shown s (.presL n) true d ∧ SameOutside s t
        ∧ t.units = (s.units.updSlot n (fun x =>
            { x with state := .seating, seatTimer := if leverClosed s.ctx n then some (max s.ctx.now d + 200) else none })).settled)
    ∧ (∀ (s : State) (n : Fin 12) (d : Nat), Waits s (.presS n) true d → listens (s.units.slot n) = true →
      ∃ t, exec (.presSClosing n) s = .next t ∧ t.ctx = Shown s (.presS n) true d ∧ SameOutside s t
        ∧ ((s.units.slot n).state = .seating →
            t.units = (s.units.updSlot n (fun x => { x with seatTimer := some (max s.ctx.now d + 200) })).settled)
        ∧ ((s.units.slot n).state = .fault → (s.units.slot n).leverMark = true →
            t.units = (s.units.updSlot n (fun x =>
              { x with state := if bladeValid s.units n then .identified else .standby, faultReason := none, leverMark := false })).settled)
        ∧ ((s.units.slot n).state ≠ .seating → ((s.units.slot n).state ≠ .fault ∨ (s.units.slot n).leverMark = false) →
            t.units = s.units.settled))

/-- PRES_L_LOSS (R25, R49, R90, R140): whatever a slot beyond SEATING was doing, it is EMPTY with both enables off and no power; it is in no
queue and on no list, its timers have stopped, and its quiesce fields, fault reason, marks and last requested watts are gone; its channels
drain; its blade entry is ABSENT, SLOT_REMOVED is set, and the take that runs on its link is discarded (that of a slot in SEATING too: the
model's reading, log 24), while a record that waits behind it is still to be judged. -/
def Obligations.RemovalEndsEverythingOfTheSlot : Prop :=
  ∀ (s : State) (n : Fin 12) (d : Nat), Waits s (.presL n) false d → listens (s.units.slot n) = true → (s.units.slot n).state ≠ .empty →
    ∃ t, exec (.presLLoss n) s = .next t ∧ t.ctx = Shown s (.presL n) false d
      ∧ (t.units.slot n).state = .empty ∧ (t.units.slot n).seatTimer = none
      ∧ ((s.units.slot n).state ≠ .seating →
          (t.units.slot n).mainEn = false ∧ (t.units.slot n).stbyEn = false ∧ (t.units.slot n).grant = 0
            ∧ (t.units.slot n).allowance = 0 ∧ (t.units.slot n).faultReason = none ∧ (t.units.slot n).settleTimer = none
            ∧ (t.units.slot n).qTimer = none ∧ (t.units.slot n).chargeTimer = none ∧ (t.units.slot n).readings = List.replicate 4 none
            ∧ (bladeEntry t.units n).state = .absent ∧ chassisFlag t.units .slotRemoved = true ∧ hasWait t.units n = false
            ∧ n ∉ t.units.grantOrder ∧ n ∉ t.units.capped ∧ n ∉ t.units.shed ∧ n ∉ t.units.upWait
            ∧ (t.units.slot n).qReason = none ∧ (t.units.slot n).qRemaining = 0 ∧ (t.units.slot n).defers = 0
            ∧ (t.units.slot n).qNumber = (s.units.slot n).qNumber ∧ (t.units.slot n).leverMark = false
            ∧ (t.units.slot n).unvalidated = false ∧ (t.units.slot n).lastReq = none ∧ (t.units.slot n).watchTimer = none
            ∧ (t.units.slot n).ageStart = none ∧ drawAverage (t.units.slot n) = 0 ∧ (t.units.slot n).claimed = 0
            ∧ seatedCount t.units + 1 = seatedCount s.units
            ∧ (∀ k ch, lanePlace s.units n k = some ch → (s.units.ports.get (portOf ch)).state ≠ .unavailable →
                (isActive (s.units.chans.get ch) = true → (t.units.chans.get ch).held = some (n, k) ∧ (t.units.chans.get ch).state = .draining)
                ∧ ((s.units.chans.get ch).state = .switching → (t.units.chans.get ch).answer = true)
                ∧ ((s.units.chans.get ch).state = .assigned ∨ (s.units.chans.get ch).state = .stranded →
                    (t.units.chans.get ch).drain = some (max s.ctx.now d + drainTime s.ctx))))
      ∧ (t.units.slot n).enabled = rowEnable s.ctx n
      ∧ ((s.links.get (slotLink n)).takes = [] → (t.links.get (slotLink n)).takes = [])
      ∧ (∀ tk rest, (s.links.get (slotLink n)).takes = tk :: rest →
          (t.links.get (slotLink n)).takes = { tk with discarded := true } :: rest)
      ∧ (∀ l, l ≠ slotLink n → t.links.get l = s.links.get l)
      ∧ UnpromotedStay n s.units t.units ∧ t.units.sensors = s.units.sensors
      ∧ t.mem = s.mem ∧ t.wq = s.wq ∧ t.tx = s.tx ∧ t.pwm = s.pwm

/-- LEVER_OPENING (R23): the wait queue entry is dropped, a charge is cut, an ON slot quiesces for EJECT with its allowance kept, a FAULT
takes the lever cycle mark, the seating timer stops; other states stay. -/
def Obligations.LeverOpeningActsByState : Prop :=
  ∀ (s : State) (n : Fin 12) (d : Nat), Waits s (.presS n) false d → listens (s.units.slot n) = true → presLLevel s.ctx n = true →
    ∃ t, exec (.leverOpening n) s = .next t ∧ t.ctx = Shown s (.presS n) false d ∧ SameOutside s t ∧ Frame s.units t.units
      ∧ OthersStay n s.units t.units
      ∧ ((s.units.slot n).state = .waitPower → (t.units.slot n).state = .identified ∧ hasWait t.units n = false)
      ∧ ((s.units.slot n).state = .charging → (t.units.slot n).state = .settling ∧ (t.units.slot n).mainEn = false
          ∧ (t.units.slot n).grant = 0 ∧ (t.units.slot n).allowance = 0
          ∧ (t.units.slot n).settleTimer = some (max s.ctx.now d + 500) ∧ (t.units.slot n).stbyEn = (s.units.slot n).stbyEn)
      ∧ ((s.units.slot n).state = .on → (s.units.emergency = true ∨ allSuppliesLost s.units = false) →
          (t.units.slot n).state = .quiescing ∧ (t.units.slot n).qReason = some .eject
            ∧ (t.units.slot n).qNumber = (s.units.slot n).qNumber + 1 ∧ (t.units.slot n).defers = 0
            ∧ (t.units.slot n).qTimer = some (max s.ctx.now d + quiesceTime s.ctx n)
            ∧ (t.units.slot n).allowance = (s.units.slot n).allowance ∧ (t.units.slot n).mainEn = (s.units.slot n).mainEn)
      ∧ ((s.units.slot n).state = .fault → t.units = (s.units.updSlot n (fun x => { x with leverMark := true })).settled)
      ∧ ((s.units.slot n).state = .seating → t.units = (s.units.updSlot n (fun x => { x with seatTimer := none })).settled)
      ∧ ((s.units.slot n).state ∈ [SlotState.empty, .standby, .identified, .quiescing, .settling] → t.units = s.units.settled)

/-- OVERRIDE_ASSERTION (R24): every slot mapped to the line loses its main power, or its wait queue entry, at once. The hold reaches no other
slot: one with main power keeps it unless the budget unit sheds in an emergency, one in WAIT_POWER keeps its entry unless it is granted
power from what the hold has freed, and one in another state stays as it is. -/
def Obligations.OverrideHoldsEveryMappedSlot : Prop :=
  ∀ (s : State) (k : Fin 4) (d : Nat), Waits s (.ovr k) true d →
    ∃ t, exec (.overrideAssertion k) s = .next t ∧ t.ctx = Shown s (.ovr k) true d ∧ SameOutside s t ∧ Frame s.units t.units
      ∧ (∀ n, slotLine s.ctx n = some k → held t.ctx n = true
          ∧ (powered (s.units.slot n) = true → (t.units.slot n).state = .settling ∧ (t.units.slot n).mainEn = false
              ∧ (t.units.slot n).grant = 0 ∧ (t.units.slot n).allowance = 0)
          ∧ ((s.units.slot n).state = .waitPower → (t.units.slot n).state = .identified ∧ hasWait t.units n = false))
      ∧ (∀ m, slotLine s.ctx m ≠ some k → powered (s.units.slot m) = true → chassisFlag t.units .emergencyShed = false →
          (t.units.slot m).state = (s.units.slot m).state ∧ (t.units.slot m).mainEn = (s.units.slot m).mainEn
            ∧ (t.units.slot m).stbyEn = (s.units.slot m).stbyEn)
      ∧ (∀ m, slotLine s.ctx m ≠ some k → (s.units.slot m).state = .waitPower →
          (∀ e ∈ s.units.waitQ, e.slot = m → e.isRaise = false) →
          ((t.units.slot m).state = .waitPower ∧ hasWait t.units m = hasWait s.units m)
            ∨ (t.units.slot m).state ∈ [SlotState.charging, .on, .fault])
      ∧ (∀ m, dark (s.units.slot m) = true → t.units.slot m = s.units.slot m)

/-- PGOOD_ASSERTION (R14, R87, R89): a CHARGING slot is ON with its charge time; with the main rail not asked for, RAIL_ANOMALY is set. -/
def Obligations.PowerGoodEndsTheCharge : Prop :=
  ∀ (s : State) (n : Fin 12) (d : Nat), Waits s (.pgood n) true d → listens (s.units.slot n) = true →
    ∃ t, exec (.pgoodAssertion n) s = .next t ∧ t.ctx = Shown s (.pgood n) true d ∧ SameOutside s t
      ∧ (∀ c0, (s.units.slot n).state = .charging → (s.units.slot n).chargeStart = some c0 →
          t.units = (s.units.updSlot n (fun x =>
            { x with
              state := .on, lastCharge := min 2550 (max s.ctx.now d - c0), chargeTimer := none, chargeStart := none,
              watch := .clear, watchTimer := none, claimed := 0, group := .any,
              ageStart := if s.ctx.sup.mode = .startup then none else some (max s.ctx.now d) })).settled)
      ∧ ((s.units.slot n).state ∈ [SlotState.standby, .identified, .waitPower] →
          slotFlag t.units n .railAnomaly = true ∧ t.units = { s.units with slotEvents := t.units.slotEvents, touched := [] })
      ∧ ((s.units.slot n).state ∈ [SlotState.empty, .seating, .on, .quiescing, .settling, .fault] → t.units = s.units.settled)

/-- PGOOD_LOSS, RAIL_FLT_ASSERTION and CHARGE_TIMEOUT (R14 to R16, R87 to R89): the slot is cut into FAULT with the reason of its cause, the
FAULT and SLOT_FAULT bits are set, and its standby rail stays on. -/
def Obligations.RailFaultsCutIntoFault : Prop :=
  let cut := fun (n : Fin 12) (why : FaultReason) (s t : State) =>
    SameOutside s t ∧ Frame s.units t.units ∧ OthersStay n s.units t.units
      ∧ (t.units.slot n).state = .fault ∧ (t.units.slot n).faultReason = some why ∧ (t.units.slot n).mainEn = false
      ∧ (t.units.slot n).grant = 0 ∧ (t.units.slot n).allowance = 0 ∧ drawAverage (t.units.slot n) = 0
      ∧ (t.units.slot n).stbyEn = (s.units.slot n).stbyEn
      ∧ (t.units.slot n).leverMark = ((s.units.slot n).leverMark || !leverClosed s.ctx n)
      ∧ slotFlag t.units n .fault = true ∧ chassisFlag t.units .slotFault = true
  (∀ (s : State) (n : Fin 12) (d : Nat), Waits s (.pgood n) false d → listens (s.units.slot n) = true →
      ((s.units.slot n).state = .on ∨ (s.units.slot n).state = .quiescing) →
      ∃ t, exec (.pgoodLoss n) s = .next t ∧ t.ctx = Shown s (.pgood n) false d ∧ cut n .railLost s t)
    ∧ (∀ (s : State) (n : Fin 12) (d : Nat), Waits s (.railFlt n) true d → listens (s.units.slot n) = true →
      (s.units.slot n).mainEn = true → powered (s.units.slot n) = true →
      ∃ t, exec (.railFltAssertion n) s = .next t ∧ t.ctx = Shown s (.railFlt n) true d ∧ cut n .overcurrent s t)
    ∧ (∀ (s : State) (n : Fin 12) (d : Nat), (s.units.slot n).chargeTimer = some d → (s.units.slot n).state = .charging →
      ∃ t, exec (.chargeTimeout n) s = .next t ∧ t.ctx = atDeadline s.ctx d ∧ cut n .chargeTimeout s t)

/-- SEATING_TIMER_EXPIRY (R5, R31, R49): the slot enters STANDBY with its standby rail on; its blade entry is UNREAD with the insertion
counted, its event word and link error counter are cleared, its take results are fresh, and one more slot counts as seated. -/
def Obligations.SeatingEndsInStandby : Prop :=
  ∀ (s : State) (n : Fin 12) (d : Nat), (s.units.slot n).seatTimer = some d → (s.units.slot n).state = .seating →
    ∃ t, exec (.seatingTimerExpiry n) s = .next t ∧ t.ctx = atDeadline s.ctx d ∧ SameOutside s t
      ∧ (t.units.slot n).state = .standby ∧ (t.units.slot n).stbyEn = true ∧ (t.units.slot n).seatTimer = none
      ∧ (t.units.slot n).mainEn = (s.units.slot n).mainEn
      ∧ (t.units.slot n).identityTake = { seq := 0, outcome := 0 } ∧ (t.units.slot n).powerTake = { seq := 0, outcome := 0 }
      ∧ (t.units.slot n).reportTake = { seq := 0, outcome := 0 } ∧ (t.units.slot n).claimTake = { seq := 0, outcome := 0 }
      ∧ (t.units.slot n).answerTake = { seq := 0, outcome := 0 } ∧ (t.units.slot n).qNumber = (s.units.slot n).qNumber
      ∧ (t.units.slot n).defers = 0 ∧ (t.units.slot n).unvalidated = false
      ∧ seatedCount t.units = seatedCount s.units + 1
      ∧ ((∀ ch, heldBy n (s.units.chans.get ch) = false) → (s.units.slot n).claimed = 0 → t.units.slotEvents.get n = 0)
      ∧ (bladeEntry t.units n).state = .unread ∧ (bladeEntry t.units n).reason = .none
      ∧ (bladeEntry t.units n).inserts = min 65535 ((bladeEntry s.units n).inserts + 1)
      ∧ t.units.linkErr.get (slotLink n) = 0 ∧ UnpromotedStay n s.units t.units

/-- SETTLING_TIMER_EXPIRY (R17, R90): the slot comes to rest by its blade entry, and a power-good level still asserted sets RAIL_ANOMALY. -/
def Obligations.SettlingEndsByTheBladeEntry : Prop :=
  ∀ (s : State) (n : Fin 12) (d : Nat), (s.units.slot n).settleTimer = some d →
    ∃ t, exec (.settlingTimerExpiry n) s = .next t ∧ t.ctx = atDeadline s.ctx d ∧ SameOutside s t
      ∧ t.units.slots = (s.units.updSlot n (fun x =>
          { x with state := if (bladeEntry s.units n).state = .valid then .identified else .standby, settleTimer := none })).slots
      ∧ (pgoodLevel s.ctx n = true → slotFlag t.units n .railAnomaly = true)
      ∧ (pgoodLevel s.ctx n = false → t.units.slotEvents = s.units.slotEvents)
      ∧ t.units = { s.units with slots := t.units.slots, slotEvents := t.units.slotEvents, touched := [] }

/-- QUIESCE_DEADLINE_EXPIRY (R22): QUIESCE_TIMEOUT is set, the main rail is cut, and the slot is in SETTLING. -/
def Obligations.QuiesceDeadlineCutsToSettling : Prop :=
  ∀ (s : State) (n : Fin 12) (d : Nat), (s.units.slot n).qTimer = some d → (s.units.slot n).state = .quiescing →
    ∃ t, exec (.quiesceDeadlineExpiry n) s = .next t ∧ t.ctx = atDeadline s.ctx d ∧ SameOutside s t ∧ Frame s.units t.units
      ∧ OthersStay n s.units t.units ∧ slotFlag t.units n .quiesceTimeout = true
      ∧ (t.units.slot n).state = .settling ∧ (t.units.slot n).mainEn = false ∧ drawAverage (t.units.slot n) = 0
      ∧ (t.units.slot n).grant = 0 ∧ (t.units.slot n).allowance = 0 ∧ (t.units.slot n).qReason = none
      ∧ (t.units.slot n).qTimer = none ∧ (t.units.slot n).qRemaining = 0 ∧ (t.units.slot n).claimed = 0
      ∧ (t.units.slot n).settleTimer = some (max s.ctx.now d + 500)
      ∧ (t.units.slot n).stbyEn = (s.units.slot n).stbyEn

/-- CAP_GRACE_EXPIRY (R79): a slot over its cap for one grace is EXCEEDED, with its bit set, for three more; then it is cut into FAULT. -/
def Obligations.CapGraceLeadsToViolation : Prop :=
  ∀ (s : State) (n : Fin 12) (d : Nat), (s.units.slot n).watchTimer = some d →
    ∃ t, exec (.capGraceExpiry n) s = .next t ∧ t.ctx = atDeadline s.ctx d ∧ SameOutside s t
      ∧ ((s.units.slot n).watch = .over →
          t.units.slots = (s.units.updSlot n (fun x =>
            { x with watch := .exceeded, watchTimer := some (max s.ctx.now d + 3 * capGrace s.ctx) })).slots
          ∧ slotFlag t.units n .capExceeded = true
          ∧ t.units = { s.units with slots := t.units.slots, slotEvents := t.units.slotEvents, touched := [] })
      ∧ ((s.units.slot n).watch = .exceeded → powered (s.units.slot n) = true →
          (t.units.slot n).state = .fault ∧ (t.units.slot n).faultReason = some .capViolation ∧ (t.units.slot n).mainEn = false
            ∧ (t.units.slot n).allowance = 0 ∧ slotFlag t.units n .fault = true ∧ chassisFlag t.units .slotFault = true
            ∧ Frame s.units t.units ∧ OthersStay n s.units t.units)

/-- SHED_DELAY_EXPIRY (R71 to R73): with a planned deficit left, the first candidate is shed: quiesced for SHED if ON, cut if CHARGING, with
SHED and LOAD_SHED set. -/
def Obligations.ShedDelayShedsTheFirstCandidate : Prop :=
  ∀ (s : State) (n : Fin 12) (rest : List (Fin 12)) (d : Nat), s.units.shedTimer = some d →
    shedCandidates s.ctx s.units = n :: rest → 0 < plannedDeficit s.ctx s.units →
    ∃ t, exec .shedDelayExpiry s = .next t ∧ t.ctx = atDeadline s.ctx d ∧ SameOutside s t ∧ Frame s.units t.units
      ∧ slotFlag t.units n .shed = true ∧ chassisFlag t.units .loadShed = true
      ∧ ((s.units.slot n).state = .charging → (t.units.slot n).state = .settling ∧ (t.units.slot n).mainEn = false
          ∧ (t.units.slot n).allowance = 0)
      ∧ ((s.units.slot n).state = .on → (s.units.emergency = true ∨ allSuppliesLost s.units = false) →
          (t.units.slot n).state = .quiescing ∧ (t.units.slot n).qReason = some .shed
            ∧ (t.units.slot n).qTimer = some (max s.ctx.now d + quiesceTime s.ctx n)
            ∧ (t.units.slot n).allowance = (s.units.slot n).allowance)
      ∧ (∀ m, dark (s.units.slot m) = true → t.units.slot m = s.units.slot m)

/-- SENSE_CONVERSION (R78, R92, R93): in its turn, a slot with its main enable asserted takes the count as its newest sample in watts and the
cap watch compares the new average; with the enable off the conversion is discarded. -/
def Obligations.SampleEntersTheRing : Prop :=
  ∀ (s : State) (n : Fin 12) (count : BitVec 10), s.ctx.pins.sampled = true → s.units.senseNext = n →
    ∃ t, exec (.senseConversion n count) s = .next t ∧ t.ctx = s.ctx ∧ SameOutside s t ∧ t.units.senseNext = n + 1
      ∧ (∀ m, m ≠ n → t.units.slot m = s.units.slot m)
      ∧ t.units = { s.units with slots := t.units.slots, senseNext := t.units.senseNext, touched := [] }
      ∧ ((s.units.slot n).mainEn = false → t.units.slots = s.units.slots)
      ∧ ((s.units.slot n).mainEn = true → (s.units.slot n).settled = true →
          (t.units.slot n).ring = (s.units.slot n).ring.tail ++ [count.toNat]
            ∧ drawAverage (t.units.slot n) = ((s.units.slot n).ring.tail ++ [count.toNat]).sum / 8
            ∧ (t.units.slot n).state = (s.units.slot n).state ∧ (t.units.slot n).allowance = (s.units.slot n).allowance
            ∧ ((s.units.slot n).state = .on → s.ctx.sup.mode ≠ .startup →
                (if (s.units.slot n).allowance * (100 + capMargin s.ctx) / 100 < drawAverage (t.units.slot n) then
                  ((s.units.slot n).watch = .clear →
                    (t.units.slot n).watch = .over ∧ (t.units.slot n).watchTimer = some (s.ctx.now + capGrace s.ctx))
                else (t.units.slot n).watch = .clear ∧ (t.units.slot n).watchTimer = none)))

/-! ### Modules and supplies (R35 to R45) -/

/-- MODULE_ARRIVAL and MODULE_LOSS (R35, R36, R39, R120): the position is UNREAD with the insertion counted and an identity read waits or
runs; or it is ABSENT, its waiting read is gone, and a read in flight is discarded; the output of a fan that has left is inactive from then
on, and the generators of the fans that are there go on. -/
def Obligations.ModulePresenceSetsTheEntry : Prop :=
  (∀ (s : State) (b : Fin 14) (d : Nat), Waits s (.bay b) true d →
      ∃ t, exec (.moduleArrival b) s = .next t ∧ t.ctx = Shown s (.bay b) true d ∧ SameOutside s t
        ∧ (t.units.inv.get (bayPos b)).state = .unread ∧ (t.units.inv.get (bayPos b)).reason = .none
        ∧ (t.units.inv.get (bayPos b)).inserts = min 65535 ((s.units.inv.get (bayPos b)).inserts + 1)
        ∧ (BusItem.read b ∈ t.units.busQueue ∨ t.units.busOp = some (.read b 1 none false))
        ∧ (∀ i, i ≠ bayPos b → (s.units.inv.get i).state ≠ .duplicate → t.units.inv.get i = s.units.inv.get i)
        ∧ t.units.sensors = s.units.sensors ∧ t.units.xbar = s.units.xbar ∧ t.units.linkErr = s.units.linkErr)
    ∧ (∀ (s : State) (b : Fin 14) (d : Nat), Waits s (.bay b) false d →
      ∃ t, exec (.moduleLoss b) s = .next t ∧ t.ctx = Shown s (.bay b) false d ∧ SameOutside s { t with pwm := s.pwm }
        ∧ (∀ f, b = fanBay f → (t.units.fans.get f).state = .absent
            ∧ ∀ i k, t.pwm.output f i k = (s.pwm.running && s.pwm.polarity.testBit f.val))
        ∧ (∀ f, (t.units.fans.get f).state ≠ .absent → ∀ i k, t.pwm.output f i k = s.pwm.output f i k)
        ∧ (t.units.inv.get (bayPos b)).state = .absent ∧ (t.units.inv.get (bayPos b)).reason = .none
        ∧ (t.units.inv.get (bayPos b)).inserts = (s.units.inv.get (bayPos b)).inserts
        ∧ BusItem.read b ∉ t.units.busQueue
        ∧ (∀ a, s.units.busOp = some (.read b a none false) → t.units.busOp = some (.read b a none true))
        ∧ (∀ k, b = supplyBay k → (t.units.supplies.get k).state = .absent ∧ (t.units.supplies.get k).counted = 0)
        ∧ (∀ i, i ≠ bayPos b → (s.units.inv.get i).state ≠ .duplicate → t.units.inv.get i = s.units.inv.get i)
        ∧ t.units.sensors = s.units.sensors ∧ t.units.xbar = s.units.xbar ∧ t.units.linkErr = s.units.linkErr)

/-- PSU_OK_LOSS and PSU_OK_RETURN (R43 to R45): a read supply turns FAILED with SUPPLY_FAIL and counts 0 W, or OK with SUPPLY_RETURN and
counts the capacity of its VALID identity; the other supplies stay. R46: under N1 the raw capacity is still there when any one supply is taken
away; under FEED each feed has it alone; the usable power is the derated raw capacity. -/
def Obligations.SupplyStateFollowsItsOkLine : Prop :=
  (∀ (s : State) (k : Fin 4) (d : Nat), bayLevel s.ctx (supplyBay k) = true →
    (s.units.inv.get (bayPos (supplyBay k))).state ∈ [EntryState.valid, .invalid, .duplicate] →
    (Waits s (.psuOk k) false d → (s.units.supplies.get k).state = .ok →
      ∃ t, exec (.psuOkLoss k) s = .next t ∧ t.ctx = Shown s (.psuOk k) false d ∧ SameOutside s t
        ∧ (t.units.supplies.get k).state = .failed ∧ (t.units.supplies.get k).counted = 0 ∧ chassisFlag t.units .supplyFail = true
        ∧ (∀ j, j ≠ k → t.units.supplies.get j = s.units.supplies.get j) ∧ Frame { s.units with supplies := t.units.supplies } t.units
        ∧ (∀ m, dark (s.units.slot m) = true → t.units.slot m = s.units.slot m))
    ∧ (Waits s (.psuOk k) true d → (s.units.supplies.get k).state = .failed →
      ∃ t, exec (.psuOkReturn k) s = .next t ∧ t.ctx = Shown s (.psuOk k) true d ∧ SameOutside s t
        ∧ (t.units.supplies.get k).state = .ok ∧ chassisFlag t.units .supplyReturn = true
        ∧ (t.units.supplies.get k).counted = supplyCapacity (s.units.inv.get (bayPos (supplyBay k)))
        ∧ (∀ j, j ≠ k → t.units.supplies.get j = s.units.supplies.get j) ∧ Frame { s.units with supplies := t.units.supplies } t.units
        ∧ (∀ m, dark (s.units.slot m) = true → t.units.slot m = s.units.slot m)))
    ∧ ∀ (c : Ctx) (u : Units),
    (policy c = 1 → ∀ k, rawCapacity c u ≤ okCapacity u (fun j => j != k))
      ∧ (policy c = 2 → rawCapacity c u ≤ okCapacity u onFeedA ∧ rawCapacity c u ≤ okCapacity u (fun k => !onFeedA k))
      ∧ (policy c = 0 → rawCapacity c u = okCapacity u (fun _ => true))
      ∧ usable c u = rawCapacity c u * derate c / 100

/-- IDENTITY_READ_ATTEMPT_END and RETRY_DELAY_EXPIRY (R37 to R39): a failed first or second attempt of a read that is not discarded waits
10 ms, and then the next attempt starts, three in all; a third ends the read INVALID with its reason; 32 bytes that pass make the entry VALID
with their identity when no VALID entry has the key, DUPLICATE when one has; the end of a discarded read's attempt ends the read. -/
def Obligations.IdentityReadHasThreeAttempts : Prop :=
  (∀ (s : State) (b : Fin 14) (attempt : Nat) (result : AttemptResult), s.units.busOp = some (.read b attempt none false) →
      attempt < 3 → attemptOk result = none →
      ∃ t, exec (.identityReadAttemptEnd result) s = .next t ∧ t.ctx = s.ctx ∧ SameOutside s t
        ∧ t.units = { s.units with busOp := some (.read b attempt (some (s.ctx.now + 10)) false), touched := [] })
    ∧ (∀ (s : State) (b : Fin 14) (attempt d : Nat), s.units.busOp = some (.read b attempt (some d) false) → attempt < 3 →
      ∃ t, exec .retryDelayExpiry s = .next t ∧ t.ctx = atDeadline s.ctx d ∧ SameOutside s t
        ∧ t.units = { s.units with busOp := some (.read b (attempt + 1) none false), touched := [] })
    ∧ (∀ (s : State) (b : Fin 14) (attempt : Nat) (result : AttemptResult), s.units.busOp = some (.read b attempt none true) →
      ∃ t, exec (.identityReadAttemptEnd result) s = .next t ∧ t.ctx = s.ctx ∧ SameOutside s t ∧ t.units.inv = s.units.inv
        ∧ t.units = { s.units with busQueue := t.units.busQueue, busOp := t.units.busOp, touched := [] }
        ∧ (s.units.busQueue = [] → t.units.busOp = none))
    ∧ (∀ (s : State) (b : Fin 14) (result : AttemptResult), s.units.busOp = some (.read b 3 none false) → attemptOk result = none →
      ∃ t, exec (.identityReadAttemptEnd result) s = .next t ∧ t.ctx = s.ctx ∧ SameOutside s t
        ∧ (t.units.inv.get (bayPos b)).state = .invalid
        ∧ (t.units.inv.get (bayPos b)).reason = (match result with | .bytes _ => .badCrc | _ => .unreadable)
        ∧ (result = .noAcknowledge ∨ result = .incomplete → chassisFlag t.units .moduleBusFault = true)
        ∧ (s.units.busQueue = [] → t.units.busOp = none))
    ∧ (∀ (s : State) (b : Fin 14) (attempt : Nat) (data : List Byte) (id : Ident), s.units.busOp = some (.read b attempt none false) →
      attemptOk (.bytes data) = some data → validateModule (bayPos b) data = .ok id →
      ∃ t, exec (.identityReadAttemptEnd (.bytes data)) s = .next t ∧ t.ctx = s.ctx ∧ SameOutside s t
        ∧ (t.units.inv.get (bayPos b)).state = (if keyTaken s.units (bayPos b) id then .duplicate else .valid)
        ∧ (t.units.inv.get (bayPos b)).ident = id
        ∧ (t.units.inv.get (bayPos b)).reason = .none
        ∧ (s.units.busQueue = [] → t.units.busOp = none))

/-! ### Thermal unit and fans (R98 to R125) -/

/-- REPORT_AGE_TIMEOUT (R100): the slot holds the stale mark, and REPORT_STALE is set in both words. -/
def Obligations.OverdueReportGoesStale : Prop :=
  ∀ (s : State) (n : Fin 12) (since : Nat), (s.units.slot n).state = .on → (s.units.slot n).stale = false →
    (s.units.slot n).ageStart = some since →
    ∃ t, exec (.reportAgeTimeout n) s = .next t ∧ t.ctx = atDeadline s.ctx (since + reportTimeout s.ctx) ∧ SameOutside s t
      ∧ t.units.slots = (s.units.updSlot n (fun x => { x with stale := true })).slots
      ∧ slotFlag t.units n .reportStale = true ∧ chassisFlag t.units .reportStale = true
      ∧ (∀ b, slotFlag s.units n b = true → slotFlag t.units n b = true)
      ∧ t.units = { s.units with
          slots := t.units.slots, slotEvents := t.units.slotEvents, chassisEvent := t.units.chassisEvent, touched := [] }

/-- POLL_TIMER_EXPIRY and SENSOR_POLL_END (R36, R104): a poll of every sensor waits or runs, and the timer starts again; the end of a poll
gives the value or counts the failure, the third in a row setting the stale mark and SENSOR_STALE. -/
def Obligations.SensorsArePolled : Prop :=
  (∀ (s : State) (d : Nat), s.units.pollTimer = some d →
      ∃ t, exec .pollTimerExpiry s = .next t ∧ t.ctx = atDeadline s.ctx d ∧ SameOutside s t
        ∧ t.units.pollTimer = some (max s.ctx.now d + 1000)
        ∧ t.units = { s.units with
            busQueue := t.units.busQueue, busOp := t.units.busOp, pollTimer := t.units.pollTimer, touched := [] }
        ∧ (∀ k, BusItem.poll k ∈ t.units.busQueue ∨ t.units.busOp = some (.poll k))
        ∧ (∀ op, s.units.busOp = some op → (∀ k, BusItem.poll k ∉ s.units.busQueue) →
            t.units.busQueue = s.units.busQueue ++ [.poll 0, .poll 1, .poll 2, .poll 3]))
    ∧ (∀ (s : State) (k : Fin 4) (value : Option (BitVec 8)), s.units.busOp = some (.poll k) →
      ∃ t, exec (.sensorPollEnd value) s = .next t ∧ t.ctx = s.ctx ∧ SameOutside s t
        ∧ (∀ b : BitVec 8, value = some b → -40 ≤ b.toInt →
            t.units.sensors.get k = { value := some b.toInt, fails := 0, stale := false })
        ∧ ((∀ b : BitVec 8, value = some b → b.toInt < -40) →
            t.units.sensors.get k = { s.units.sensors.get k with
              fails := min 3 ((s.units.sensors.get k).fails + 1),
              stale := (s.units.sensors.get k).stale || decide (3 ≤ (s.units.sensors.get k).fails + 1) }
            ∧ (2 ≤ (s.units.sensors.get k).fails → (s.units.sensors.get k).stale = false → chassisFlag t.units .sensorStale = true))
        ∧ (∀ j, j ≠ k → t.units.sensors.get j = s.units.sensors.get j)
        ∧ t.units = { s.units with
            sensors := t.units.sensors, chassisEvent := t.units.chassisEvent, busQueue := t.units.busQueue, busOp := t.units.busOp,
            touched := [] }
        ∧ (s.units.busQueue = [] → t.units.busOp = none))

/-- SAMPLE_TIMER_EXPIRY (R106, R107): with neither monitor held, the one that the mark names is compared, the mark moves to the other, and
the timer starts again; a comparison whose condition holds with alert set holds the monitor and sets ZONE_ALARM. R105: the zone temperature is
the largest value of the zone's members that are current, or none when there is none; it is formed at each comparison, and the zone record
shows that of the latest. -/
def Obligations.ZoneSampleComparesTheMarkedMonitor : Prop :=
  (∀ (s : State) (z : Fin 3) (d : Nat), (s.units.zones.get z).sampTimer = some d →
    ∃ t, exec (.sampleTimerExpiry z) s = .next t ∧ t.ctx = atDeadline s.ctx d ∧ SameOutside s t
      ∧ (t.units.zones.get z).sampTimer = some (max s.ctx.now d + sampleInterval s.ctx z)
      ∧ (∀ y, y ≠ z → t.units.zones.get y = s.units.zones.get y)
      ∧ t.units = { s.units with zones := t.units.zones, chassisEvent := t.units.chassisEvent, touched := [] }
      ∧ (t.units.zones.get z).duty = (s.units.zones.get z).duty
      ∧ ((s.units.zones.get z).monA.held = true → (s.units.zones.get z).monB.held = true →
          (t.units.zones.get z).monA = (s.units.zones.get z).monA ∧ (t.units.zones.get z).monB = (s.units.zones.get z).monB
            ∧ (t.units.zones.get z).markB = (s.units.zones.get z).markB)
      ∧ ((s.units.zones.get z).monA.held = false → (s.units.zones.get z).monB.held = false →
          (t.units.zones.get z).markB = !(s.units.zones.get z).markB
            ∧ (t.units.zones.get z).temp = zoneTemp s.ctx s.units z
            ∧ (let b := (s.units.zones.get z).markB
               let m := getMon (t.units.zones.get z) b
               getMon (t.units.zones.get z) (!b) = getMon (s.units.zones.get z) (!b)
                ∧ (zoneTemp s.ctx s.units z = none → m = { valid := false, result := false, held := false })
                ∧ (∀ T, zoneTemp s.ctx s.units z = some T →
                    m.valid = true
                      ∧ (m.result = true ↔ if monBelow s.ctx z b then T < monThreshold s.ctx z b else monThreshold s.ctx z b < T)
                      ∧ m.held = (m.result && monAlert s.ctx z b)
                      ∧ (m.held = true → chassisFlag t.units .zoneAlarm = true)))))
    ∧ ∀ (c : Ctx) (u : Units) (z : Fin 3),
    let gives := fun t : Int =>
      (∃ n, slotInZone c n z = true ∧ powered (u.slot n) = true ∧ (u.slot n).stale = false ∧ (u.slot n).zoneInput = some t)
        ∨ (∃ k, sensorInZone c k z = true ∧ (u.sensors.get k).stale = false ∧ (u.sensors.get k).value = some t)
    (∀ t, zoneTemp c u z = some t ↔ gives t ∧ ∀ t', gives t' → t' ≤ t)
      ∧ (zoneTemp c u z = none ↔ ∀ t, ¬ gives t)
      ∧ (∀ b, ((compareZone c z b u).zones.get z).temp = zoneTemp c u z)
      ∧ (recBytes c u (.zone z)).getD 10 0 = tempByte (u.zones.get z).temp

/-- UPDATE_TIMER_EXPIRY (R112, R116, R117, R125): the target is the compensated demand within its limits; the duty rises to it at once and
falls by at most the slew; the estimate is that of the fans that count at the new duty; the timer starts again. -/
def Obligations.ZoneUpdateSlewsTheDuty : Prop :=
  ∀ (s : State) (z : Fin 3) (d : Nat), (s.units.zones.get z).updTimer = some d →
    ∃ t, exec (.updateTimerExpiry z) s = .next t ∧ t.ctx = atDeadline s.ctx d ∧ SameOutside s t
      ∧ (let old := s.units.zones.get z
         let new := t.units.zones.get z
         new.updTimer = some (max s.ctx.now d + updatePeriod s.ctx z)
          ∧ new.raw = rawDemand s.ctx s.units z
          ∧ new.target = min 1000 (max (lowerLimit s.ctx z) (if fanShort s.units z then
              min 1000 ((new.raw * compensation s.ctx z + 99) / 100) else new.raw))
          ∧ new.duty = (if old.duty ≤ new.target then new.target else max new.target (old.duty - slewDown s.ctx z))
          ∧ new.estimate = ((zoneFans z).map (fun f => if fanCounts (s.units.fans.get f) then
              fanPower (s.units.fans.get f).rated new.duty else 0)).sum)
      ∧ (∀ y, y ≠ z → t.units.zones.get y = s.units.zones.get y) ∧ Frame { s.units with zones := t.units.zones } t.units
      ∧ (∀ m, dark (s.units.slot m) = true → t.units.slot m = s.units.slot m)

/-- TACH_PULSE and TACH_GATE_CLOSE (R122, R123): a pulse counts while a gate is open, to 1023; the close of a gate gives the fan its pulses,
and a fan present through the gate at a duty of at least 200 is judged: the third low gate in a row makes it FAILED, the third good one
clears the verdict. The next gate opens. -/
def Obligations.TachGateJudgesTheFans : Prop :=
  (∀ (s : State) (f : Fin 6) (d : Nat), s.units.gateTimer = some d →
      ∃ t, exec (.tachPulse f) s = .next t ∧ t.ctx = s.ctx ∧ SameOutside s t
        ∧ t.units = (s.units.updFan f (fun x => { x with count := min 1023 (x.count + 1) })).settled)
    ∧ (∀ (s : State) (d : Nat), s.units.gateTimer = some d →
      ∃ t, exec .tachGateClose s = .next t ∧ t.ctx = atDeadline s.ctx d ∧ SameOutside s t
        ∧ t.units.gateTimer = some (max s.ctx.now d + 1000)
        ∧ (∀ f, (s.units.fans.get f).whole = true → (s.units.fans.get f).state ≠ .absent →
            bayLevel s.ctx (fanBay f) = true →
            (t.units.fans.get f).pulses = (s.units.fans.get f).count ∧ (t.units.fans.get f).count = 0
            ∧ (t.units.fans.get f).whole = true
            ∧ ((s.units.zones.get (fanZone f)).gateOk = true →
                (if (s.units.fans.get f).count * 30 < minRpm s.ctx then
                  (t.units.fans.get f).lowRun = min 3 ((s.units.fans.get f).lowRun + 1) ∧ (t.units.fans.get f).highRun = 0
                    ∧ ((t.units.fans.get f).verdictFailed = true ↔
                        (s.units.fans.get f).verdictFailed = true ∨ 2 ≤ (s.units.fans.get f).lowRun)
                    ∧ ((s.units.fans.get f).verdictFailed = false → 2 ≤ (s.units.fans.get f).lowRun →
                        (t.units.fans.get f).state = .failed ∧ chassisFlag t.units .fanFault = true)
                else
                  (t.units.fans.get f).highRun = min 3 ((s.units.fans.get f).highRun + 1) ∧ (t.units.fans.get f).lowRun = 0
                    ∧ ((t.units.fans.get f).verdictFailed = true ↔
                        (s.units.fans.get f).verdictFailed = true ∧ (s.units.fans.get f).highRun < 2))))
        ∧ (∀ f, (s.units.fans.get f).state = .absent →
            (t.units.fans.get f).pulses = 0 ∧ (t.units.fans.get f).lowRun = 0 ∧ (t.units.fans.get f).highRun = 0)
        ∧ Frame { s.units with zones := t.units.zones, fans := t.units.fans, gateTimer := t.units.gateTimer } t.units
        ∧ (∀ m, dark (s.units.slot m) = true → t.units.slot m = s.units.slot m))

/-- GROUP_START (R118 to R121): with the rows loaded, each present fan's generator makes its zone's duty to a quarter count over the four
periods, high times never above the period; an absent fan's output is inactive; at duty 1000 the output stays active, at 0 inactive. -/
def Obligations.DitherGroupMakesTheDuty : Prop :=
  ∀ s : State, s.ctx.sup.phase ≠ .deviceId → s.ctx.sup.phase ≠ .rows → s.ctx.pins.sampled = true →
    ∃ t, exec .groupStart s = .next t ∧ t.ctx = s.ctx ∧ t.units = s.units.settled ∧ t.mem = s.mem ∧ t.wq = s.wq ∧ t.links = s.links
      ∧ t.pwm.running = true ∧ t.pwm.upper = wordAt (s.ctx.cfg.rows.get 23) 2 ∧ t.pwm.prescaler = byteAt (s.ctx.cfg.rows.get 23) 0
      ∧ t.pwm.divider = byteAt (s.ctx.cfg.rows.get 23) 1 ∧ t.pwm.polarity = byteAt (s.ctx.cfg.rows.get 23) 4
      ∧ (∀ f, (s.units.fans.get f).state ≠ .absent →
          (let g := t.pwm.gens.get f
           let duty := (s.units.zones.get (fanZone f)).duty
           g.highTime 0 + g.highTime 1 + g.highTime 2 + g.highTime 3 = duty * (t.pwm.upper + 1) * 4 / 1000
            ∧ g.highTime 3 ≤ g.highTime 1 ∧ g.highTime 1 ≤ g.highTime 2 ∧ g.highTime 2 ≤ g.highTime 0 ∧ g.highTime 0 ≤ g.highTime 3 + 1
            ∧ (duty ≤ 1000 → ∀ i, g.highTime i ≤ t.pwm.upper + 1)
            ∧ (duty = 1000 → ∀ i, ∀ k ≤ t.pwm.upper, t.pwm.output f i k = !t.pwm.polarity.testBit f.val)
            ∧ (duty = 0 → ∀ i k, t.pwm.output f i k = t.pwm.polarity.testBit f.val)))
      ∧ (∀ f, (s.units.fans.get f).state = .absent → ∀ i k, t.pwm.output f i k = t.pwm.polarity.testBit f.val)

/-! ### Uplinks (R129 to R144) -/

/-- UPL_LINK_FALL and UPL_LINK_RISE (R129): a port with a VALID entry follows its debounced link level, and its fall sets UPLINK_DOWN. -/
def Obligations.PortStateFollowsItsLink : Prop :=
  ∀ (s : State) (p : Fin 4) (d : Nat), (s.units.inv.get (bayPos (uplinkBay p))).state = .valid →
    (Waits s (.uplLink p) false d → (s.units.ports.get p).state = .up →
      ∃ t, exec (.uplLinkFall p) s = .next t ∧ t.ctx = Shown s (.uplLink p) false d ∧ SameOutside s t ∧ Frame { s.units with
          ports := t.units.ports } t.units
        ∧ (t.units.ports.get p).state = .down ∧ chassisFlag t.units .uplinkDown = true
        ∧ (∀ q, q ≠ p → (t.units.ports.get q).state = (s.units.ports.get q).state)
        ∧ (∀ m, dark (s.units.slot m) = true → t.units.slot m = s.units.slot m))
    ∧ (Waits s (.uplLink p) true d → (s.units.ports.get p).state = .down →
      ∃ t, exec (.uplLinkRise p) s = .next t ∧ t.ctx = Shown s (.uplLink p) true d ∧ SameOutside s t ∧ Frame { s.units with
          ports := t.units.ports } t.units
        ∧ (t.units.ports.get p).state = .up
        ∧ (∀ q, q ≠ p → (t.units.ports.get q).state = (s.units.ports.get q).state)
        ∧ (∀ m, dark (s.units.slot m) = true → t.units.slot m = s.units.slot m))

/-- DRAIN_TIMER_EXPIRY and CROSSBAR_ACKNOWLEDGE (R137 to R139): a drained channel's DISCONNECT is sent, or waits behind the command in
flight; the acknowledge of a CONNECT for a SWITCHING channel of an UP port makes it ASSIGNED, and the crossbar holds that connection alone
for the slot's lane (with no earlier command that it may yet carry out, which is the model's: log 33); with no command in flight the part
ignores an acknowledge. -/
def Obligations.CrossbarCommandsFollowTheChannel : Prop :=
  (∀ (s : State) (ch : Fin 32) (d : Nat), (s.units.chans.get ch).drain = some d → (s.units.chans.get ch).state = .draining →
      ∃ t, exec (.drainTimerExpiry ch) s = .next t ∧ t.ctx = atDeadline s.ctx d ∧ SameOutside s t
        ∧ t.units.chans.get ch = { s.units.chans.get ch with cmd := .disconnect, drain := none }
        ∧ (∀ x, x ≠ ch → t.units.chans.get x = s.units.chans.get x)
        ∧ t.units = { s.units with
            chans := t.units.chans, chanGen := t.units.chanGen, xq := t.units.xq, xFlight := t.units.xFlight, touched := [] }
        ∧ (∀ f, s.units.xFlight = some f → t.units.xFlight = some f ∧ t.units.xq = s.units.xq ++ [.disconnect ch])
        ∧ (s.units.xFlight = none → s.units.xq = [] → t.units.xq = []
            ∧ t.units.xFlight = some { cmd := .disconnect ch, deadline := max s.ctx.now d + 20, ignored := false }))
    ∧ (∀ (s : State) (ch : Fin 32) (n : Fin 12) (k : Fin 4) (deadline : Nat),
      s.units.xFlight = some { cmd := .connect ch n k, deadline := deadline, ignored := false } →
      (s.units.chans.get ch).state = .switching → (s.units.ports.get (portOf ch)).state = .up →
      ∃ t, exec .crossbarAcknowledge s = .next t ∧ t.ctx = s.ctx ∧ SameOutside s t
        ∧ t.units.chans.get ch = { s.units.chans.get ch with cmd := .none, state := .assigned }
        ∧ (∀ x, x ≠ ch → t.units.chans.get x = s.units.chans.get x)
        ∧ t.units = { s.units with
            chans := t.units.chans, chanGen := t.units.chanGen, xq := t.units.xq, xFlight := t.units.xFlight, xbar := t.units.xbar,
            xLate := t.units.xLate, xChances := t.units.xChances, touched := [] }
        ∧ t.units.xbar.get ch = some (n, k)
        ∧ (s.units.xLate = [] →
            ∀ x, x ≠ ch → t.units.xbar.get x = if s.units.xbar.get x = some (n, k) then none else s.units.xbar.get x)
        ∧ (s.units.xq = [] → t.units.xFlight = none)
        ∧ (∀ next rest, s.units.xq = next :: rest → t.units.xq = rest
            ∧ t.units.xFlight = some { cmd := next, deadline := s.ctx.now + 20, ignored := false }))
    ∧ (∀ s : State, s.units.xFlight = none → ∃ t, exec .crossbarAcknowledge s = .next t ∧ t.ctx = s.ctx ∧ SameOutside s t
        ∧ t.units = { s.units with xbar := t.units.xbar, xLate := t.units.xLate, xChances := t.units.xChances, touched := [] }
        ∧ (s.units.xLate = [] → t.units = s.units.settled))

/-- CROSSBAR_COMMAND_TIMEOUT (R137, R138): CROSSBAR_TIMEOUT is set, and a SWITCHING channel whose CONNECT timed out is FAULTED without a
holder; whether the crossbar had made the change is not known to the part (the operand: log 4), and if it had not it may yet make it
(log 33). -/
def Obligations.CrossbarTimeoutFaultsTheChannel : Prop :=
  ∀ (s : State) (ch : Fin 32) (n : Fin 12) (k : Fin 4) (deadline : Nat) (carriedOut : Bool),
    s.units.xFlight = some { cmd := .connect ch n k, deadline := deadline, ignored := false } →
    (s.units.chans.get ch).state = .switching →
    ∃ t, exec (.crossbarCommandTimeout carriedOut) s = .next t ∧ t.ctx = atDeadline s.ctx deadline ∧ SameOutside s t
      ∧ chassisFlag t.units .crossbarTimeout = true
      ∧ (t.units.chans.get ch).state = .faulted ∧ (t.units.chans.get ch).held = none ∧ (t.units.chans.get ch).cmd = .none
      ∧ (s.units.xLate = [] →
          t.units.xbar = (if carriedOut then crossbarDo (.connect ch n k) s.units.xbar else s.units.xbar)
            ∧ t.units.xLate = (if carriedOut then [] else [.connect ch n k]))
      ∧ Frame { s.units with xbar := t.units.xbar, xLate := t.units.xLate, xChances := t.units.xChances } t.units

/-! ### Supervision and audit (R174 to R176) -/

/-- HEARTBEAT_TIMER_EXPIRY (R116, R175, R176): the timer stops, the served mark is cleared and HEARTBEAT_LATE set; from NORMAL the mode
becomes FAILSAFE with its bit, and every zone takes at least its lower limit; in FAILSAFE nothing else happens. -/
def Obligations.LostHeartbeatEntersFailsafe : Prop :=
  ∀ (s : State) (d : Nat), s.ctx.sup.hbTimer = some d →
    ∃ t, exec .heartbeatTimerExpiry s = .next t ∧ t.ctx.now = max s.ctx.now d ∧ t.ctx.sup.hbTimer = none ∧ t.ctx.sup.served = false
      ∧ t.ctx.sup.hbValue = s.ctx.sup.hbValue ∧ chassisFlag t.units .heartbeatLate = true
      ∧ t.ctx.cfg = s.ctx.cfg ∧ t.ctx.pins = s.ctx.pins ∧ t.links = s.links ∧ t.wq = s.wq ∧ t.mem = s.mem
      ∧ (s.ctx.sup.mode = .normal → t.ctx.sup.mode = .failsafe ∧ chassisFlag t.units .failsafe = true
          ∧ (∀ z, max (zoneFloor s.ctx z) (failsafeDuty s.ctx z) ≤ (t.units.zones.get z).duty)
          ∧ Frame { s.units with zones := t.units.zones } t.units
          ∧ (∀ m, dark (s.units.slot m) = true → t.units.slot m = s.units.slot m))
      ∧ (s.ctx.sup.mode = .failsafe → t.ctx.sup.mode = .failsafe
          ∧ t.units = { s.units with chassisEvent := t.units.chassisEvent, touched := [] }
          ∧ chassisFlag t.units .failsafe = chassisFlag s.units .failsafe)

/-! ### Rules of the units -/

/-- R56: restoration, the queue scan and the port enables they lead to never spend more than the headroom there is. R58: a pass of the queue
scan grants the first entry that fits, unless an entry before it has been gone past as often as max skips allows. -/
def Obligations.GrantsFollowTheQueueWithinHeadroom : Prop :=
  (∀ (c : Ctx) (u : Units), 0 ≤ headroom c u → 0 ≤ headroom c (restoreAndScan c u))
    ∧ ∀ (fits : WaitEntry → Bool) (skips : Nat) (q gone rest : List WaitEntry) (e : WaitEntry),
    findGrant fits skips [] q = some (gone, e, rest) ↔
      q = gone ++ e :: rest ∧ fits e = true ∧ ∀ x ∈ gone, fits x = false ∧ x.skips < skips

/-- R8 to R11: a power request meets the tests in their order and the first that decides gives its outcome, with nothing changed; a taken
request acts by its kind and the slot's state. That a request whose watts cannot be clamped is left to test 7 is the model's reading (log 12).
R9: the clamped watts lie in the blade's range and under a slot cap that is not 0, and equal the requested watts when these do already; no value
exists exactly when the cap lies below the blade's minimum. -/
def Obligations.PowerRequestsAreJudgedInOrder : Prop :=
  (∀ (c : Ctx) (n : Fin 12) (u : Units) (w : Nat), minPower u n ≤ maxPower u n →
      (clampWatts c n u w = none ↔ slotCap c n ≠ 0 ∧ slotCap c n < minPower u n)
        ∧ ∀ w', clampWatts c n u w = some w' →
            minPower u n ≤ w' ∧ w' ≤ maxPower u n ∧ (slotCap c n ≠ 0 → w' ≤ slotCap c n)
              ∧ (minPower u n ≤ w → w ≤ maxPower u n → (slotCap c n = 0 ∨ w ≤ slotCap c n) → w' = w))
    ∧ ∀ (c : Ctx) (n : Fin 12) (u : Units) (bs : List Byte),
      let kind := byteAt bs 0
      let asked := wordAt bs 1
      let x := u.slot n
      let r := takePower c n bs u
      let y := r.2.slot n
      let off := y.state = .settling ∧ y.mainEn = false ∧ y.grant = 0 ∧ y.allowance = 0 ∧ y.settleTimer = some (c.now + 500)
        ∧ hasWait r.2 n = false
      if kind = 0 ∨ 3 < kind then r = (.refusedFormat, u)
      else if held c n = true then r = (.refusedHeld, u)
      else if presLLevel c n = true ∧ leverClosed c n = false then r = (.refusedLever, u)
      else if x.state ∈ [SlotState.empty, .seating, .standby, .settling, .fault] then r = (.refusedState, u)
      else if (x.state = .identified ∧ kind = 2) ∨ ((x.state = .charging ∨ x.state = .quiescing) ∧ kind ≠ 3) then r = (.refusedState, u)
      else (∀ m, m ≠ n → r.2.slot m = u.slot m)
        ∧ (if kind = 3 then
            r.1 = .accepted ∧ (x.state = .identified → r.2 = u) ∧ (x.state = .waitPower → y.state = .identified ∧ hasWait r.2 n = false)
              ∧ (powered x = true → off)
          else match clampWatts c n u asked with
            | none => r = (.refusedCap, u)
            | some w =>
              if (x.state ≠ .on ∨ x.grant < w) ∧ bladeValid u n = false then r = (.refusedIdentity, u)
              else r.1 = (if w = asked then .accepted else .clamped) ∧ y.lastReq = some w
                ∧ (x.state = .identified → y.state = .waitPower
                    ∧ ∃ e ∈ r.2.waitQ, e.slot = n ∧ e.watts = w ∧ e.isRaise = false ∧ e.skips = 0 ∧ e.cls = slotClass c n)
                ∧ (x.state = .waitPower → y.state = .waitPower
                    ∧ r.2.waitQ = u.waitQ.map (fun e => if e.slot = n then { e with watts := w } else e))
                ∧ (x.state = .on → y.state = .on ∧ y.mainEn = x.mainEn
                    ∧ (x.grant < w → y.grant = x.grant ∧ y.allowance = x.allowance
                        ∧ (if hasWait u n then
                            r.2.waitQ = u.waitQ.map (fun e => if e.slot = n then { e with watts := w - x.grant } else e)
                          else ∃ e ∈ r.2.waitQ, e.slot = n ∧ e.watts = w - x.grant ∧ e.isRaise = true ∧ e.skips = 0))
                    ∧ (w = x.grant → y.grant = x.grant ∧ y.allowance = x.allowance ∧ hasWait r.2 n = false)
                    ∧ (w < x.grant → y.grant = w ∧ y.allowance = min x.allowance w ∧ hasWait r.2 n = false
                        ∧ r.2.capped = (if w ≤ x.allowance then u.capped.filter (· != n) else u.capped))))

/-- R6, R32, R33: an identity record is validated in STANDBY and IDENTIFIED alone, and its result sets entry, slot state and outcome. R132 to
R134: a claim meets its tests in order; a taken one sets group and count, releases the active channels that are too many from the highest places
down, or adds some, and the slot waits exactly while channels are pending. R19, R20: a quiesce answer ends the quiesce, extends it, or is refused
or STALE. -/
def Obligations.BladeRecordsFollowTheirRules : Prop :=
  (∀ (bs : List Byte) (id : Ident), validateBlade bs = .ok id → ∃ maxP minP trip cls lanes, id.vals = .blade maxP minP trip cls lanes
      ∧ 50 ≤ maxP ∧ maxP ≤ 1000 ∧ 20 ≤ minP ∧ minP ≤ maxP ∧ 60 ≤ trip ∧ trip ≤ 120 ∧ cls ≤ 3 ∧ lanes ≤ 4)
    ∧ (∀ (c : Ctx) (n : Fin 12) (bs : List Byte) (u : Units),
      let r := takeIdentity c n bs u
      ((u.slot n).state ≠ .standby → (u.slot n).state ≠ .identified → r = (.refusedState, u))
        ∧ ((u.slot n).state = .standby ∨ (u.slot n).state = .identified →
            (match validateBlade bs with
              | .error why => r.1 = .invalid ∧ (r.2.slot n).state = .standby ∧ (bladeEntry r.2 n).state = .invalid
                  ∧ (bladeEntry r.2 n).reason = why
              | .ok id => (bladeEntry r.2 n).ident = id ∧ (bladeEntry r.2 n).reason = .none
                  ∧ (if keyTaken u (bladePos n) id then
                      r.1 = .duplicate ∧ (r.2.slot n).state = .standby ∧ (bladeEntry r.2 n).state = .duplicate
                    else r.1 = .accepted ∧ (r.2.slot n).state = .identified ∧ (bladeEntry r.2 n).state = .valid))
            ∧ UnpromotedStay n u r.2
            ∧ ∀ i, i ≠ bladePos n → (u.inv.get i).state ≠ .duplicate → r.2.inv.get i = u.inv.get i))
    ∧ (∀ (c : Ctx) (n : Fin 12) (bs : List Byte) (u : Units),
      let r := takeClaim c n bs u
      let count := byteAt bs 0
      let wanted := min count (laneLimit u n)
      (4 < count ∨ 2 < byteAt bs 1 → r = (.refusedFormat, u))
        ∧ (count ≤ 4 → byteAt bs 1 ≤ 2 → (u.slot n).state ≠ .on → r = (.refusedState, u))
        ∧ (count ≤ 4 → byteAt bs 1 ≤ 2 → (u.slot n).state = .on →
            (if (u.slot n).unvalidated = true ∧ activeCount u n < wanted then r = (.refusedIdentity, u)
            else r.1 = (if count ≤ laneLimit u n then .accepted else .clamped) ∧ (r.2.slot n).claimed = wanted
              ∧ groupOf (byteAt bs 1) = some (r.2.slot n).group ∧ (∀ m, m ≠ n → r.2.slot m = u.slot m)
              ∧ (n ∈ r.2.upWait ↔ 0 < pendingCount r.2 n)
              ∧ ((∀ ch ch' p, (u.chans.get ch).held = some p → (u.chans.get ch').held = some p → ch = ch') →
                  activeCount r.2 n ≤ wanted ∧ (activeCount u n ≤ wanted → activeCount u n ≤ activeCount r.2 n)
                  ∧ (wanted ≤ activeCount u n → activeCount r.2 n = wanted)
                  ∧ ∀ ch ch' k k', (u.chans.get ch).held = some (n, k) → (u.chans.get ch').held = some (n, k') → k < k' →
                    isActive (u.chans.get ch) = true → isActive (u.chans.get ch') = true → isActive (r.2.chans.get ch') = true →
                    isActive (r.2.chans.get ch) = true))))
    ∧ ∀ (c : Ctx) (n : Fin 12) (bs : List Byte) (u : Units),
      let r := takeAnswer c n bs u
      let x := u.slot n
      if byteAt bs 1 = 0 ∨ 2 < byteAt bs 1 then r = (.refusedFormat, u)
      else if x.state ≠ .quiescing ∨ x.qNumber.toNat ≠ byteAt bs 0 then r = (.stale, u)
      else if byteAt bs 1 = 1 then
        r.1 = .accepted ∧ (r.2.slot n).state = .settling ∧ (r.2.slot n).mainEn = false ∧ (r.2.slot n).grant = 0
          ∧ (r.2.slot n).settleTimer = some (c.now + 500) ∧ slotFlag r.2 n .quiesceTimeout = slotFlag u n .quiesceTimeout
          ∧ ∀ m, m ≠ n → r.2.slot m = u.slot m
      else if (x.qReason = some .managerOff ∨ x.qReason = some .eject) ∧ x.defers < maxDefers c n then
        r.1 = .accepted ∧ ∀ d, x.qTimer = some d → r.2 = u.updSlot n (fun x =>
          { x with qTimer := some (d + quiesceTime c n), qRemaining := (d + quiesceTime c n - c.now + 99) / 100, defers := x.defers + 1 })
      else r = (.refusedDefer, u)

/-- R13, R15: main enable is on exactly in CHARGING, ON and QUIESCING, the allowance lies between the minimum and the grant there, and both are 0
elsewhere. Every step keeps this, with what it stands on: start-up holds back every grant and every event until the slots are placed or settled
(R27, R177; until then a warm restart's latch may be on). A slot's allowance does not fall below the min operating power of its identity (20 W
without one): it begins at or above it and stays there while that minimum stays. What the budget unit does keeps each slot so in any state. -/
def Obligations.BudgetKeepsSlotPower : Prop :=
  (∀ (c : Ctx) (u : Units), (∀ n, SlotPower (u.slot n)) → ∀ n, SlotPower ((settle c u).slot n))
    ∧ (∀ s t : State, StartSound s → PowerSound s.units → step s = .next t → StartSound t ∧ PowerSound t.units)
    ∧ ∀ (s t : State) (n : Fin 12), StartSound s → PowerSound s.units → step s = .next t → powered (t.units.slot n) = true →
      (powered (s.units.slot n) = true →
        minPower t.units n = minPower s.units n ∧ minPower s.units n ≤ (s.units.slot n).allowance) →
      minPower t.units n ≤ (t.units.slot n).allowance

/-- R130, R132, R136, R140: every step keeps the laws of the channel table and of the uplink wait list: a channel is held by one slot at most and
a lane place by one channel, the holder of an active channel is in ON or QUIESCING within its lane limit, and a slot waits at most once, while it
is in ON with channels pending. -/
def Obligations.ChannelLawsAreKept : Prop :=
  ∀ s t : State, StartSound s → PowerSound s.units → UplinkSound s → step s = .next t → UplinkSound t

/-- R113: with rows that pass their checks the curve passes through its four points, lies between d1 and d4, and never falls with rising
temperature. -/
def Obligations.CurveRisesThroughItsPoints : Prop :=
  ∀ (s : State) (z : Fin 3), RowsPass s →
    (∀ i, curveValue s.ctx z (curvePoint s.ctx z i).1 = (curvePoint s.ctx z i).2)
      ∧ (∀ T, (curvePoint s.ctx z 0).2 ≤ curveValue s.ctx z T ∧ curveValue s.ctx z T ≤ (curvePoint s.ctx z 3).2)
      ∧ (∀ T T', T ≤ T' → curveValue s.ctx z T ≤ curveValue s.ctx z T')

/-- R97: a report of count 0 or above 4 is REPORT_BAD, one for a slot without main power REFUSED_STATE, with nothing changed. R98: an accepted
report of count k updates positions 0 to k - 1 by their readings and empties the others; these are the slot's positions afterwards, unless the
report trips; one that leaves no value is accepted all the same. R99, R100, R103: the largest position is the blade temperature, and the age of an
ON slot restarts; at the trip temperature the slot is cut in CHARGING and quiesces for THERMAL, and 5 °C above it is cut into FAULT. -/
def Obligations.ReportUpdatesReadingPositions : Prop :=
  (∀ (old : List (Option Int)) (k : Nat) (bs : List Byte), 1 ≤ k → k ≤ 4 →
      (newReadings old k bs).length = 4
        ∧ (∀ i, k ≤ i → (newReadings old k bs).getD i none = none)
        ∧ (∀ i < k,
            ((-40 ≤ signedAt bs (i + 1) ∧ signedAt bs (i + 1) ≤ 127) → (newReadings old k bs).getD i none = some (signedAt bs (i + 1)))
              ∧ (signedAt bs (i + 1) = -128 → (newReadings old k bs).getD i none = none)
              ∧ ((-127 ≤ signedAt bs (i + 1) ∧ signedAt bs (i + 1) ≤ -41) → (newReadings old k bs).getD i none = old.getD i none)))
    ∧ (∀ (c : Ctx) (n : Fin 12) (u : Units) (bs : List Byte), 1 ≤ byteAt bs 0 → byteAt bs 0 ≤ 4 → powered (u.slot n) = true →
      (takeReport c n bs u).1 = .accepted)
    ∧ (∀ (c : Ctx) (n : Fin 12) (u : Units) (bs : List Byte), 1 ≤ byteAt bs 0 → byteAt bs 0 ≤ 4 → (u.slot n).state = .on →
      (∀ i, (newReadings (u.slot n).readings (byteAt bs 0) bs).getD i none = none) →
      ((takeReport c n bs u).2.slot n).ageStart = some c.now ∧ bladeTemp ((takeReport c n bs u).2.slot n) = none
        ∧ ((takeReport c n bs u).2.slot n).zoneInput = none ∧ ((takeReport c n bs u).2.slot n).state = .on)
    ∧ (∀ (c : Ctx) (n : Fin 12) (u : Units) (bs : List Byte), 1 ≤ byteAt bs 0 → byteAt bs 0 ≤ 4 → powered (u.slot n) = true →
      (∀ T, (newReadings (u.slot n).readings (byteAt bs 0) bs).foldl maxTemp none = some T → T < tripTemp u n) →
      (let y := (takeReport c n bs u).2.slot n
       y.readings = newReadings (u.slot n).readings (byteAt bs 0) bs ∧ y.stale = false ∧ y.state = (u.slot n).state
        ∧ y.ageStart = (if (u.slot n).state = .on then some c.now else (u.slot n).ageStart)))
    ∧ (∀ (c : Ctx) (n : Fin 12) (u : Units) (bs : List Byte),
      (byteAt bs 0 = 0 ∨ 4 < byteAt bs 0 → takeReport c n bs u = (.reportBad, u))
        ∧ (1 ≤ byteAt bs 0 → byteAt bs 0 ≤ 4 → powered (u.slot n) = false → takeReport c n bs u = (.refusedState, u)))
    ∧ (∀ (c : Ctx) (n : Fin 12) (u : Units) (bs : List Byte) (T : Int), 1 ≤ byteAt bs 0 → byteAt bs 0 ≤ 4 → powered (u.slot n) = true →
      (newReadings (u.slot n).readings (byteAt bs 0) bs).foldl maxTemp none = some T →
      (let x := u.slot n
       let y := (takeReport c n bs u).2.slot n
       (∀ m, m ≠ n → (takeReport c n bs u).2.slot m = u.slot m)
        ∧ (if tripTemp u n + 5 ≤ T then y.state = .fault ∧ y.faultReason = some .thermalCut ∧ y.mainEn = false ∧ y.allowance = 0
          else if tripTemp u n ≤ T then
            (x.state = .charging → y.state = .settling ∧ y.mainEn = false ∧ y.allowance = 0)
              ∧ (x.state = .on ∨ x.state = .quiescing → y.state = .quiescing ∧ y.qReason = some .thermal ∧ y.allowance = x.allowance)
          else y.state = x.state ∧ y.allowance = x.allowance ∧ bladeTemp y = some T ∧ y.stale = false
            ∧ y.zoneInput = some (min 127 (T + slotOffset c u n)))))
end

