-- ==== Sys2Proof/Laws/State.lean ====
section
/-! SUPPORT. What each update of the state leaves as it was and what it sets, one lemma a field, all true by unfolding. -/

namespace Sys2Proof.Machine

/-! ### Tables -/

theorem get_eq {α : Type} {n : Nat} (t : Vector α n) (i : Fin n) : t.get i = t[i.val] := rfl

@[simp] theorem updAt_get_self {α : Type} {n : Nat} (t : Vector α n) (i : Fin n) (f : α → α) : (updAt t i f).get i = f (t.get i) := by
  rw [get_eq, updAt, Vector.getElem_set_self]

theorem updAt_get_ne {α : Type} {n : Nat} (t : Vector α n) (i j : Fin n) (f : α → α) (h : i ≠ j) : (updAt t i f).get j = t.get j := by
  rw [get_eq, updAt, Vector.getElem_set_ne _ _ (fun e => h (Fin.ext e)), ← get_eq]

theorem updAt_get {α : Type} {n : Nat} (t : Vector α n) (i j : Fin n) (f : α → α) :
    (updAt t i f).get j = if i = j then f (t.get j) else t.get j := by
  by_cases h : i = j
  · subst h; simp
  · simp [updAt_get_ne t i j f h, h]

@[simp] theorem updAll_get {α : Type} {n : Nat} (t : Vector α n) (f : α → α) (j : Fin n) : (updAll t f).get j = f (t.get j) := by
  rw [get_eq, updAll, Vector.getElem_ofFn]

@[simp] theorem replicate_get {α : Type} {n : Nat} (a : α) (j : Fin n) : (Vector.replicate n a).get j = a := by
  rw [get_eq, Vector.getElem_replicate]

@[simp] theorem ofFn_get {α : Type} {n : Nat} (f : Fin n → α) (j : Fin n) : (Vector.ofFn f).get j = f j := by
  rw [get_eq, Vector.getElem_ofFn]

/-! ### The parts of State -/

section act
variable (f : Ctx → Units → Units) (s : State)
@[simp] theorem act_ctx : (s.act f).ctx = s.ctx := rfl
@[simp] theorem act_units : (s.act f).units = f s.ctx s.units := rfl
@[simp] theorem act_pending : (s.act f).pending = s.pending := rfl
@[simp] theorem act_links : (s.act f).links = s.links := rfl
@[simp] theorem act_tx : (s.act f).tx = s.tx := rfl
@[simp] theorem act_sentAt : (s.act f).sentAt = s.sentAt := rfl
@[simp] theorem act_cuts : (s.act f).cuts = s.cuts := rfl
@[simp] theorem act_wq : (s.act f).wq = s.wq := rfl
@[simp] theorem act_reads : (s.act f).reads = s.reads := rfl
@[simp] theorem act_arb : (s.act f).arb = s.arb := rfl
@[simp] theorem act_port : (s.act f).port = s.port := rfl
@[simp] theorem act_wb : (s.act f).wb = s.wb := rfl
@[simp] theorem act_mem : (s.act f).mem = s.mem := rfl
@[simp] theorem act_pwm : (s.act f).pwm = s.pwm := rfl
@[simp] theorem act_alert : (s.act f).alert = s.alert := rfl
end act

section setCfg
variable (f : Cfg → Cfg) (s : State)
@[simp] theorem setCfg_cfg : (s.setCfg f).ctx.cfg = f s.ctx.cfg := rfl
@[simp] theorem setCfg_sup : (s.setCfg f).ctx.sup = s.ctx.sup := rfl
@[simp] theorem setCfg_pins : (s.setCfg f).ctx.pins = s.ctx.pins := rfl
@[simp] theorem setCfg_now : (s.setCfg f).ctx.now = s.ctx.now := rfl
@[simp] theorem setCfg_units : (s.setCfg f).units = s.units := rfl
@[simp] theorem setCfg_links : (s.setCfg f).links = s.links := rfl
@[simp] theorem setCfg_tx : (s.setCfg f).tx = s.tx := rfl
@[simp] theorem setCfg_sentAt : (s.setCfg f).sentAt = s.sentAt := rfl
@[simp] theorem setCfg_cuts : (s.setCfg f).cuts = s.cuts := rfl
@[simp] theorem setCfg_wq : (s.setCfg f).wq = s.wq := rfl
@[simp] theorem setCfg_reads : (s.setCfg f).reads = s.reads := rfl
@[simp] theorem setCfg_wb : (s.setCfg f).wb = s.wb := rfl
@[simp] theorem setCfg_mem : (s.setCfg f).mem = s.mem := rfl
@[simp] theorem setCfg_port : (s.setCfg f).port = s.port := rfl
@[simp] theorem setCfg_pending : (s.setCfg f).pending = s.pending := rfl
end setCfg

section setSup
variable (f : Sup → Sup) (s : State)
@[simp] theorem setSup_sup : (s.setSup f).ctx.sup = f s.ctx.sup := rfl
@[simp] theorem setSup_cfg : (s.setSup f).ctx.cfg = s.ctx.cfg := rfl
@[simp] theorem setSup_pins : (s.setSup f).ctx.pins = s.ctx.pins := rfl
@[simp] theorem setSup_now : (s.setSup f).ctx.now = s.ctx.now := rfl
@[simp] theorem setSup_units : (s.setSup f).units = s.units := rfl
@[simp] theorem setSup_links : (s.setSup f).links = s.links := rfl
@[simp] theorem setSup_tx : (s.setSup f).tx = s.tx := rfl
@[simp] theorem setSup_sentAt : (s.setSup f).sentAt = s.sentAt := rfl
@[simp] theorem setSup_cuts : (s.setSup f).cuts = s.cuts := rfl
@[simp] theorem setSup_wq : (s.setSup f).wq = s.wq := rfl
@[simp] theorem setSup_reads : (s.setSup f).reads = s.reads := rfl
@[simp] theorem setSup_wb : (s.setSup f).wb = s.wb := rfl
@[simp] theorem setSup_mem : (s.setSup f).mem = s.mem := rfl
@[simp] theorem setSup_port : (s.setSup f).port = s.port := rfl
@[simp] theorem setSup_pending : (s.setSup f).pending = s.pending := rfl
end setSup

section updLink
variable (l : Fin 13) (f : Link → Link) (s : State)
@[simp] theorem updLink_links : (s.updLink l f).links = updAt s.links l f := rfl
@[simp] theorem updLink_ctx : (s.updLink l f).ctx = s.ctx := rfl
@[simp] theorem updLink_units : (s.updLink l f).units = s.units := rfl
@[simp] theorem updLink_wq : (s.updLink l f).wq = s.wq := rfl
@[simp] theorem updLink_reads : (s.updLink l f).reads = s.reads := rfl
@[simp] theorem updLink_wb : (s.updLink l f).wb = s.wb := rfl
@[simp] theorem updLink_mem : (s.updLink l f).mem = s.mem := rfl
@[simp] theorem updLink_port : (s.updLink l f).port = s.port := rfl
@[simp] theorem updLink_tx : (s.updLink l f).tx = s.tx := rfl
@[simp] theorem updLink_sentAt : (s.updLink l f).sentAt = s.sentAt := rfl
@[simp] theorem updLink_cuts : (s.updLink l f).cuts = s.cuts := rfl
@[simp] theorem updLink_pending : (s.updLink l f).pending = s.pending := rfl
end updLink

section touch
variable (r : RecId) (s : State)
@[simp] theorem touch_ctx : (s.touch r).ctx = s.ctx := rfl
@[simp] theorem touch_units : (s.touch r).units = s.units.touch r := rfl
@[simp] theorem touch_links : (s.touch r).links = s.links := rfl
@[simp] theorem touch_wq : (s.touch r).wq = s.wq := rfl
@[simp] theorem touch_reads : (s.touch r).reads = s.reads := rfl
@[simp] theorem touch_wb : (s.touch r).wb = s.wb := rfl
@[simp] theorem touch_mem : (s.touch r).mem = s.mem := rfl
@[simp] theorem touch_port : (s.touch r).port = s.port := rfl
end touch

/-! ### The end of a step: everything but the write-back set, ALERT and the touched records stays -/

section finish
variable (pre post : State)
@[simp] theorem finish_pending : (finish pre post).pending = post.pending := rfl
@[simp] theorem finish_ctx : (finish pre post).ctx = post.ctx := rfl
@[simp] theorem finish_units : (finish pre post).units = { post.units with touched := [] } := rfl
@[simp] theorem finish_pwm : (finish pre post).pwm = post.pwm := rfl
@[simp] theorem finish_links : (finish pre post).links = post.links := rfl
@[simp] theorem finish_tx : (finish pre post).tx = post.tx := rfl
@[simp] theorem finish_sentAt : (finish pre post).sentAt = post.sentAt := rfl
@[simp] theorem finish_cuts : (finish pre post).cuts = post.cuts := rfl
@[simp] theorem finish_wq : (finish pre post).wq = post.wq := rfl
@[simp] theorem finish_reads : (finish pre post).reads = post.reads := rfl
@[simp] theorem finish_arb : (finish pre post).arb = post.arb := rfl
@[simp] theorem finish_port : (finish pre post).port = post.port := rfl
@[simp] theorem finish_mem : (finish pre post).mem = post.mem := rfl
end finish

/-! ### Entries of the units' tables -/

section updSlot
variable (u : Units) (n : Fin 12) (f : Slot → Slot)
@[simp] theorem updSlot_slot_self : (u.updSlot n f).slot n = f (u.slot n) := by simp [Units.slot, Units.updSlot]
theorem updSlot_slot (m : Fin 12) : (u.updSlot n f).slot m = if n = m then f (u.slot m) else u.slot m := by
  simp [Units.slot, Units.updSlot, updAt_get]
@[simp] theorem updSlot_slotEvents : (u.updSlot n f).slotEvents = u.slotEvents := rfl
@[simp] theorem updSlot_chassisEvent : (u.updSlot n f).chassisEvent = u.chassisEvent := rfl
@[simp] theorem updSlot_linkErr : (u.updSlot n f).linkErr = u.linkErr := rfl
@[simp] theorem updSlot_inv : (u.updSlot n f).inv = u.inv := rfl
@[simp] theorem updSlot_supplies : (u.updSlot n f).supplies = u.supplies := rfl
@[simp] theorem updSlot_waitQ : (u.updSlot n f).waitQ = u.waitQ := rfl
@[simp] theorem updSlot_grantOrder : (u.updSlot n f).grantOrder = u.grantOrder := rfl
@[simp] theorem updSlot_capped : (u.updSlot n f).capped = u.capped := rfl
@[simp] theorem updSlot_shed : (u.updSlot n f).shed = u.shed := rfl
@[simp] theorem updSlot_shedTimer : (u.updSlot n f).shedTimer = u.shedTimer := rfl
@[simp] theorem updSlot_zones : (u.updSlot n f).zones = u.zones := rfl
@[simp] theorem updSlot_fans : (u.updSlot n f).fans = u.fans := rfl
@[simp] theorem updSlot_sensors : (u.updSlot n f).sensors = u.sensors := rfl
@[simp] theorem updSlot_ports : (u.updSlot n f).ports = u.ports := rfl
@[simp] theorem updSlot_chans : (u.updSlot n f).chans = u.chans := rfl
@[simp] theorem updSlot_xq : (u.updSlot n f).xq = u.xq := rfl
@[simp] theorem updSlot_upWait : (u.updSlot n f).upWait = u.upWait := rfl
@[simp] theorem updSlot_disables : (u.updSlot n f).disables = u.disables := rfl
@[simp] theorem updSlot_xFlight : (u.updSlot n f).xFlight = u.xFlight := rfl
@[simp] theorem updSlot_xbar : (u.updSlot n f).xbar = u.xbar := rfl
@[simp] theorem updSlot_xLate : (u.updSlot n f).xLate = u.xLate := rfl
@[simp] theorem updSlot_emergency : (u.updSlot n f).emergency = u.emergency := rfl
@[simp] theorem updSlot_touched : (u.updSlot n f).touched = u.touched := rfl
end updSlot

section updZone
variable (u : Units) (z : Fin 3) (f : Zone → Zone)
@[simp] theorem updZone_zone_self : (u.updZone z f).zones.get z = f (u.zones.get z) := by simp [Units.updZone]
theorem updZone_zone (y : Fin 3) : (u.updZone z f).zones.get y = if z = y then f (u.zones.get y) else u.zones.get y := by
  simp [Units.updZone, updAt_get]
@[simp] theorem updZone_slots : (u.updZone z f).slots = u.slots := rfl
@[simp] theorem updZone_fans : (u.updZone z f).fans = u.fans := rfl
@[simp] theorem updZone_sensors : (u.updZone z f).sensors = u.sensors := rfl
@[simp] theorem updZone_chassisEvent : (u.updZone z f).chassisEvent = u.chassisEvent := rfl
@[simp] theorem updZone_slotEvents : (u.updZone z f).slotEvents = u.slotEvents := rfl
@[simp] theorem updZone_inv : (u.updZone z f).inv = u.inv := rfl
end updZone

section updFan
variable (u : Units) (k : Fin 6) (f : Fan → Fan)
@[simp] theorem updFan_fan_self : (u.updFan k f).fans.get k = f (u.fans.get k) := by simp [Units.updFan]
@[simp] theorem updFan_slots : (u.updFan k f).slots = u.slots := rfl
@[simp] theorem updFan_zones : (u.updFan k f).zones = u.zones := rfl
end updFan

/-! ### Event bits -/

@[simp] theorem setSlotBit_slot (n m : Fin 12) (b : SlotBit) (u : Units) : (setSlotBit n b u).slot m = u.slot m := rfl
@[simp] theorem setChassisBit_slot (m : Fin 12) (b : ChassisBit) (u : Units) : (setChassisBit b u).slot m = u.slot m := rfl
@[simp] theorem setSlotBit_chassisEvent (n : Fin 12) (b : SlotBit) (u : Units) : (setSlotBit n b u).chassisEvent = u.chassisEvent := rfl
@[simp] theorem setChassisBit_slotEvents (b : ChassisBit) (u : Units) : (setChassisBit b u).slotEvents = u.slotEvents := rfl

theorem withBit_getLsbD (w : BitVec 32) (i j : Nat) (hi : i < 32) : (withBit w i).getLsbD j = (w.getLsbD j || decide (i = j)) := by
  have h : (BitVec.ofNat 32 (2 ^ i)).getLsbD j = decide (i = j) := by
    rw [BitVec.getLsbD_ofNat, Nat.testBit_two_pow]
    by_cases e : i = j
    · subst e; simp [hi]
    · simp [e]
  rw [withBit, BitVec.getLsbD_or, h]

theorem slotBit_lt (b : SlotBit) : slotBit b < 32 := by cases b <;> decide
theorem chassisBit_lt (b : ChassisBit) : chassisBit b < 32 := by cases b <;> decide

/-- An event sets its bit (R155). -/
@[simp] theorem setChassisBit_flag (b : ChassisBit) (u : Units) : chassisFlag (setChassisBit b u) b = true := by
  simp [chassisFlag, setChassisBit, withBit_getLsbD _ _ _ (chassisBit_lt b)]

/-- A bit already set stays set (R155). -/
theorem setChassisBit_keeps (b b' : ChassisBit) (u : Units) (h : chassisFlag u b = true) : chassisFlag (setChassisBit b' u) b = true := by
  simp only [chassisFlag] at h
  simp [chassisFlag, setChassisBit, withBit_getLsbD _ _ _ (chassisBit_lt b'), h]

@[simp] theorem setSlotBit_flag (n : Fin 12) (b : SlotBit) (u : Units) : slotFlag (setSlotBit n b u) n b = true := by
  simp [slotFlag, setSlotBit, withBit_getLsbD _ _ _ (slotBit_lt b)]

theorem setSlotBit_keeps (n m : Fin 12) (b b' : SlotBit) (u : Units) (h : slotFlag u n b = true) :
    slotFlag (setSlotBit m b' u) n b = true := by
  simp only [slotFlag] at h
  simp only [slotFlag, setSlotBit, updAt_get]
  split
  · next e => subst e; simp [withBit_getLsbD _ _ _ (slotBit_lt b'), h]
  · exact h

end Sys2Proof.Machine
end

