-- ==== Sys2Proof/Laws/Frame.lean ====
section
/-! SUPPORT. What the budget unit's reaction to an event can change: `settle_fix` says it once. The parts of the units that none of its
operations touch are in `Frame`; which slots stay is in `Fix`. -/

namespace Sys2Proof.Machine

/-- `Frame`, and the slots of `P` stay as they are. -/
structure Fix (P : Fin 12 → Prop) (u u' : Units) : Prop where
  frame : Frame u u'
  slots : ∀ n, P n → u'.slot n = u.slot n

/-- No slot changes. -/
abbrev AllFix := Fix (fun _ => True)

/-- Only slot `n` may change. -/
abbrev OnlySlot (n : Fin 12) := Fix (· ≠ n)

theorem Frame.refl (u : Units) : Frame u u := by constructor <;> intros <;> first | rfl | assumption

theorem Frame.trans {u v w : Units} (a : Frame u v) (b : Frame v w) : Frame u w := by
  constructor
  all_goals first
    | exact fun n x h => b.slotBits n x (a.slotBits n x h)
    | exact fun x h => b.chassisBits x (a.chassisBits x h)
    | exact fun n h => b.waits n (a.waits n h)
    | simp only [b.linkErr, a.linkErr]
    | simp only [b.inv, a.inv]
    | simp only [b.invGen, a.invGen]
    | simp only [b.busQueue, a.busQueue]
    | simp only [b.busOp, a.busOp]
    | simp only [b.supplies, a.supplies]
    | simp only [b.sensors, a.sensors]
    | simp only [b.pollTimer, a.pollTimer]
    | simp only [b.zones, a.zones]
    | simp only [b.fans, a.fans]
    | simp only [b.gateTimer, a.gateTimer]
    | simp only [b.xbar, a.xbar]
    | simp only [b.xLate, a.xLate]
    | simp only [b.xChances, a.xChances]
    | simp only [b.senseNext, a.senseNext]
    | exact fun p => (b.portStates p).trans (a.portStates p)

section
variable {P : Fin 12 → Prop} {u v w : Units} {c : Ctx} {n : Fin 12}

theorem Fix.refl (P : Fin 12 → Prop) (u : Units) : Fix P u u := ⟨.refl u, fun _ _ => rfl⟩

theorem Fix.trans (a : Fix P u v) (b : Fix P v w) : Fix P u w :=
  ⟨a.frame.trans b.frame, fun n h => (b.slots n h).trans (a.slots n h)⟩

theorem Fix.mono {Q : Fin 12 → Prop} (a : Fix P u v) (h : ∀ n, Q n → P n) : Fix Q u v := ⟨a.frame, fun n hn => a.slots n (h n hn)⟩

theorem AllFix.to (a : AllFix u v) : Fix P u v := a.mono (fun _ _ => trivial)

/-- A fold of operations that each fix `P`. -/
theorem Fix.foldl {α : Type} {f : Units → α → Units} (h : ∀ u a, Fix P u (f u a)) (l : List α) (u : Units) : Fix P u (l.foldl f u) := by
  induction l generalizing u with
  | nil => exact .refl P u
  | cons a rest ih => exact (h u a).trans (ih _)

/-- An update that leaves slots, event words, wait queue and every field of `Frame` alone. -/
theorem Fix.of_eq (h1 : Frame u v) (h2 : v.slots = u.slots) : Fix P u v := ⟨h1, fun n _ => by simp only [Units.slot, h2]⟩

theorem frame_updSlot (f : Slot → Slot) : Frame u (u.updSlot n f) := by constructor <;> intros <;> first | rfl | assumption

theorem only_updSlot (f : Slot → Slot) : OnlySlot n u (u.updSlot n f) :=
  ⟨frame_updSlot f, fun m h => by rw [updSlot_slot, if_neg (Ne.symm h)]⟩

theorem fix_setSlotBit (b : SlotBit) : Fix P u (setSlotBit n b u) := by
  refine .of_eq ?_ rfl
  constructor <;> intros <;> first | rfl | assumption | exact setSlotBit_keeps _ _ _ _ _ ‹_›

theorem fix_setChassisBit (b : ChassisBit) : Fix P u (setChassisBit b u) := by
  refine .of_eq ?_ rfl
  constructor <;> intros <;> first | rfl | assumption | exact setChassisBit_keeps _ _ _ ‹_›

/-! ### Uplink operations -/

theorem fix_updPort (p : Fin 4) {f : Port → Port} (hf : ∀ x, (f x).state = x.state) : Fix P u (u.updPort p f) := by
  refine .of_eq ?_ rfl
  constructor <;> intros <;> first | rfl | assumption | skip
  next q =>
    simp only [Units.updPort, updAt_get]
    split
    · next h => rw [hf]
    · rfl

theorem fix_putChan (ch : Fin 32) (x : Chan) : Fix P u (putChan ch x u) :=
  .of_eq (by constructor <;> intros <;> first | rfl | assumption) rfl

theorem fix_updChan (ch : Fin 32) (f : Chan → Chan) : Fix P u (updChan ch f u) := fix_putChan _ _

theorem fix_sendNext : Fix P u (sendNext c u) := by
  unfold sendNext
  split
  · exact .of_eq (by constructor <;> intros <;> first | rfl | assumption) rfl
  · exact .refl P u

theorem fix_xq (l : List XCmd) : Fix P u { u with xq := l } :=
  .of_eq (by constructor <;> intros <;> first | rfl | assumption) rfl

theorem fix_queueCmd (cmd : XCmd) : Fix P u (queueCmd c cmd u) := (fix_xq (u.xq ++ [cmd])).trans fix_sendNext

theorem fix_takeChannel (ch : Fin 32) (k : Fin 4) : Fix P u (takeChannel c ch n k u) := by
  unfold takeChannel
  refine Fix.trans ?_ ((fix_updChan _ _).trans (fix_queueCmd _))
  split
  · exact .refl P u
  · exact fix_updPort _ (fun _ => rfl)

theorem fix_fillSlot : Fix P u (fillSlot c n u) := by
  refine Fix.foldl (fun u k => ?_) _ u
  split
  · split
    · exact fix_takeChannel _ _
    · exact .refl P u
  · exact .refl P u

theorem fix_upWait (l : List (Fin 12)) : Fix P u { u with upWait := l } :=
  .of_eq (by constructor <;> intros <;> first | rfl | assumption) rfl

theorem fix_syncWait : Fix P u (syncWait n u) := by
  unfold syncWait
  split
  · exact fix_upWait _
  · split
    · exact .refl P u
    · exact fix_upWait _

theorem fix_serveWait : Fix P u (serveWait c u) := Fix.foldl (fun _ _ => fix_fillSlot.trans fix_syncWait) _ u

theorem fix_releaseChan (ch : Fin 32) : Fix P u (releaseChan c ch u) := by
  unfold releaseChan
  simp only
  split <;> first | exact fix_updChan _ _ | exact .refl P u

theorem only_releaseSlot : OnlySlot n u (releaseSlot c n u) := by
  unfold releaseSlot
  exact ((Fix.foldl (fun _ _ => fix_releaseChan _) _ u).trans (only_updSlot _)).trans (fix_upWait _)

theorem only_quiesceClaim : OnlySlot n u (quiesceClaim n u) := by
  unfold quiesceClaim
  exact (only_updSlot _).trans (fix_upWait _)

/-! ### Slot operations -/

theorem hasWait_sublist {l l' : List WaitEntry} (h : ∀ e ∈ l', ∃ e' ∈ l, e'.slot = e.slot) (m : Fin 12)
    (hn : l.any (fun e => e.slot == m) = false) : l'.any (fun e => e.slot == m) = false := by
  simp only [List.any_eq_false, beq_iff_eq] at hn ⊢
  intro e he
  obtain ⟨e', he', hs⟩ := h e he
  rw [← hs]
  exact hn e' he'

/-- A wait queue whose slots were already in it. -/
theorem fix_waitQ {l : List WaitEntry} (h : ∀ e ∈ l, ∃ e' ∈ u.waitQ, e'.slot = e.slot) : Fix P u { u with waitQ := l } := by
  refine .of_eq ?_ rfl
  constructor <;> intros <;> first | rfl | assumption | exact hasWait_sublist h _ ‹_›

theorem fix_removeWait : Fix P u (removeWait n u) := fix_waitQ (fun e he => ⟨e, (List.mem_filter.mp he).1, rfl⟩)

theorem fix_leaveOnLists : Fix P u (leaveOnLists n u) :=
  .of_eq (by constructor <;> intros <;> first | rfl | assumption) rfl

theorem fix_toGrantEnd : Fix P u (toGrantEnd n u) :=
  .of_eq (by constructor <;> intros <;> first | rfl | assumption) rfl

theorem fix_shed (l : List (Fin 12)) : Fix P u { u with shed := l } :=
  .of_eq (by constructor <;> intros <;> first | rfl | assumption) rfl

theorem fix_capped (l : List (Fin 12)) : Fix P u { u with capped := l } :=
  .of_eq (by constructor <;> intros <;> first | rfl | assumption) rfl

theorem only_setAllowance (w : Nat) : OnlySlot n u (setAllowance c n w u) := only_updSlot _

theorem only_powerOff : OnlySlot n u (powerOff c n u) := by
  unfold powerOff
  exact ((only_releaseSlot.trans fix_removeWait).trans fix_leaveOnLists).trans ((fix_shed _).trans (only_updSlot _))

theorem only_cutToSettling : OnlySlot n u (cutToSettling c n u) := by
  unfold cutToSettling
  split
  · exact only_powerOff.trans (only_updSlot _)
  · exact .refl _ u

theorem only_cutToFault (r : FaultReason) : OnlySlot n u (cutToFault c n r u) := by
  unfold cutToFault
  split
  · exact ((only_powerOff.trans (only_updSlot _)).trans (fix_setSlotBit _)).trans (fix_setChassisBit _)
  · exact .refl _ u

theorem only_enterQuiesce (r : QReason) : OnlySlot n u (enterQuiesce c n r u) := by
  unfold enterQuiesce
  exact ((fix_removeWait.trans fix_leaveOnLists).trans only_quiesceClaim).trans (only_updSlot _)

theorem only_startCharge (w : Nat) : OnlySlot n u (startCharge c n w u) := by
  have h : OnlySlot n u ((toGrantEnd n u).updSlot n (fun x =>
      { coolSlot x with state := .charging, grant := w, allowance := w, mainEn := true,
                        chargeTimer := startTimer c (chargeTime c n), chargeStart := some c.now })) := fix_toGrantEnd.trans (only_updSlot _)
  unfold startCharge
  simp only
  split
  · exact h.trans (only_cutToFault _)
  · split
    · exact h.trans (only_updSlot _)
    · exact h

theorem only_applyRaise (w : Nat) : OnlySlot n u (applyRaise c n w u) := by
  unfold applyRaise
  exact fix_toGrantEnd.trans (only_updSlot _)

/-! ### The slots that the budget unit leaves alone -/

/-- `Frame`, and slots of which `Q` holds stay as they are. -/
structure Keeps (Q : Slot → Bool) (u u' : Units) : Prop where
  frame : Frame u u'
  slots : ∀ n, Q (u.slot n) = true → u'.slot n = u.slot n

variable {Q : Slot → Bool}

theorem Keeps.refl (u : Units) : Keeps Q u u := ⟨.refl u, fun _ _ => rfl⟩

theorem Keeps.trans (a : Keeps Q u v) (b : Keeps Q v w) : Keeps Q u w :=
  ⟨a.frame.trans b.frame, fun n h => by
    have e := a.slots n h
    exact (b.slots n (by rw [e]; exact h)).trans e⟩

theorem Keeps.foldl {α : Type} {f : Units → α → Units} (h : ∀ u a, Keeps Q u (f u a)) (l : List α) (u : Units) : Keeps Q u (l.foldl f u) := by
  induction l generalizing u with
  | nil => exact .refl u
  | cons a rest ih => exact (h u a).trans (ih _)

theorem keeps_fix (a : Fix (fun _ => True) u v) : Keeps Q u v := ⟨a.frame, fun n _ => a.slots n trivial⟩

/-- An operation on one slot that `Q` does not hold of. -/
theorem keeps_only (a : Fix (fun m => m ≠ n) u v) (h : Q (u.slot n) = false) : Keeps Q u v :=
  ⟨a.frame, fun m hm => a.slots m (fun e => Bool.false_ne_true (by rw [← h, ← e]; exact hm))⟩

theorem Keeps.dark_of_quiet (a : Keeps quiet u v) : Keeps dark u v :=
  ⟨a.frame, fun n h => a.slots n (Bool.and_eq_true_iff.mp h).1⟩

theorem quiet_powered {x : Slot} (h : powered x = true) (hq : x.state ≠ .quiescing) : quiet x = false := by
  cases e : x.state <;> simp_all [quiet, powered]

theorem dark_powered {x : Slot} (h : powered x = true) : dark x = false := by
  cases e : x.state <;> simp_all [dark, quiet, powered]

theorem quiet_state {x : Slot} (h : x.state = .on ∨ x.state = .charging ∨ x.state = .waitPower) : quiet x = false := by
  rcases h with h | h | h <;> simp [quiet, h]

/-! ### The budget unit -/

theorem fix_deficit (b : Bool) (t : Timer) : Fix P u { u with deficit := b, shedTimer := t } :=
  .of_eq (by constructor <;> intros <;> first | rfl | assumption) rfl

theorem fix_ite {p : Prop} [Decidable p] {x y : Units} (h : Fix P u x) (h' : Fix P u y) : Fix P u (if p then x else y) := by
  split <;> assumption

theorem keeps_ite {p : Prop} [Decidable p] {x y : Units} (h : Keeps Q u x) (h' : Keeps Q u y) : Keeps Q u (if p then x else y) := by
  split <;> assumption

theorem keeps_recompute : Keeps Q u (recompute c u) := by
  unfold recompute
  exact keeps_fix (Fix.trans (fix_ite (fix_setChassisBit _) (Fix.refl _ u)) (fix_deficit _ _))

theorem keeps_capOne : Keeps quiet u (capOne c u n) := by
  unfold capOne
  simp only
  split
  · exact .refl u
  · next h =>
    have hs : (u.slot n).state = .on := by
      by_contra e; exact h (Or.inr e)
    have hq : quiet (u.slot n) = false := quiet_state (.inl hs)
    have join : ∀ v : Units, Fix (fun _ => True) v (setSlotBit n .capped (if v.capped.contains n then v else { v with capped := v.capped ++ [n] })) := by
      intro v
      refine Fix.trans (v := if v.capped.contains n then v else { v with capped := v.capped ++ [n] }) ?_ (fix_setSlotBit _)
      split
      · exact Fix.refl _ _
      · exact fix_capped _
    exact (keeps_only (only_setAllowance _) hq).trans (keeps_fix (join _))

theorem fix_markVictim : Fix P u (markVictim n u) := by
  unfold markVictim
  refine Fix.trans (Fix.trans ?_ (fix_setSlotBit _)) (fix_setChassisBit _)
  split
  · exact .refl P u
  · exact fix_shed _

theorem markVictim_slot (m : Fin 12) : (markVictim n u).slot m = u.slot m := (fix_markVictim (P := fun _ => True)).slots m trivial

/-- An emergency victim is cut: a slot of the candidates that still has main power. -/
theorem keeps_cut_marked (h : Q (u.slot n) = false) : Keeps Q u (cutToSettling c n (markVictim n u)) :=
  (keeps_fix fix_markVictim).trans (keeps_only only_cutToSettling (by rw [markVictim_slot]; exact h))

theorem shedCandidates_state (h : n ∈ shedCandidates c u) : (u.slot n).state = .charging ∨ (u.slot n).state = .on := by
  simp only [shedCandidates, List.mem_flatMap, List.mem_append, List.mem_filter, Bool.and_eq_true, beq_iff_eq] at h
  obtain ⟨k, -, h | h⟩ := h
  · exact .inl h.2.1
  · exact .inr h.2.1

/-- Each victim of an emergency is a CHARGING or ON slot until its turn comes: `l` holds slots that `quiet` does not hold of. -/
theorem keeps_emergency (l : List (Fin 12)) (u0 : Units) (hl : ∀ n ∈ l, quiet (u0.slot n) = false) (hu : Keeps quiet u0 u) :
    Keeps quiet u0 (l.foldl (emergencyOne c) u) := by
  induction l generalizing u with
  | nil => exact hu
  | cons a rest ih =>
    refine ih (fun n hn => hl n (by simp [hn])) ?_
    have ha := hl a (by simp)
    unfold emergencyOne
    split
    · refine ⟨hu.frame.trans ?_, fun m hm => ?_⟩
      · exact ((fix_markVictim (P := fun _ => True)).frame).trans (only_cutToSettling).frame
      · have hne : m ≠ a := fun e => Bool.false_ne_true (by rw [← ha, ← e]; exact hm)
        rw [only_cutToSettling.slots m hne, markVictim_slot]
        exact hu.slots m hm
    · exact hu

theorem keeps_emergencyShed : Keeps quiet u (emergencyShed c u) := by
  unfold emergencyShed
  simp only
  split
  · exact .refl u
  · refine Keeps.trans (keeps_emergency _ u (fun n hn => ?_) (.refl u)) (keeps_fix (fix_setChassisBit _))
    rcases shedCandidates_state hn with h | h
    · exact quiet_state (.inr (.inl h))
    · exact quiet_state (.inl h)

theorem keeps_plannedOne : Keeps quiet u (plannedOne c u n) := by
  unfold plannedOne
  split
  · split
    · next h => exact (keeps_fix fix_markVictim).trans (keeps_only (only_enterQuiesce _) (by rw [markVictim_slot]; exact quiet_state (.inl h)))
    · next h => exact keeps_cut_marked (quiet_state (.inr (.inl h)))
    · exact .refl u
  · exact .refl u

theorem keeps_plannedShed : Keeps quiet u (plannedShed c u) := Keeps.foldl (fun _ _ => keeps_plannedOne) _ u

theorem fix_shedTimer (t : Timer) : Fix P u { u with shedTimer := t } :=
  .of_eq (by constructor <;> intros <;> first | rfl | assumption) rfl

theorem keeps_shedDecision : Keeps quiet u (shedDecision c u) := by
  unfold shedDecision
  simp only
  split
  · exact keeps_fix (fix_shedTimer _)
  · split
    · split
      · exact keeps_emergencyShed.trans (keeps_fix (fix_shedTimer _))
      · exact keeps_emergencyShed
    · split
      · exact keeps_fix (fix_shedTimer _)
      · exact .refl u

theorem keeps_deficitHandling : Keeps quiet u (deficitHandling c u) := by
  unfold deficitHandling
  split
  · exact (Keeps.foldl (fun _ _ => keeps_capOne) _ u).trans keeps_shedDecision
  · exact .refl u

theorem fix_emergency (b : Bool) (t : Timer) : Fix P u { u with emergency := b, shedTimer := t } :=
  .of_eq (by constructor <;> intros <;> first | rfl | assumption) rfl

theorem fix_emergency' (b : Bool) : Fix P u { u with emergency := b } :=
  .of_eq (by constructor <;> intros <;> first | rfl | assumption) rfl

theorem keeps_losePower : Keeps dark u (losePower c u) := by
  have key : ∀ (l : List (Fin 12)) (v : Units), (∀ n ∈ l, dark (u.slot n) = false) → Keeps dark u v →
      Keeps dark u (l.foldl (fun u n => cutToSettling c n (markVictim n u)) v) := by
    intro l
    induction l with
    | nil => exact fun v _ h => h
    | cons a rest ih =>
      intro v hl hv
      refine ih _ (fun n hn => hl n (by simp [hn])) ⟨hv.frame.trans ?_, fun m hm => ?_⟩
      · exact ((fix_markVictim (P := fun _ => True)).frame).trans (only_cutToSettling).frame
      · have hne : m ≠ a := fun e => Bool.false_ne_true (by rw [← hl a (by simp), ← e]; exact hm)
        rw [only_cutToSettling.slots m hne, markVictim_slot]
        exact hv.slots m hm
  unfold losePower
  simp only
  have h1 := key ((indices 12).filter (fun n => powered (u.slot n))) (setChassisBit .powerLost u)
    (fun n hn => dark_powered (by simpa using (List.mem_filter.mp hn).2)) (keeps_fix (fix_setChassisBit _))
  refine h1.trans (Keeps.trans (v := ?_) ?_ ?_)
  · exact if ((indices 12).filter (fun n => powered (u.slot n))).isEmpty = true then
      List.foldl (fun u n => cutToSettling c n (markVictim n u)) (setChassisBit .powerLost u) ((indices 12).filter (fun n => powered (u.slot n)))
    else setChassisBit .emergencyShed
      (List.foldl (fun u n => cutToSettling c n (markVictim n u)) (setChassisBit .powerLost u) ((indices 12).filter (fun n => powered (u.slot n))))
  · split
    · exact .refl _
    · exact keeps_fix (fix_setChassisBit _)
  · exact keeps_fix (fix_emergency _ _)

theorem keeps_supplyEmergency : Keeps dark u (supplyEmergency c u) := by
  unfold supplyEmergency
  split
  · split
    · exact keeps_fix (fix_emergency' _)
    · exact keeps_fix (fix_shedTimer _)
  · split
    · exact keeps_losePower
    · exact .refl u

/-- While the emergency runs, or while not all supplies are lost, no QUIESCING slot is cut here (R77). -/
theorem keeps_supplyEmergency_quiet (h : u.emergency = true ∨ allSuppliesLost u = false) : Keeps quiet u (supplyEmergency c u) := by
  unfold supplyEmergency
  split
  · split
    · exact keeps_fix (fix_emergency' _)
    · exact keeps_fix (fix_shedTimer _)
  · next he =>
    split
    · next hl => rcases h with h | h
                 · exact absurd h he
                 · simp [h] at hl
    · exact .refl u

theorem keeps_restoreOne : Keeps quiet u (restoreOne c u n) := by
  unfold restoreOne
  simp only
  split
  · exact .refl u
  · next h =>
    have hs : (u.slot n).state = .on := by
      by_contra e; exact h (Or.inr (Or.inr e))
    have h1 : Keeps quiet u (setAllowance c n ((u.slot n).allowance + min (cutOf (u.slot n)) (headroom c u).toNat) u) :=
      keeps_only (only_setAllowance _) (quiet_state (.inl hs))
    split
    · exact h1.trans (keeps_fix (fix_capped _))
    · exact h1

theorem keeps_applyGrant (e : WaitEntry) : Keeps quiet u (applyGrant c e u) := by
  unfold applyGrant
  split
  · next h => exact keeps_only (only_startCharge _) (quiet_state (.inr (.inr h)))
  · next h => exact keeps_only (only_applyRaise _) (quiet_state (.inl h))
  · exact .refl u

/-- A grant is found among the entries of the queue: those gone past, the granted one and the rest make up the queue (R58). -/
theorem findGrant_some {fits : WaitEntry → Bool} {k : Nat} {gone l a rest : List WaitEntry} {e : WaitEntry}
    (h : findGrant fits k gone l = some (a, e, rest)) : gone.reverse ++ l = a ++ e :: rest ∧ fits e = true := by
  induction l generalizing gone with
  | nil => simp [findGrant] at h
  | cons x xs ih =>
    simp only [findGrant] at h
    split at h
    · next hf => simp only [Option.some.injEq, Prod.mk.injEq] at h; obtain ⟨rfl, rfl, rfl⟩ := h; exact ⟨rfl, hf⟩
    · split at h
      · exact absurd h (by simp)
      · obtain ⟨h1, h2⟩ := ih h
        exact ⟨by simpa using h1, h2⟩

theorem keeps_queueScan (fuel : Nat) : Keeps quiet u (queueScan c fuel u) := by
  induction fuel generalizing u with
  | zero => exact .refl u
  | succ k ih =>
    unfold queueScan
    split
    · exact .refl u
    · next gone e rest h =>
      have hq := (findGrant_some h).1
      simp only [List.reverse_nil, List.nil_append] at hq
      refine Keeps.trans (keeps_fix (fix_waitQ (fun x hx => ?_))) ((keeps_applyGrant e).trans ih)
      rw [hq]
      simp only [List.mem_append, List.mem_map] at hx
      rcases hx with ⟨y, hy, rfl⟩ | hx
      · exact ⟨y, by simp [hy], rfl⟩
      · exact ⟨x, by simp [hx], rfl⟩

theorem keeps_restoreAndScan : Keeps quiet u (restoreAndScan c u) := by
  unfold restoreAndScan
  split
  · have h1 : Keeps quiet u (restoration c u) := Keeps.foldl (fun _ _ => keeps_restoreOne) _ u
    have serve : ∀ v : Units, Keeps quiet v (if 0 < headroom c v then serveWait c v else v) :=
      fun v => keeps_ite (keeps_fix fix_serveWait) (.refl v)
    exact (keeps_ite h1 (h1.trans (keeps_queueScan _))).trans (serve _)
  · exact .refl u

/-- What `settle` can do: slots without main power that do not wait for it stay, and so does everything in `Frame`. -/
theorem settle_keeps : Keeps dark u (settle c u) := by
  unfold settle
  split
  · exact (((keeps_recompute.trans keeps_supplyEmergency).trans keeps_deficitHandling.dark_of_quiet).trans keeps_recompute).trans
      keeps_restoreAndScan.dark_of_quiet
  · exact .refl u

theorem recompute_supplies : (recompute c u).supplies = u.supplies := (keeps_recompute (Q := dark)).frame.supplies

theorem recompute_emergency : (recompute c u).emergency = u.emergency := by
  unfold recompute
  simp only
  split <;> rfl

/-- While not all supplies are lost, or the emergency already runs, QUIESCING slots stay as well. -/
theorem settle_keeps_quiet (h : u.emergency = true ∨ allSuppliesLost u = false) : Keeps quiet u (settle c u) := by
  unfold settle
  split
  · have h' : (recompute c u).emergency = true ∨ allSuppliesLost (recompute c u) = false := by
      rw [recompute_emergency]
      simpa [allSuppliesLost, recompute_supplies] using h
    exact (((keeps_recompute.trans (keeps_supplyEmergency_quiet h')).trans keeps_deficitHandling).trans keeps_recompute).trans
      keeps_restoreAndScan
  · exact .refl u

theorem settleAfter_keeps : Keeps dark v (settleAfter c u v) := by
  unfold settleAfter
  exact keeps_ite settle_keeps (keeps_ite keeps_restoreAndScan.dark_of_quiet (.refl v))

theorem settleAfter_keeps_quiet (h : v.emergency = true ∨ allSuppliesLost v = false) : Keeps quiet v (settleAfter c u v) := by
  unfold settleAfter
  exact keeps_ite (settle_keeps_quiet h) (keeps_ite keeps_restoreAndScan (.refl v))

end

end Sys2Proof.Machine
end

