-- ==== Sys2Proof/Laws/Effects.lean ====
section
/-! SUPPORT. What the shared operations do, one lemma each: timers and filters, cuts, quiesces, the end of a step. -/

namespace Sys2Proof.Machine

/-! ### Timers and filters -/

theorem debounced_waits {s : State} {p : Pin} {level : Bool} {d : Nat} (h : Waits s p level d) :
    debounced s.ctx p level = some (Shown s p level d) := by
  obtain ⟨h1, h2, h3⟩ := h
  simp only [debounced, h3, h1, ne_eq, h2, not_false_eq_true, and_self, if_true]
  rfl

/-- A waiting filter takes the level, and the event is handled with the level shown (R2). -/
theorem onPin_waits {s : State} {p : Pin} {level : Bool} {d : Nat} (h : Waits s p level d) (f : State → State) :
    onPin p level f s = f { s with ctx := Shown s p level d } := by
  simp only [onPin, debounced_waits h]

theorem atTimer_some (d : Nat) (f : State → State) (s : State) : atTimer (some d) f s = f { s with ctx := atDeadline s.ctx d } := rfl

section shown
variable (s : State) (p : Pin) (level : Bool) (d : Nat)
@[simp] theorem Shown_now : (Shown s p level d).now = max s.ctx.now d := rfl
@[simp] theorem Shown_sup : (Shown s p level d).sup = s.ctx.sup := rfl
@[simp] theorem Shown_cfg : (Shown s p level d).cfg = s.ctx.cfg := rfl
@[simp] theorem atDeadline_now (c : Ctx) : (atDeadline c d).now = max c.now d := rfl
@[simp] theorem atDeadline_sup (c : Ctx) : (atDeadline c d).sup = c.sup := rfl
@[simp] theorem atDeadline_cfg (c : Ctx) : (atDeadline c d).cfg = c.cfg := rfl
@[simp] theorem atDeadline_pins (c : Ctx) : (atDeadline c d).pins = c.pins := rfl
end shown

/-- A filter's new level is read back, and no other input has changed. -/
theorem getFilter_updFilter (p : Pins) (f : Filter → Filter) (q r : Pin) :
    getFilter (updFilter p f q) r = if q = r then f (getFilter p r) else getFilter p r := by
  cases q <;> cases r <;> simp [getFilter, updFilter, updAt_get]

@[simp] theorem updFilter_sampled (p : Pins) (f : Filter → Filter) (q : Pin) : (updFilter p f q).sampled = p.sampled := by cases q <;> rfl

/-! ### The end of a step -/

theorem Frame.settled {u v : Units} (h : Frame u v) : Frame u v.settled := ⟨h.1, h.2, h.3, h.4, h.5, h.6, h.7, h.8, h.9, h.10, h.11, h.12,
  h.13, h.14, h.15, h.16, h.17, h.18, h.19⟩

@[simp] theorem settled_slot (u : Units) (n : Fin 12) : u.settled.slot n = u.slot n := rfl

/-- A unit's action with the account settled at its end: `done` of it answers a next state whose units are these. -/
theorem actAndSettle_units (f : Ctx → Units → Units) (s : State) :
    (actAndSettle f s).units = settleAfter s.ctx s.units (f s.ctx s.units) := rfl

/-- Neither a term of the account nor a list has changed: nothing more happens. -/
theorem settleAfter_same {c : Ctx} {u v : Units} (h : accountTerms c u = accountTerms c v) (hl : budgetLists u = budgetLists v) :
    settleAfter c u v = v := by simp [settleAfter, h, hl]

/-- Only the lists have changed: restoration and the queue scan, and no recomputation (R54, R55, R56). -/
theorem settleAfter_lists {c : Ctx} {u v : Units} (h : accountTerms c u = accountTerms c v) (hl : budgetLists u ≠ budgetLists v)
    (hb : c.sup.built = true) : settleAfter c u v = restoreAndScan c v := by simp [settleAfter, h, hl, hb]

/-- A term of the account has changed: the budget unit recomputes it (R50, R65). -/
theorem settleAfter_terms {c : Ctx} {u v : Units} (h : accountTerms c u ≠ accountTerms c v) : settleAfter c u v = settle c v := if_pos h

/-! ### Inventory entries (R29) -/

/-- What storing an entry does to the table: the entry alone changes, to the new content with the next generation, if it differs. -/
theorem storeEntry_inv (i j : Fin 26) (e : Entry) (u : Units) : (storeEntry i e u).inv.get j =
    if i = j ∧ sameEntry (u.inv.get i) e = false then { e with lastGen := u.invGen + 1 } else u.inv.get j := by
  unfold storeEntry
  simp only
  split
  · next h => simp [h]
  · next h =>
    have h' : sameEntry (u.inv.get i) e = false := by simpa using h
    split <;> simp only [setChassisBit, updAt_get, h', and_true]

/-- An unchanged entry is neither stored nor reported (R29). -/
@[simp] theorem putEntry_same (c : Ctx) {i : Fin 26} {e : Entry} {u : Units} (h : sameEntry (u.inv.get i) e = true) : putEntry c i e u = u :=
  if_pos h

/-- An entry that was not VALID leads to no re-check: it is stored and reported (R33, R34). -/
theorem changeThen_plain (c : Ctx) {i : Fin 26} {e : Entry} {report : Units → Units} {u : Units} (h : (u.inv.get i).state ≠ .valid) :
    changeThen c i e report u = report (storeEntry i e u) := by simp [changeThen, h]

/-! ### Cuts and quiesces -/

section cuts
variable (c : Ctx) (n : Fin 12) (u : Units)

theorem releaseSlot_slot : (releaseSlot c n u).slot n = { u.slot n with claimed := 0, group := .any } := by
  have h : ∀ (l : List (Fin 32)) (u : Units), (l.foldl (fun u ch => releaseChan c ch u) u).slot n = u.slot n := fun l u =>
    (Fix.foldl (P := fun _ => True) (fun _ _ => fix_releaseChan _) l u).slots n trivial
  simp only [releaseSlot]
  show ((Units.updSlot _ n _).slot n) = _
  rw [updSlot_slot_self, h]

/-- The slot after power has gone off (R15, R90). -/
theorem powerOff_slot : (powerOff c n u).slot n = darkSlot { u.slot n with claimed := 0, group := .any } := by
  simp only [powerOff]
  rw [updSlot_slot_self]
  show darkSlot ((releaseSlot c n u).slot n) = _
  rw [releaseSlot_slot]

theorem cutToSettling_slot (h : powered (u.slot n) = true) :
    (cutToSettling c n u).slot n = { darkSlot { u.slot n with claimed := 0, group := .any } with
      state := .settling, settleTimer := startTimer c Config.settling } := by
  rw [cutToSettling, if_pos h, updSlot_slot_self, powerOff_slot]

theorem cutToFault_slot (r : FaultReason) (h : powered (u.slot n) = true) :
    (cutToFault c n r u).slot n = { darkSlot { u.slot n with claimed := 0, group := .any } with
      state := .fault, faultReason := some r, leverMark := (u.slot n).leverMark || !leverClosed c n } := by
  rw [cutToFault, if_pos h]
  simp only [setChassisBit_slot, setSlotBit_slot, updSlot_slot_self, powerOff_slot]
  rfl

theorem cutToFault_slotFlag (r : FaultReason) (h : powered (u.slot n) = true) : slotFlag (cutToFault c n r u) n .fault = true := by
  rw [cutToFault, if_pos h]
  exact setSlotBit_flag n .fault _

theorem cutToFault_chassisFlag (r : FaultReason) (h : powered (u.slot n) = true) : chassisFlag (cutToFault c n r u) .slotFault = true := by
  rw [cutToFault, if_pos h]
  exact setChassisBit_flag .slotFault _

theorem quiesceClaim_slot : (quiesceClaim n u).slot n = { u.slot n with claimed := activeCount u n } := updSlot_slot_self u n _

theorem enterQuiesce_slot (r : QReason) : (enterQuiesce c n r u).slot n =
    { u.slot n with
      claimed := activeCount u n, state := .quiescing, qNumber := (u.slot n).qNumber + 1, qReason := some r, defers := 0,
      qTimer := startTimer c (quiesceTime c n), qRemaining := (quiesceTime c n + 99) / 100, ageStart := none } := by
  simp only [enterQuiesce]
  rw [updSlot_slot_self, quiesceClaim_slot]
  rfl

end cuts

/-! ### Allowances (R13, R78) -/

section allowances
variable (c : Ctx) (w : Nat) (x : Slot)

/-- A comparison of the cap watch changes the watch and its timer alone. -/
theorem watchCompare_eq : watchCompare c x = { x with watch := (watchCompare c x).watch, watchTimer := (watchCompare c x).watchTimer } := by
  unfold watchCompare
  split <;> (try split) <;> (try split) <;> rfl

/-- A new allowance changes the allowance, and at most the cap watch besides. -/
theorem newAllowance_eq : newAllowance c w x =
    { x with allowance := w, watch := (newAllowance c w x).watch, watchTimer := (newAllowance c w x).watchTimer } := by
  unfold newAllowance
  split
  · next h => rw [← h]
  · rw [watchCompare_eq]

@[simp] theorem newAllowance_allowance : (newAllowance c w x).allowance = w := by rw [newAllowance_eq]
@[simp] theorem newAllowance_grant : (newAllowance c w x).grant = x.grant := by rw [newAllowance_eq]
@[simp] theorem newAllowance_state : (newAllowance c w x).state = x.state := by rw [newAllowance_eq]
@[simp] theorem newAllowance_mainEn : (newAllowance c w x).mainEn = x.mainEn := by rw [newAllowance_eq]

/-- No comparison where the allowance stays (R78). -/
@[simp] theorem newAllowance_same : newAllowance c x.allowance x = x := if_pos rfl

end allowances

/-! ### Crossbar (R137) -/

/-- With nothing late the crossbar does what the command says. -/
theorem carryOut_prompt {cmd : XCmd} {u : Units} (h : u.xLate = []) : carryOut cmd u = { u with xbar := crossbarDo cmd u.xbar } := by
  unfold carryOut lateCarry
  rw [h]
  cases u
  subst h
  rfl

/-! ### Restarts (R161) -/

/-- A packet that a restart cuts off keeps its first bytes. -/
theorem cutPackets_prefix (s : State) (l : Fin 13) : (cutPackets s).get l <+: s.tx.get l := by
  rw [cutPackets, ofFn_get]
  split
  · exact List.take_prefix _ _
  · exact List.prefix_rfl

/-- A packet that has been sent whole stays. -/
theorem cutPackets_sent {s : State} {l : Fin 13} (h : sending s l = false) : (cutPackets s).get l = s.tx.get l := by
  rw [cutPackets, ofFn_get, if_neg (by simp [h])]

/-! ### Commands in their shapes

A command is `done` of a handler that waits for a filter or a timer; these say once what its next state is. -/

/-- The next state of a command that leaves the clock, the inputs and the units as `c` and `v`. -/
def State.after (s : State) (c : Ctx) (v : Units) : State := finish s { s with ctx := c, units := v }

/-- Such a command leaves everything else alone when supervision and configuration stay. -/
theorem after_sameOutside (s : State) (c : Ctx) (v : Units) (hs : c.sup = s.ctx.sup) (hc : c.cfg = s.ctx.cfg) :
    SameOutside s (s.after c v) := ⟨rfl, hs, hc, rfl, rfl, rfl, rfl, rfl, rfl, rfl, rfl, rfl, rfl⟩

section shapes
variable (s : State) (f : Ctx → Units → Units)

theorem done_atTimer_settle {t : Timer} {d : Nat} (h : t = some d) : done s (atTimer t (actAndSettle f) s) =
    .next (s.after (atDeadline s.ctx d) (settleAfter (atDeadline s.ctx d) s.units (f (atDeadline s.ctx d) s.units))) := by subst h; rfl

theorem done_atTimer_act {t : Timer} {d : Nat} (h : t = some d) : done s (atTimer t (State.act f) s) =
    .next (s.after (atDeadline s.ctx d) (f (atDeadline s.ctx d) s.units)) := by subst h; rfl

theorem done_onPin_settle {p : Pin} {b : Bool} {d : Nat} (h : Waits s p b d) : done s (onPin p b (actAndSettle f) s) =
    .next (s.after (Shown s p b d) (settleAfter (Shown s p b d) s.units (f (Shown s p b d) s.units))) := by
  rw [onPin_waits h]; rfl

theorem done_onPin_slotEvent {p : Pin} {b : Bool} {d : Nat} {n : Fin 12} (h : Waits s p b d) (hl : listens (s.units.slot n) = true) :
    done s (onPin p b (slotEvent n f) s) =
      .next (s.after (Shown s p b d) (settleAfter (Shown s p b d) s.units (f (Shown s p b d) s.units))) := by
  rw [onPin_waits h, slotEvent, if_pos hl]; rfl

theorem done_onPin_slotAct {p : Pin} {b : Bool} {d : Nat} {n : Fin 12} (h : Waits s p b d) (hl : listens (s.units.slot n) = true) :
    done s (onPin p b (slotAct n f) s) = .next (s.after (Shown s p b d) (f (Shown s p b d) s.units)) := by
  rw [onPin_waits h, slotAct, if_pos hl]; rfl

end shapes

/-! ### What settling leaves alone -/

theorem settleAfter_dark {c : Ctx} {u v : Units} {n : Fin 12} (h : dark (v.slot n) = true) : (settleAfter c u v).slot n = v.slot n :=
  settleAfter_keeps.slots n h

theorem settleAfter_quiet {c : Ctx} {u v : Units} {n : Fin 12} (hq : v.emergency = true ∨ allSuppliesLost v = false)
    (h : quiet (v.slot n) = true) : (settleAfter c u v).slot n = v.slot n := (settleAfter_keeps_quiet hq).slots n h

/-- A change of slot `n` alone, settled, leaves the other slots without power alone. -/
theorem othersStay_settled {c : Ctx} {u v : Units} {n : Fin 12} (h : Fix (fun m => m ≠ n) u v) :
    OthersStay n u (settleAfter c u v).settled := by
  intro m hm hd
  show (settleAfter c u v).slot m = _
  rw [settleAfter_dark (by rw [h.slots m hm]; exact hd), h.slots m hm]

theorem frame_settled {c : Ctx} {u v : Units} (h : Frame u v) : Frame u (settleAfter c u v).settled :=
  (h.trans settleAfter_keeps.frame).settled

/-- Of slots that agree in a view, the list of that view is the same. -/
theorem map_updSlot {α : Type} (g : Slot → α) (u : Units) (n : Fin 12) (f : Slot → Slot) (h : g (f (u.slot n)) = g (u.slot n)) :
    (u.updSlot n f).slots.toList.map g = u.slots.toList.map g := by
  apply List.ext_getElem
  · simp
  · intro i h1 h2
    simp at h1 h2
    simp only [List.getElem_map, Vector.getElem_toList]
    show g ((u.updSlot n f).slot ⟨i, h2⟩) = g (u.slot ⟨i, h2⟩)
    rw [updSlot_slot]
    split
    · next e => subst e; exact h
    · rfl

/-- A change of a slot that keeps its allowance and state changes no term of the account. -/
theorem accountTerms_updSlot (c : Ctx) (u : Units) (n : Fin 12) (f : Slot → Slot)
    (ha : (f (u.slot n)).allowance = (u.slot n).allowance) (hs : (f (u.slot n)).state = (u.slot n).state) :
    accountTerms c (u.updSlot n f) = accountTerms c u := by
  have seat : seatedCount (u.updSlot n f) = seatedCount u := by
    have e : ∀ m, ((u.updSlot n f).slot m).state = (u.slot m).state := by
      intro m
      rw [updSlot_slot]
      split
      · next h => subst h; exact hs
      · rfl
    simp only [seatedCount, isSeated, e]; rfl
  unfold accountTerms
  rw [map_updSlot (fun x => (x.allowance, x.state == .quiescing)) u n f (by simp only [ha, hs])]
  simp only [standbyReservation, seat]
  rfl

/-- A change of a slot that keeps its cut changes no list. -/
theorem budgetLists_updSlot (u : Units) (n : Fin 12) (f : Slot → Slot) (h : cutOf (f (u.slot n)) = cutOf (u.slot n)) :
    budgetLists (u.updSlot n f) = budgetLists u := by
  unfold budgetLists
  rw [map_updSlot cutOf u n f h]
  rfl

/-! ### Takes of an emptied slot -/

@[simp] theorem discardFirst_nil : discardFirst [] = [] := rfl
@[simp] theorem discardFirst_cons (t : Take) (rest : List Take) : discardFirst (t :: rest) = { t with discarded := true } :: rest := rfl

/-- `discardTakes` marks the first take of the slot's link and changes nothing else of that link, nor any other link (R25, R151). -/
theorem discardTakes_links (n : Fin 12) (s : State) (l : Fin 13) :
    (discardTakes n s).links.get l
      = if l = slotLink n then { s.links.get l with takes := discardFirst (s.links.get l).takes } else s.links.get l := by
  simp only [discardTakes, updLink_links, updAt_get, eq_comm]

end Sys2Proof.Machine
end

