-- ==== Sys2Proof/Laws/Memory.lean ====
section
/-! SUPPORT. The laws of chassis memory: a write is read back, leaves every other byte alone, and keeps the canonical form. -/

namespace Sys2Proof.Machine

/-- The address of a memory's first cell is at least `a`. -/
def startsAt (a : Nat) : Memory → Prop
  | [] => True
  | (x, _) :: _ => a ≤ x

theorem wf_cons (x : Nat) (v : Byte) (m : Memory) :
    Memory.wf ((x, v) :: m) = true ↔ startsAt (x + 1) m ∧ v ≠ Config.erased ∧ (m = [] → x < Config.memoryBytes) ∧ (m ≠ [] → Memory.wf m = true) := by
  cases m with
  | nil =>
    simp only [Memory.wf, startsAt, Bool.and_eq_true, decide_eq_true_eq, bne_iff_ne, true_and, forall_const, ne_eq, not_true_eq_false,
      false_imp_iff, and_true]
    exact And.comm
  | cons c rest =>
    obtain ⟨y, w⟩ := c
    have e : (y, w) :: rest ≠ [] := by simp
    simp only [Memory.wf, startsAt, Bool.and_eq_true, decide_eq_true_eq, bne_iff_ne, Nat.succ_le_iff, e, false_imp_iff, ne_eq,
      not_false_eq_true, true_imp_iff, true_and, and_assoc]

theorem wf_bound {m : List Host.Cell} (h : Memory.wf m = true) : ∀ c : Host.Cell, c ∈ m → c.1 < Config.memoryBytes := by
  induction m with
  | nil => simp
  | cons c rest ih =>
    obtain ⟨x, v⟩ := c
    rw [wf_cons] at h
    obtain ⟨hs, -, hb, hw⟩ := h
    cases rest with
    | nil => simpa using hb rfl
    | cons d rest' =>
      obtain ⟨y, w⟩ := d
      have ih' := ih (hw (by simp))
      intro e he
      simp only [List.mem_cons] at he
      rcases he with rfl | he
      · have hy := ih' (y, w) (by simp)
        simp [startsAt] at hs
        simp at hy ⊢
        omega
      · exact ih' e (by simpa using he)

/-- A memory whose cells all lie beyond an address reads as erased there. -/
theorem readCell_before {m : Memory} {a x : Nat} (h : Memory.wf m = true) (hs : startsAt a m) (hx : x < a) : readCell m x = Config.erased := by
  induction m generalizing a with
  | nil => rfl
  | cons c rest ih =>
    obtain ⟨y, v⟩ := c
    simp only [startsAt] at hs
    rw [wf_cons] at h
    obtain ⟨hs', -, -, hw⟩ := h
    have hne : y ≠ x := by omega
    simp only [readCell, hne, if_false]
    cases rest with
    | nil => rfl
    | cons d rest' => exact ih (hw (by simp)) hs' (by omega)

/-- What a write leaves: no address before the first cell comes in, but its own. -/
theorem writeCell_startsAt {m : Memory} {a x : Nat} {v : Byte} (hm : Memory.wf m = true) (hs : startsAt a m) (hx : a ≤ x) :
    startsAt a (writeCell x v m) := by
  cases m with
  | nil => simp only [writeCell]; split <;> simp [startsAt, hx]
  | cons c rest =>
    obtain ⟨y, w⟩ := c
    simp only [startsAt] at hs
    rw [wf_cons] at hm
    simp only [writeCell]
    split
    · split <;> simp [startsAt, hx, hs]
    · split
      · split
        · obtain ⟨hr, -⟩ := hm
          cases rest with
          | nil => simp [startsAt]
          | cons d _ => obtain ⟨z, _⟩ := d; simp [startsAt] at hr ⊢; omega
        · simp [startsAt, hx]
      · simp [startsAt, hs]

/-- A write inside the FRAM keeps the canonical form. -/
theorem writeCell_wf {m : Memory} {x : Nat} {v : Byte} (hm : Memory.wf m = true) (hx : x < Config.memoryBytes) :
    Memory.wf (writeCell x v m) = true := by
  induction m with
  | nil => by_cases h : v = Config.erased <;> simp [writeCell, h, Memory.wf, hx]
  | cons c rest ih =>
    obtain ⟨y, w⟩ := c
    have hm' := hm
    rw [wf_cons] at hm
    obtain ⟨hs, hw, hb, hr⟩ := hm
    have hr' : Memory.wf rest = true := by
      cases rest with
      | nil => rfl
      | cons d r => exact hr (by simp)
    simp only [writeCell]
    split
    · next hlt =>
      split
      · exact hm'
      · next hv =>
        rw [wf_cons]
        exact ⟨by simp [startsAt]; omega, hv, by simp, fun _ => hm'⟩
    · next hge =>
      split
      · next he =>
        subst he
        split
        · exact hr'
        · next hv => rw [wf_cons]; exact ⟨hs, hv, fun _ => hx, fun _ => hr'⟩
      · next hne =>
        rw [wf_cons]
        refine ⟨writeCell_startsAt hr' hs (by omega), hw, fun _ => ?_, fun _ => ih hr'⟩
        omega

/-- A write is read back, and every other byte reads as before. -/
theorem readCell_writeCell {m : Memory} {x a : Nat} {v : Byte} (hm : Memory.wf m = true) :
    readCell (writeCell x v m) a = if a = x then v else readCell m a := by
  induction m with
  | nil =>
    by_cases h : v = Config.erased
    · simp [writeCell, h, readCell]
    · simp only [writeCell, h, if_false, readCell]
      by_cases e : x = a <;> simp [e, eq_comm]
  | cons c rest ih =>
    obtain ⟨y, w⟩ := c
    have hm' := hm
    rw [wf_cons] at hm
    obtain ⟨hs, hw, hb, hr⟩ := hm
    have hr' : Memory.wf rest = true := by
      cases rest with
      | nil => rfl
      | cons d r => exact hr (by simp)
    simp only [writeCell]
    split
    · next hlt =>
      have hread : readCell ((y, w) :: rest) x = Config.erased := readCell_before hm' (a := y) (by simp [startsAt]) hlt
      split
      · next hv =>
        by_cases e : a = x
        · subst e; simp [hread, hv]
        · simp [e]
      · by_cases e : a = x
        · subst e; simp [readCell]
        · simp [readCell, e, Ne.symm e]
    · split
      · next he =>
        subst he
        have hread : readCell rest x = Config.erased := readCell_before hr' hs (by omega)
        split
        · next hv =>
          by_cases e : a = x
          · subst e; simp [hread, hv]
          · simp [readCell, e, Ne.symm e]
        · by_cases e : a = x
          · subst e; simp [readCell]
          · simp [readCell, e, Ne.symm e]
      · next hne =>
        simp only [readCell]
        by_cases e : y = a
        · subst e; simp [Ne.symm hne]
        · simp [e, ih hr']

theorem writeCells_wf {cells : List Host.Cell} {m : Memory} (hm : Memory.wf m = true) (hc : ∀ c : Host.Cell, c ∈ cells → c.1 < Config.memoryBytes) :
    Memory.wf (writeCells cells m) = true := by
  induction cells generalizing m with
  | nil => exact hm
  | cons c rest ih =>
    exact ih (writeCell_wf hm (hc c (by simp))) (fun d hd => hc d (by simp [hd]))

/-- The bytes of an entry stay in the 64-byte page of its address (R165). -/
theorem wrapAddr_page (a i : Nat) : wrapAddr a i / 64 = a / 64 := by
  simp only [wrapAddr]; omega

theorem entryCells_page {e : QEntry} {c : Host.Cell} (h : c ∈ entryCells e) : c.1 / 64 = e.addr / 64 := by
  simp only [entryCells, List.mem_map] at h
  obtain ⟨i, -, rfl⟩ := h
  exact wrapAddr_page _ _

/-- A drained entry inside the FRAM keeps the canonical form. -/
theorem drainEntry_wf {e : QEntry} {m : Memory} (hm : Memory.wf m = true) (he : e.addr < Config.memoryBytes) :
    Memory.wf (drainEntry e m) = true := by
  refine writeCells_wf hm (fun c hc => ?_)
  have h := entryCells_page hc
  simp only [Config.memoryBytes] at he ⊢
  omega

/-- Bytes outside the page of a drained entry read as before. -/
theorem readCell_writeCells_other {cells : List Host.Cell} {m : Memory} {a : Nat} (hm : Memory.wf m = true)
    (hc : ∀ c : Host.Cell, c ∈ cells → c.1 < Config.memoryBytes ∧ c.1 ≠ a) : readCell (writeCells cells m) a = readCell m a := by
  induction cells generalizing m with
  | nil => rfl
  | cons c rest ih =>
    have h := hc c (by simp)
    have := ih (m := writeCell c.1 c.2 m) (writeCell_wf hm h.1) (fun d hd => hc d (by simp [hd]))
    simp only [writeCells, List.foldl] at this ⊢
    rw [this, readCell_writeCell hm, if_neg (Ne.symm h.2)]

end Sys2Proof.Machine
end

