-- ==== Sys2Proof/WellFormed.lean ====
section
/-! DEFINITION. Which commands can come from the hardware at all. Indices are `Fin`, so only two operands need a check. -/

namespace Sys2Proof

/-- A packet holds at least one byte, and at most the 262 of a WRITE of length 255 matter (R159 judges any other count);
an identity read that completes brings all 32 bytes (R37). -/
def Instr.wf : Instr → Bool
  | .packetReceived _ bytes => decide (bytes ≠ [])
  | .identityReadAttemptEnd (.bytes data) => decide (data.length = 32)
  | _ => true

end Sys2Proof
end

