-- ==== Sys2Proof/Tests/Slice0.lean ====
section
/-! SUPPORT. Tests of the model against the spec's own tables and worked cases, and for every obligation with hypotheses a witness: a
concrete state and operands that meet all of them together. -/

namespace Sys2Proof.Tests

-- One theorem at a time: the many kernel evaluations below would else hold a thread each.
set_option Elab.async false

open Sys2Proof.Machine

/-! ### Helpers -/

/-- In service: NORMAL, start-up done, inputs sampled, account built, memory answering, clock at 1000 ms. -/
def liveCtx : Ctx :=
  { Ctx.reset with
    now := 1000,
    sup := { Sup.reset with mode := .normal, phase := .done, built := true, memOk := true },
    pins := { Pins.reset with sampled := true } }

/-- In service, every port OPEN, every slot EMPTY. -/
def live : State := { State.reset with ctx := liveCtx, links := Vector.replicate 13 { Link.reset with isOpen := true } }

def onUnits (f : Units → Units) (s : State) : State := { s with units := f s.units }

def onCtx (f : Ctx → Ctx) (s : State) : State := { s with ctx := f s.ctx }

/-- In service, with slot 4 changed. -/
def slot4 (f : Slot → Slot) : State := onUnits (fun u => u.updSlot 4 f) live

/-- The input's filter waits until 1100 ms to take the level. -/
def waiting (p : Pin) (level : Bool) (s : State) : State :=
  onCtx (fun c => { c with pins := updFilter c.pins (fun _ => { raw := level, level := !level, timer := some 1100 }) p }) s

/-- The input's level is as given. -/
def showing (p : Pin) (level : Bool) (s : State) : State :=
  onCtx (fun c => { c with pins := updFilter c.pins (fun _ => { raw := level, level := level, timer := none }) p }) s

theorem waits_waiting (p : Pin) (level : Bool) (s : State) : Waits (waiting p level s) p level 1100 := by
  have h : getFilter (waiting p level s).ctx.pins p = { raw := level, level := !level, timer := some 1100 } := by
    simp only [waiting, onCtx, getFilter_updFilter, if_true]
  refine ⟨by rw [h], by rw [h]; simp, by rw [h]⟩

/-- Inventory position `i` is VALID with these values. -/
def valid (i : Fin 26) (v : KindVals) (u : Units) : Units :=
  { u with inv := updAt u.inv i (fun e => { e with state := .valid, ident := { Ident.cleared with serial := [0x4B, byteOf i.val], vals := v } }) }

/-- The link's head is this request, judged or not. -/
def headed (l : Fin 13) (r : Request) (judged : Bool) (s : State) : State :=
  s.updLink l (fun x => { x with fifo := [r], judged := judged })

def read (addr len : Nat) : Request := { kind := 0, tag := 1, addr := addr, len := len, data := [] }

def write (addr : Nat) (data : List Byte) : Request := { kind := 1, tag := 2, addr := addr, len := data.length, data := data }

/-- A plain queue entry of link SL4. -/
def plain (i : Nat) : QEntry := { addr := 0x14100 + 64 * i, data := [1, 2], source := some 5 }

/-- What a command makes of a state. -/
def after (i : Instr) (s : State) (p : State → Bool) : Bool := match exec i s with
  | .next t => p t
  | _ => false

/-! ### WellFormed -/

theorem test_wf_empty_packet_refused : (Instr.packetReceived 0 []).wf = false := by decide
theorem test_wf_short_eeprom_refused : (Instr.identityReadAttemptEnd (.bytes (List.replicate 31 0))).wf = false := by decide
theorem test_wf_whole_eeprom_accepted : (Instr.identityReadAttemptEnd (.bytes (List.replicate 32 0))).wf = true := by decide
theorem test_wf_plain_accepted : Instr.writeDrain.wf = true := by decide

/-! ### CRCs. Check values of the published CRC catalogue for "123456789" (CRC-8/AUTOSAR without its final inversion, CRC-8/NRSC-5,
CRC-16/IBM-3740). -/

def digits : List Byte := [0x31, 0x32, 0x33, 0x34, 0x35, 0x36, 0x37, 0x38, 0x39]

theorem test_packet_crc : packetCrc digits = 0x20 := by decide +kernel
theorem test_row_crc : rowCrc digits = 0xF7 := by decide +kernel
theorem test_identity_crc : identityCrc digits = 0x29B1 := by decide +kernel

/-! ### Worked cases of the chapters -/

/-- Chapter 7, the update at 1 s: the curve at 44 °C and 28 °C. -/
theorem test_curve_values : curveValue liveCtx 1 44 = 720 ∧ curveValue liveCtx 1 28 = 345 ∧ curveValue liveCtx 1 (-10) = 300 := by decide +kernel

/-- Chapter 7: quarter counts at U = 1023 for the duties 780, 760, 740, 720. -/
theorem test_quarter_counts : [780, 760, 740, 720].map (fun d => quarterCounts d 1023) = [3194, 3112, 3031, 2949] := by decide

/-- Chapter 7: the per-fan estimates of 60 W fans, and that of 800. -/
theorem test_fan_power : [800, 780, 760, 740, 720].map (fanPower 60) = [31, 29, 27, 25, 23] := by decide

/-- R119: the periods with C + 1 counts for f = 0 to 3. -/
theorem test_dither : [0, 1, 2, 3].map (fun f => (indices 4).map (Gen.highTime { drives := true, c := 7, f := f }))
    = [[7, 7, 7, 7], [8, 7, 7, 7], [8, 7, 8, 7], [8, 8, 8, 7]] := by decide

/-- Chapter 6, "A Blade Heating Up", report 5: count 2, readings 84 and -90 over 70, 77, 64. -/
theorem test_report_positions :
    newReadings [some 70, some 77, some 64, none] 2 [2, 84, 0xA6, 0, 0] = [some 84, some 77, none, none] := by decide

/-- Four supplies of 2000 W, with PSU2 in the state given. -/
def supplied (two : SupplyState) (u : Units) : Units :=
  { u with supplies := Vector.ofFn (fun k =>
      { state := if k = 2 then two else .ok, identCap := 2000, counted := if k = 2 ∧ two ≠ .ok then 0 else 2000 }) }

/-- Row 0 with another redundancy policy. -/
def withPolicy (p : Byte) (c : Ctx) : Ctx :=
  { c with cfg := { c.cfg with rows := updAt c.cfg.rows 0 (fun b => p :: b.tail) } }

/-- R46, its table: raw capacity under N0, N1 and FEED, with PSU2 OK and with PSU2 FAILED. -/
theorem test_raw_capacity :
    [0, 1, 2].map (fun p => rawCapacity (withPolicy p liveCtx) (supplied .ok Units.reset)) = [8000, 6000, 4000]
      ∧ [0, 1, 2].map (fun p => rawCapacity (withPolicy p liveCtx) (supplied .failed Units.reset)) = [6000, 4000, 2000] := by decide +kernel

/-- Chapter 3: N1 with derate 95 %: 5700 W, and 3800 W with PSU2 FAILED. -/
theorem test_usable : usable liveCtx (supplied .ok Units.reset) = 5700 ∧ usable liveCtx (supplied .failed Units.reset) = 3800 := by
  decide +kernel

/-- R32 and 12.2: byte order of a cleared mask. -/
theorem test_clear_mask : clearMask 0x2030 0x2031 [0x02, 0x30] = 0x00300200 := by decide +kernel

/-- R165: a WRITE at the last byte of a page goes on at its start. -/
theorem test_wrap : writeSpan 0x1013F 3 = [0x1013F, 0x10100, 0x10101] := by decide

/-! ### One step each -/

/-- The blade of slot 4: VALID, 400 to 800 W, trip 85 °C, class 2, four lanes. -/
def blade4 (u : Units) : Units := valid 4 (.blade 800 400 85 2 4) u

/-- Slot 4 in a state with main power of 600 W, its lever closed, PRES_L and PGOOD asserted, supplies to spare. -/
def running (st : SlotState) (f : Slot → Slot) : State :=
  showing (.pgood 4) true (showing (.presL 4) true (showing (.presS 4) true (onUnits (fun u => supplied .ok (blade4 u))
    (onUnits (fun u => { u with grantOrder := [4] })
      (slot4 (fun x => f { x with state := st, grant := 600, allowance := 600, mainEn := true, stbyEn := true }))))))

/-- Chapter 1, "An Ejection With a Deferral", 0 s: quiesce number 7 after 6, EJECT, allowance kept. -/
theorem test_ejection : after (.leverOpening 4) (waiting (.presS 4) false (running .on (fun x => { x with qNumber := 6 })))
    (fun t => (t.units.slot 4).state == .quiescing && (t.units.slot 4).qNumber == 7 && (t.units.slot 4).qReason == some .eject
      && (t.units.slot 4).allowance == 600 && (t.units.slot 4).qTimer == some 11100 && (t.units.slot 4).qRemaining == 100) = true := by
  decide +kernel

/-- R11, R56: a grant lowered from 600 to 550 W in a slot capped at 500 W frees nothing, and the rest of the cut is restored out of the
headroom there is. -/
theorem test_lowered_grant_restores :
    let s := onUnits (fun u => { (u.updSlot 4 (fun x => { x with allowance := 500 })) with capped := [4] }) (running .on id)
    let u := settleAfter s.ctx s.units (changeGrant s.ctx 4 550 s.units)
    (u.slot 4).grant = 550 ∧ (u.slot 4).allowance = 550 ∧ u.capped = [] := by decide +kernel

/-- Slot 4 ON with this allowance, the account drawn down by it. -/
def drawn (w : Nat) (s : State) : State := onUnits (fun u => u.updSlot 4 (fun x => { x with grant := w, allowance := w })) s

/-- R54, R65: while headroom is below 0 a power request changes the wait queue and no term of the account, so nothing is capped, though a
recomputation would cap slot 4. -/
theorem test_request_in_deficit_caps_nothing :
    let s := drawn 5530 (onUnits (fun u => u.updSlot 5 (fun x => { x with state := .identified })) (running .on id))
    let u := settleAfter s.ctx s.units (enterWaitPower s.ctx 5 400 s.units)
    headroom s.ctx u < 0 ∧ u.waitQ.length = 1 ∧ (u.slot 4).allowance = 5530 ∧ (deficitHandling s.ctx u).capped = [4] := by decide +kernel

/-- R48, R50: the read that raises port 0 from 10 to 40 W frees the key of UPL1, whose port would need 20 of the 30 W of headroom: it stays
disabled, and slot 4 goes on waiting. -/
theorem test_reread_power_before_enable :
    let s := drawn 5490 (onUnits (fun u =>
      let u := valid 22 (.uplink 4 10) u
      let u := { u with
        inv := updAt u.inv 23 (fun e => { e with state := .duplicate, ident := { (u.inv.get 22).ident with vals := .uplink 4 20 } }),
        chans := Vector.ofFn (fun ch =>
          if ch.val < 4 then { Chan.reset with inUse := true, state := .assigned, held := some (if ch = 0 then 4 else 5, ⟨ch.val % 4, by omega⟩) }
          else u.chans.get ch),
        upWait := [4] }
      u.updPort 0 (fun x => { x with state := .up, enable := true, power := 10 }))
        (showing (.uplLink 1) true (showing (.uplLink 0) true (running .on (fun x => { x with claimed := 2 })))))
    let u := readEnds s.ctx 10 (.ok { Ident.cleared with serial := [0x4E], vals := .uplink 4 40 }) s.units
    headroom s.ctx s.units = 30 ∧ portTerm u = 40 ∧ (u.ports.get 1).state = .up ∧ (u.ports.get 1).enable = false ∧ u.upWait = [4] := by
  decide +kernel

/-- R179: ones at the unassigned positions of an event word are not written. -/
theorem test_event_words_written :
    let u := { Units.reset with slotEvents := Vector.replicate 12 0xFFFFFFFF, chassisEvent := 0xFFFFFFFF }
    recBytes liveCtx u (.slotEvent 3) = [0xFF, 0x07, 0, 0] ∧ recBytes liveCtx u .chassisEvent = [0xFF, 0xFF, 0x7F, 0] := by decide +kernel

/-- Chapter 1, the same sequence at 17 s and 18 s: a READY with number 6 is STALE, one with number 7 ends the quiesce. -/
theorem test_ready_numbers :
    let s := running .quiescing (fun x => { x with qNumber := 7, qReason := some .eject, qTimer := some 9000 })
    (takeAnswer s.ctx 4 [6, 1, 0, 9] s.units).1 = .stale ∧ (takeAnswer s.ctx 4 [7, 1, 0, 9] s.units).1 = .accepted
      ∧ ((takeAnswer s.ctx 4 [7, 1, 0, 9] s.units).2.slot 4).state = .settling := by decide +kernel

/-- Chapter 5, "A Charge and Its First Samples": PGOOD taken 63 ms after the grant. -/
theorem test_charge_time : after (.pgoodAssertion 4) (waiting (.pgood 4) true
      (running .charging (fun x => { x with chargeStart := some 1037, chargeTimer := some 1237 })))
    (fun t => (t.units.slot 4).state == .on && (t.units.slot 4).lastCharge == 63 && (t.units.slot 4).chargeTimer == none) = true := by
  decide +kernel

/-- Chapter 5, sample 12: a ring whose sum was 3950 loses 410 and takes 1023; 570 W is over floor(450 × 110 / 100) = 495 W. -/
theorem test_sample_over : after (.senseConversion 4 1023)
      (onUnits (fun u => { u with senseNext := 4 })
        (running .on (fun x => { x with grant := 450, allowance := 450, ring := [410, 415, 420, 418, 421, 419, 1023, 424] })))
    (fun t => drawAverage (t.units.slot 4) == 570 && (t.units.slot 4).watch == .over && (t.units.slot 4).watchTimer == some 3000) = true := by
  decide +kernel

/-- R78: a power request that lowers the grant to 500 W and leaves an allowance of 400 W makes no comparison; one to 400 W of an allowance of
600 W does (450 W is over floor(400 × 110 / 100) = 440 W). -/
theorem test_compare_at_change : [(400, [1, 0xF4, 1, 0, 0, 0, 0, 1]), (600, [1, 0x90, 1, 0, 0, 0, 0, 1])].map (fun x =>
      let s := running .on (fun y => { y with allowance := x.1, ring := List.replicate 8 450 })
      ((takePower s.ctx 4 x.2 s.units).2.slot 4).watch) = [.clear, .over] := by decide +kernel

/-- Chapter 5, "A Trip While Running", fault first. -/
theorem test_trip : after (.railFltAssertion 4) (waiting (.railFlt 4) true (running .on id))
    (fun t => (t.units.slot 4).state == .fault && (t.units.slot 4).faultReason == some .overcurrent && (t.units.slot 4).stbyEn
      && !(t.units.slot 4).mainEn && slotFlag t.units 4 .fault && chassisFlag t.units .slotFault) = true := by decide +kernel

/-- Chapter 11, "A Manager Stall", 13 s: FAILSAFE and HEARTBEAT_LATE; zones below 800 rise to it. -/
theorem test_stall : after .heartbeatTimerExpiry (onUnits (fun u => u.updZone 0 (fun x => { x with duty := 300 }))
      (live.setSup (fun x => { x with hbTimer := some 13000, hbValue := some 0x41, served := true })))
    (fun t => t.ctx.sup.mode == .failsafe && !t.ctx.sup.served && chassisFlag t.units .heartbeatLate && chassisFlag t.units .failsafe
      && (t.units.zones.get 0).duty == 800 && t.ctx.now == 13000) = true := by decide +kernel

/-- Chapter 2, "A Fan Pulled During Its Read", 6 ms: after a failed first attempt the bus waits 10 ms. -/
theorem test_retry : after (.identityReadAttemptEnd .noAcknowledge) (onUnits (fun u => { u with busOp := some (.read 7 1 none false) }) live)
    (fun t => t.units.busOp == some (.read 7 1 (some 1010) false)) = true := by decide +kernel

/-- R122: 22 pulses are 660 rpm, below 900; chapter 7, "FAN3 stops", third low gate: FAILED with FAN_FAULT. -/
theorem test_third_low_gate : after .tachGateClose (onUnits (fun u =>
      { (u.updFan 3 (fun x => { x with state := .running, whole := true, count := 22, lowRun := 2, rated := 60 })) with
        gateTimer := some 1000, zones := updAll u.zones (fun x => { x with gateOk := true }) }) (showing (.bay 7) true live))
    (fun t => (t.units.fans.get 3).state == .failed && fanSpeed (t.units.fans.get 3) == 660 && chassisFlag t.units .fanFault) = true := by
  decide +kernel

/-- R159: a READ of 64 bytes at view address 0x080 with tag 2 reaches the FIFO; a packet of one byte is a link error. -/
theorem test_packets :
    after (.packetReceived 5 (requestPacket 0 0 2 0x80 64 [])) live
        (fun t => (t.links.get 5).fifo == [{ kind := 0, tag := 2, addr := 0x80, len := 64, data := [] }]) = true
      ∧ after (.packetReceived 5 [0xA5]) live (fun t => t.units.linkErr.get 5 == 1 && slotFlag t.units 4 .linkError) = true := by
  decide +kernel

/-- Chapter 10, steps 0 and 1: five entries wait, the pointer stands at 4, CM and SL5 wait; SL5 stands first. -/
def admissionCase : State :=
  { headed 6 (write 0x100 (List.replicate 8 7)) true (headed 0 (write 0x30100 (List.replicate 8 7)) true live) with
    wq := [plain 0, plain 1, plain 2, plain 3, plain 4], arb := 4 }

theorem test_admission_order : firstWaiting admissionCase = some 6 ∧ mayAdmit admissionCase 6 = true ∧ mayAdmit admissionCase 0 = false := by
  decide +kernel

/-- Chapter 8, step 6: the CONNECT of UP0.3 for lane 1 of slot 4 drops that lane's connection to UP1.0. -/
theorem test_crossbar_drops_lane :
    let x := crossbarDo (.connect 3 4 1) (crossbarDo (.connect 8 4 1) (Vector.replicate 32 none))
    x.get 3 = some (4, 1) ∧ x.get 8 = none := by decide +kernel

/-- R169 and R177: without memory the mode is FAILSAFE and the ports are OPEN. -/
theorem test_absent_memory : after (.deviceIdRead false) State.reset
    (fun t => t.ctx.sup.mode == .failsafe && (t.links.get 12).isOpen && chassisFlag t.units .restart) = true := by decide +kernel

/-- R173: after the answer the rows are read in seven internal reads. -/
theorem test_rows_asked : after (.deviceIdRead true) State.reset (fun t => t.reads.length == 7 && t.ctx.sup.phase == .rows) = true := by
  decide +kernel

/-- R4: a present enabled slot with its lever closed is in SEATING for 200 ms. -/
theorem test_arrival : after (.presLArrival 4) (waiting (.presL 4) true (showing (.presS 4) true live))
    (fun t => (t.units.slot 4).state == .seating && (t.units.slot 4).seatTimer == some 1300) = true := by decide +kernel

/-! ### Witnesses of the obligations' hypotheses

One theorem per obligation with hypotheses, named after it; where an obligation has several clauses, each has its witness, at the ends of its
ranges. -/

/-- No waiting command: a tick. -/
theorem wit_StepTakesTheFrontCommand : State.reset.pending = [] := rfl

/-- A state with a queue at its upstream share, a full FIFO, a judged head and a command waiting. -/
def busy : State :=
  { live with
    pending := [.headJudgment 5], port := some .drain,
    wq := [plain 0, plain 1, plain 2, plain 3, plain 4, plain 5],
    links := (live.updLink 5 (fun x => { x with fifo := List.replicate 4 (read 0x80 64), judged := true })).links }

theorem wit_QueueAndFifoBoundsKept : QueueShare busy ∧ FifoBound busy ∧ ∃ t, step busy = .next t :=
  ⟨by unfold QueueShare; decide, by unfold FifoBound; decide +kernel, _, rfl⟩

theorem wit_ShadowRowsAlwaysPass : RowsPass busy ∧ ∃ t, step busy = .next t := ⟨by unfold RowsPass; decide +kernel, _, rfl⟩

theorem wit_MemoryStaysSound : MemorySound busy ∧ ∃ t, step busy = .next t :=
  ⟨by unfold MemorySound; exact ⟨by decide, by decide⟩, _, rfl⟩

/-- A warm restart has begun: ALERT keeps its level. -/
def restarted : State := { beginWarm .restartLine { live with alert := true } with pending := [.deviceIdRead true] }

theorem wit_AlertFollowsTheEventWord : AlertFollows live ∧ (∃ t, step live = .next t)
    ∧ ∃ t, step restarted = .next t ∧ t.ctx.sup.cold = false ∧ alertLive t.ctx = false :=
  ⟨by unfold AlertFollows; decide +kernel, ⟨_, rfl⟩, _, rfl, rfl, rfl⟩

theorem busy_headsSound : HeadsSound busy := by
  refine ⟨by decide, fun l hl => ?_, by decide +kernel⟩
  by_cases h : l = 5
  · subst h; exact ⟨_, _, rfl, by decide +kernel⟩
  · exact absurd hl (by revert l; decide +kernel)

theorem busy_staysHome : WritesStayHome busy := by
  intro e he l hl i hi
  have : e ∈ [plain 0, plain 1, plain 2, plain 3, plain 4, plain 5] := he
  simp only [List.mem_cons, List.not_mem_nil, or_false] at this
  rcases this with rfl | rfl | rfl | rfl | rfl | rfl <;>
    (obtain rfl : (5 : Fin 13) = l := by simpa [plain] using hl) <;>
    (simp only [plain, List.length_cons, List.length_nil] at hi; interval_cases i <;> decide +kernel)

theorem wit_SlotLinksWriteOnlyTheirPage : HeadsSound busy ∧ WritesStayHome busy ∧ (∃ t, step busy = .next t) ∧ MemorySound busy
    ∧ busy.port = some .drain ∧ (∃ e rest, busy.wq = e :: rest ∧ e.source = some (slotLink 4)) :=
  ⟨busy_headsSound, busy_staysHome, ⟨_, rfl⟩, wit_MemoryStaysSound.1, rfl, _, _, rfl, rfl⟩

/-- The last packet of link SL4 has had time to go out, or is being sent. -/
def respondedAt (t : Nat) : State := { live with tx := updAt live.tx 5 (fun _ => [1, 2, 3]), sentAt := updAt live.sentAt 5 (fun _ => some t) }

theorem wit_ColdStartBeginsFromColdValues : sending (respondedAt 998) 5 = false ∧ sending (respondedAt 999) 5 = true := by decide +kernel

theorem wit_WarmRestartKeepsTheLatches : sending (respondedAt 998) 5 = false ∧ sending (respondedAt 1000) 5 = true := by decide +kernel

theorem wit_DeviceIdDecidesStartUp : State.reset.ctx.sup.phase = .deviceId := rfl

/-- Step 2 of start-up, its last read at the port: rows 0, 13, 20 and those of the curve of Z0 stand in memory, the pair of Z0 in its order or
out of it; every other row fails. -/
def loading (d2 : Nat) (run : Bool) : State :=
  let rows : List (Nat × List Byte) := [(0, defaultRow 0), (13, defaultRow 13), (14, (defaultRow 14).take 6 ++ le2 d2 ++ (defaultRow 14).drop 8),
    (15, defaultRow 15), (20, defaultRow 20)]
  showing (.bay 4) true { State.reset with
    port := some .internal, reads := [.rows 384 16 true], pwm := { State.reset.pwm with running := run },
    mem := rows.foldl (fun m r => writeCells ((rowImage r.2).zipIdx.map (fun b => (16 * r.1 + b.2, b.1))) m) [] }

theorem wit_ConfigurationLoadFillsTheShadow :
    (∀ r ∈ [IRead.rows 0 64 false, .records 0x1000 32 false],
        ({ loading 750 false with reads := [r, .rows 384 16 true] }.reads = r :: [.rows 384 16 true]))
      ∧ ∀ b, (loading 750 b).port = some .internal ∧ (loading 750 b).reads = .rows 384 16 true :: [] ∧ (loading 750 b).pwm.running = b
        ∧ (∀ r : Fin 25, rowLoads r (readSpan [] (loading 750 b).mem (16 * r.val) 16) = decide (r.val ∈ [0, 13, 14, 15, 20]))
        ∧ (getFilter (loading 750 b).ctx.pins (.bay (fanBay 0))).raw = true ∧ ((loading 750 b).units.zones.get (fanZone 0)).duty = 1000
        ∧ (getFilter (loading 750 b).ctx.pins (.bay (fanBay 5))).raw = false := by decide +kernel

/-- R173: row 0 loads and row 1 does not; the curve of Z0 loads with d2 at d3 = 750, and takes its defaults (d2 = 450) at 751. -/
theorem test_rows_load : ∀ x ∈ [((750 : Nat), false, (750 : Nat)), (751, true, 450)],
    after .internalReadComplete (loading x.1 false) (fun t => !t.ctx.cfg.fault.get 0 && t.ctx.cfg.fault.get 1
      && t.ctx.cfg.fault.get 14 == x.2.1 && t.ctx.cfg.fault.get 15 == x.2.1 && wordAt (t.ctx.cfg.rows.get 14) 6 == x.2.2) = true := by
  decide +kernel

/-- Step 3 of a start-up that is cold or warm, its last read at the port, with slot `m` and the fan of FAN0 present. -/
def building (cold : Bool) (m : Fin 12) : State :=
  showing (.bay 4) true (showing (.presL m) true
    ({ State.reset with port := some .internal, reads := [.records 0x1000 32 true] }.setSup (fun x =>
      { x with memOk := true, phase := .records, cold := cold })))

/-- Slot `n` is adopted, and slot `m` is present. -/
def adopting (n m : Fin 12) : State :=
  showing (.presL m) true (showing (.presL n) true
    ({ State.reset with port := some .internal, reads := [.adopt n] }.setSup (fun x => { x with memOk := true, phase := .adopt n, cold := false })))

/-- The row of slot 4 disables it. -/
def disabled4 (s : State) : State := s.setCfg (fun g => { g with rows := updAt g.rows 6 (fun b => b.set 0 0) })

theorem wit_StartUpPlacesOrAdoptsTheSlots :
    ((building true 4).port = some .internal ∧ (building true 4).reads = .records 0x1000 32 true :: [] ∧ (building true 4).ctx.sup.cold = true
        ∧ (building true 4).ctx.sup.memOk = true ∧ rowEnable (building true 4).ctx 4 = true
        ∧ (getFilter (building true 4).ctx.pins (.presL 4)).raw = true
        ∧ (building true 4).units = { Units.reset with
            linkErr := (building true 4).units.linkErr, slotEvents := (building true 4).units.slotEvents,
            chassisEvent := (building true 4).units.chassisEvent, xbar := (building true 4).units.xbar,
            xLate := (building true 4).units.xLate, xChances := (building true 4).units.xChances })
      ∧ (∀ m ∈ [(0 : Fin 12), 11], (building false m).port = some .internal ∧ (building false m).reads = .records 0x1000 32 true :: []
        ∧ (building false m).ctx.sup.cold = false ∧ (building false m).ctx.sup.memOk = true
        ∧ ∀ j, j ≤ m → ((getFilter (building false m).ctx.pins (.presL j)).raw = true ↔ j = m))
      ∧ ((adopting 0 11).port = some .internal ∧ (adopting 0 11).reads = .adopt 0 :: [] ∧ (adopting 0 11).ctx.sup.memOk = true
        ∧ (∀ j, 0 < j → j ≤ 11 → (wantsAdoption (adopting 0 11).ctx j = true ↔ j = 11)) ∧ rowEnable (adopting 0 11).ctx 0 = true
        ∧ presLLevel (adopting 0 11).ctx 0 = true ∧ rowEnable (disabled4 (adopting 4 11)).ctx 4 = false
        ∧ (∀ j, 4 < j → j ≤ 11 → (wantsAdoption (disabled4 (adopting 4 11)).ctx j = true ↔ j = 11))
        ∧ presLLevel (disabled4 (adopting 4 11)).ctx 4 = true)
      ∧ (adopting 11 11).reads = .adopt 11 :: [] ∧ ∀ m, 4 < m → wantsAdoption (adopting 4 4).ctx m = false :=
  ⟨⟨rfl, rfl, rfl, rfl, by decide +kernel, by decide +kernel, rfl⟩, by decide +kernel, by decide +kernel, by decide +kernel⟩

/-- An audit runs, its read of row `r` at the port; memory lists nothing, so every row differs from its shadow. -/
def auditing (r : Fin 25) : State := { live.setCfg (fun g => { g with auditing := true }) with port := some .internal, reads := [.audit r] }

theorem wit_AuditRunsOverTheRows :
    (∀ b, (live.setCfg (fun g => { g with auditTimer := some 9000, auditing := b })).ctx.cfg.auditTimer = some 9000
        ∧ (live.setCfg (fun g => { g with auditTimer := some 9000, auditing := b })).ctx.cfg.auditing = b)
      ∧ ∀ r : Fin 25, (auditing r).port = some .internal ∧ (auditing r).reads = .audit r :: []
        ∧ (auditing r).ctx.cfg.changed.get r = false ∧ pendingRec (auditing r).wb (.row r) = false
        ∧ readSpan (auditing r).wq (auditing r).mem (16 * r.val) 16 ≠ rowImage ((auditing r).ctx.cfg.rows.get r) := by decide +kernel

/-- A link with `k` requests in its FIFO. -/
def fifoOf (k : Nat) : State := live.updLink 5 (fun x => { x with fifo := List.replicate k (read 0x80 64) })

theorem wit_PacketJoinsTheFifoOrCounts :
    ((15 < 16 ∧ 1 < 4 ∧ 3 < 4 ∧ 0xFFFFFF < 0x1000000 ∧ 255 < 256 ∧ (List.replicate 255 (0 : Byte)).length = (if 1 = 1 then 255 else 0))
        ∧ (([] : List Byte).length = (if 0 = 1 then 64 else 0))
        ∧ ([0x5A] : List Byte).getD 0 0 ≠ 0xA5
        ∧ ([0xA5, 0, 0, 0, 0, 1] : List Byte).length ≠ (if byteAt [0xA5, 0, 0, 0, 0, 1] 1 / 4 % 4 = 1 then 7 + byteAt [0xA5, 0, 0, 0, 0, 1] 5 else 7)
        ∧ (0 : Byte) ≠ packetCrc [0xA5, 0, 0, 0, 0, 1])
      ∧ (parsePacket (requestPacket 0 0 1 0x80 64 []) = some (read 0x80 64) ∧ ((fifoOf 3).links.get 5).isOpen = true
        ∧ ((fifoOf 3).links.get 5).fifo.length < 4)
      ∧ parsePacket [] = none ∧ (State.reset.links.get 0).isOpen = false ∧ 4 ≤ ((fifoOf 4).links.get 5).fifo.length := by decide +kernel

/-- Heads that each test decides, and ones that wait. -/
theorem wit_HeadIsJudgedInOrder : (1 ≤ (read 0x3FFC0 64).len ∧ readTarget 0 (read 0x3FFC0 64) = some 0x3FFC0
    ∧ readTarget (slotLink 11) (read 0xFC0 64) = some 0x1BFC0 ∧ readTarget (slotLink 11) (read 0x1FFF 1) = some 0x1FFF)
    ∧ ∀ r ∈ [{ read 0 1 with kind := 2 }, { read 0 1 with kind := 3 }, read 0 0, read 0 65, read 0 64,
      read 0x2000 1, write 0x80 [1], write 0x5F [1], write 0x57 [1]],
    ((headed 5 r false live).links.get 5).fifo = r :: [] ∧ ((headed 5 r false live).links.get 5).judged = false
      ∧ ((headed 5 r false live).links.get 5).takes = [] := by decide +kernel

/-- The head of a link is a judged WRITE of `data` at `addr`, and the write queue holds `k` entries. -/
def writing (l : Fin 13) (addr : Nat) (data : List Byte) (k : Nat) : State :=
  { headed l (write addr data) true live with wq := (List.range k).map plain }

theorem writing_waits (l : Fin 13) (addr : Nat) (data : List Byte) (k a : Nat)
    (hl : ((writing l addr data k).links.get l) = { isOpen := true, fifo := [write addr data], judged := true, takes := [] })
    (h : writeTarget l (write addr data) = some a) : WriteWaits (writing l addr data k) l (write addr data) a :=
  { head := ⟨[], by rw [hl]⟩
    judged := by rw [hl]
    free := by rw [hl]
    kind := rfl
    target := h
    rows := fun _ => rfl }

theorem wit_AdmittedWriteEntersTheQueue :
    (WriteWaits (writing 5 0x40 [1] 4) 5 (write 0x40 [1]) 0x14040 ∧ HasRoom (writing 5 0x40 [1] 4) 5
        ∧ byteKind 5 0x14040 ≠ .heartbeat ∧ byteKind 5 0x14040 ≠ .eventWord ∧ commitsOf 5 (writeSpan 0x14040 1) = [])
      ∧ WriteWaits (writing 0 0x18F [1] 5) 0 (write 0x18F [1]) 0x18F ∧ HasRoom (writing 0 0x18F [1] 5) 0
        ∧ byteKind 0 0x18F ≠ .heartbeat ∧ byteKind 0 0x18F ≠ .eventWord ∧ commitsOf 0 (writeSpan 0x18F 1) = [] :=
  ⟨⟨writing_waits _ _ _ _ _ (by decide +kernel) (by decide +kernel), by unfold HasRoom; decide +kernel, by decide +kernel, by decide +kernel,
      by decide +kernel⟩,
    writing_waits _ _ _ _ _ (by decide +kernel) (by decide +kernel), by unfold HasRoom; decide +kernel, by decide +kernel, by decide +kernel,
    by decide +kernel⟩

def powerOn : List Byte := [1, 0xC2, 1, 0, 0, 0, 0, 0x21]

/-- A whole record of slot 4, all zeros. -/
def zeros (tk : TakeRec) : List Byte := List.replicate (takeSpan tk).2 0

/-- A take of slot 4's link waits for its internal read; the copy lacks all but the commit byte. -/
def taking (tk : TakeRec) (discarded : Bool) : State :=
  { live with
    port := some .internal, reads := [.take 5],
    links := updAt live.links 5 (fun x =>
      { x with takes := [{ record := tk, copy := List.replicate ((takeSpan tk).2 - 1) none ++ [some 7], discarded := discarded }] }) }

/-- Each of the five records, whole; the last byte alone of a power request and of a claim; each take's end, discarded or not. -/
theorem wit_CommittedBladeRecordsAreTaken :
    (∀ tk ∈ linkRecords (slotLink 4),
      WriteWaits (writing (slotLink 4) ((takeSpan tk).1 - 0x14000) (zeros tk) 4) (slotLink 4) (write ((takeSpan tk).1 - 0x14000) (zeros tk))
          (takeSpan tk).1
        ∧ HasRoom (writing (slotLink 4) ((takeSpan tk).1 - 0x14000) (zeros tk) 4) (slotLink 4)
        ∧ (write ((takeSpan tk).1 - 0x14000) (zeros tk)).len = (takeSpan tk).2
        ∧ (write ((takeSpan tk).1 - 0x14000) (zeros tk)).data.length = (write ((takeSpan tk).1 - 0x14000) (zeros tk)).len)
      ∧ (∀ x ∈ [((0x47 : Nat), TakeRec.power 4), (0x53, .claim 4)],
        WriteWaits (writing (slotLink 4) x.1 [7] 0) (slotLink 4) (write x.1 [7]) (0x14000 + x.1)
          ∧ HasRoom (writing (slotLink 4) x.1 [7] 0) (slotLink 4) ∧ byteKind (slotLink 4) (0x14000 + x.1) = .stored
          ∧ commitsOf (slotLink 4) (writeSpan (0x14000 + x.1) 1) = [x.2]
          ∧ wholeCopy (copyOf [{ addr := 0x14000 + x.1, data := [7], source := some (slotLink 4) }] x.2) = none)
      ∧ ∀ tk ∈ linkRecords (slotLink 4), ∀ d, (taking tk d).port = some .internal ∧ (taking tk d).reads = .take (slotLink 4) :: []
        ∧ ((taking tk d).links.get (slotLink 4)).takes
          = [{ record := tk, copy := List.replicate ((takeSpan tk).2 - 1) none ++ [some 7], discarded := d }]
        ∧ (List.replicate ((takeSpan tk).2 - 1) (none : Option Byte) ++ [some 7]).length = (takeSpan tk).2 := by
  refine ⟨fun tk h => ?_, fun x h => ?_, by decide +kernel⟩
  · simp only [show linkRecords (slotLink 4) = [.identity 4, .power 4, .report 4, .claim 4, .answer 4] from by decide +kernel,
      List.mem_cons, List.not_mem_nil, or_false] at h
    rcases h with rfl | rfl | rfl | rfl | rfl <;>
      exact ⟨writing_waits _ _ _ _ _ (by decide +kernel) (by decide +kernel), by unfold HasRoom; decide +kernel, by decide +kernel,
        by decide +kernel⟩
  · simp only [List.mem_cons, List.not_mem_nil, or_false] at h
    rcases h with rfl | rfl <;>
      exact ⟨writing_waits _ _ _ _ _ (by decide +kernel) (by decide +kernel), by unfold HasRoom; decide +kernel, by decide +kernel,
        by decide +kernel, by decide +kernel⟩

/-- A manager command. -/
def command (kind target : Byte) : List Byte := [kind, target, 0, 0, 0, 0, 0, 9]

/-- Every kind from 0 to 9, at targets on both sides of the slots and the bays; slots in the states that the commands look at; a bay that is
empty, one that is present, and one whose read runs. -/
theorem wit_ManagerCommandsAreAnswered :
    (∀ k ∈ [(0 : Byte), 1, 2, 3, 4, 5, 6, 7, 8, 9], ∀ target ∈ [(0 : Byte), 11, 12, 25, 26],
      WriteWaits (writing 0 0x2000 (command k target) 4) 0 (write 0x2000 (command k target)) 0x2000
        ∧ HasRoom (writing 0 0x2000 (command k target) 4) 0 ∧ (write 0x2000 (command k target)).len = 8
        ∧ (write 0x2000 (command k target)).data.length = 8
        ∧ byteAt (command k target) 0 = k.toNat ∧ byteAt (command k target) 1 = target.toNat)
      ∧ (∀ st ∈ [SlotState.identified, .on, .waitPower, .charging, .fault, .settling], ((running st id).units.slot 4).state = st)
      ∧ (clampWatts (running .identified id).ctx 4 (running .identified id).units
          (((running .identified id).units.slot 4).lastReq.getD (maxPower (running .identified id).units 4)) = some 800)
      ∧ (25 = (13 : Fin 14).val + 12 ∧ bayLevel live.ctx 13 = false)
      ∧ (bayLevel (showing (.bay 13) true live).ctx 13 = true ∧ readRuns live.units 13 = false)
      ∧ readRuns (onUnits (fun u => { u with busOp := some (.read 13 1 none false) }) live).units 13 = true := by
  refine ⟨fun k hk target ht => ?_, by decide +kernel⟩
  have hb : byteAt (command k target) 0 = k.toNat ∧ byteAt (command k target) 1 = target.toNat := ⟨rfl, rfl⟩
  exact ⟨writing_waits _ _ _ _ _ rfl (by revert ht; revert target; revert hk; revert k; decide +kernel), Or.inl (by simp [writing]), rfl, rfl, hb⟩

/-- Configuration rows that pass, that fail their ranges, and that fail their order (the curve of Z0 with d1 above d2). -/
def badCurve : List Byte := (defaultRow 14).take 4 ++ le2 1000 ++ le2 300 ++ (defaultRow 14).drop 8

theorem wit_RowCommitsAreChecked :
    (∀ x ∈ [((0 : Fin 25), defaultRow 0 ++ [0]), (24, List.replicate 16 0xFF), (14, badCurve ++ [0])],
      WriteWaits (writing 0 (16 * x.1.val) x.2 4) 0 (write (16 * x.1.val) x.2) (16 * x.1.val) ∧ HasRoom (writing 0 (16 * x.1.val) x.2 4) 0
        ∧ (write (16 * x.1.val) x.2).len = 16 ∧ (write (16 * x.1.val) x.2).data.length = 16)
      ∧ rowCheck live.ctx.cfg.rows 0 ((defaultRow 0 ++ [0]).take 15) = .pass
      ∧ rowCheck live.ctx.cfg.rows 24 ((List.replicate 16 0xFF).take 15) = .range
      ∧ rowCheck live.ctx.cfg.rows 14 ((badCurve ++ [0]).take 15) = .order := by
  refine ⟨fun x h => ?_, by decide +kernel⟩
  simp only [List.mem_cons, List.not_mem_nil, or_false] at h
  rcases h with rfl | rfl | rfl <;>
    exact ⟨writing_waits _ _ _ _ _ (by decide +kernel) (by decide +kernel), by unfold HasRoom; decide +kernel, by decide +kernel,
      by decide +kernel⟩

theorem wit_EventBitsClearByOnes :
    (WriteWaits (writing (slotLink 4) 0x60 [1] 0) (slotLink 4) (write 0x60 [1]) 0x14060 ∧ HasRoom (writing (slotLink 4) 0x60 [1] 0) (slotLink 4)
        ∧ byteKind (slotLink 4) 0x14060 = .eventWord)
      ∧ (WriteWaits (writing 0 0x2033 [1] 5) 0 (write 0x2033 [1]) 0x2033 ∧ HasRoom (writing 0 0x2033 [1] 5) 0
        ∧ byteKind 0 0x2033 = .eventWord) ∧ 0x2030 % 4 = 0 :=
  ⟨⟨writing_waits _ _ _ _ _ (by decide +kernel) (by decide +kernel), by unfold HasRoom; decide +kernel, by decide +kernel⟩,
    ⟨writing_waits _ _ _ _ _ (by decide +kernel) (by decide +kernel), by unfold HasRoom; decide +kernel, by decide +kernel⟩, rfl⟩

/-- The byte differs from the last taken value (none), and equals it. -/
theorem wit_HeartbeatWriteServesOnANewValue :
    (WriteWaits (writing 0 0x2020 [9] 0) 0 (write 0x2020 [9]) 0x2020 ∧ HasRoom (writing 0 0x2020 [9] 0) 0
        ∧ (write 0x2020 [9]).data.length = 1 ∧ (writing 0 0x2020 [9] 0).ctx.sup.hbValue ≠ some ((write 0x2020 [9]).data.getD 0 0))
      ∧ WriteWaits ((writing 0 0x2020 [9] 0).setSup (fun x => { x with hbValue := some 9 })) 0 (write 0x2020 [9]) 0x2020
        ∧ HasRoom ((writing 0 0x2020 [9] 0).setSup (fun x => { x with hbValue := some 9 })) 0
        ∧ ((writing 0 0x2020 [9] 0).setSup (fun x => { x with hbValue := some 9 })).ctx.sup.hbValue
          = some ((write 0x2020 [9]).data.getD 0 0) :=
  ⟨⟨writing_waits _ _ _ _ _ (by decide +kernel) (by decide +kernel), by unfold HasRoom; decide +kernel, rfl, by decide +kernel⟩,
    { head := ⟨[], by decide +kernel⟩
      judged := by decide +kernel
      free := by decide +kernel
      kind := rfl
      target := by decide +kernel
      rows := fun _ => rfl }, by unfold HasRoom; decide +kernel, rfl⟩

/-- A full queue; an idle port; a judged READ of CM that stands first after the pointer, with the drain contending too. -/
theorem wit_ArbiterServesInRoundOrder :
    ({ live with wq := (List.range 8).map plain }.wq.length = 8 ∧ live.port = none ∧ live.ctx.sup.memOk = true)
      ∧ (live.wq.length ≠ 8 ∧ ∀ p, contender live p = none)
      ∧ contender { headed 0 (read 0 64) true live with wq := [plain 0] } ⟨(live.arb.val + 1 + 0) % 15, by decide⟩ = some (.read 0)
      ∧ contender { headed 0 (read 0 64) true live with wq := [plain 0] } 14 = some .drain := by decide +kernel

theorem wit_ReadReturnsTheNewestByte :
    let s := { headed 5 (read 0x80 64) true live with port := some (.read 5) }
    s.port = some (.read 5) ∧ (s.links.get 5).fifo = [read 0x80 64] ∧ readTarget 5 (read 0x80 64) = some 0x14080 := by decide +kernel

theorem wit_DrainWritesTheOldestEntry : MemorySound busy ∧ busy.port = some .drain
    ∧ ∃ e rest, busy.wq = e :: rest ∧ e.data.length ≤ 64 := ⟨wit_MemoryStaysSound.1, rfl, _, _, rfl, by decide⟩

/-- One entry of the set. -/
def pendingOne (r : RecId) (armed : Bool) : State :=
  { live.setSup (fun x => { x with restartArmed := armed }) with wb := [{ record := r, content := List.replicate (recSpan r).2 0 }] }

/-- The manager status record with a RESTART accepted, and the budget record, which spans two pages. -/
theorem wit_PlacementTakesTheFirstPlaceable : ∀ x ∈ [(RecId.managerStatus, true), (RecId.budget, false)],
    writeBacksRun (pendingOne x.1 x.2).ctx = true ∧ (pendingOne x.1 x.2).wb.length = 1
      ∧ ∀ e ∈ (pendingOne x.1 x.2).wb, placeable (pendingOne x.1 x.2) e = true := by decide +kernel

theorem wit_FiltersShowOnlyDebouncedLevels : (getFilter live.ctx.pins (.uplLink 3)).raw ≠ true
    ∧ Waits (waiting (.ovr 3) false live) (.ovr 3) false 1100 ∧ Waits (waiting (.railFlt 11) false live) (.railFlt 11) false 1100 :=
  ⟨by decide +kernel, waits_waiting _ _ _, waits_waiting _ _ _⟩

theorem wit_SeatingFollowsTheContacts :
    (Waits (waiting (.presL 4) true live) (.presL 4) true 1100 ∧ listens (live.units.slot 4) = true ∧ (live.units.slot 4).state = .empty)
      ∧ (∀ st ∈ [SlotState.seating, .fault, .on], Waits (waiting (.presS 4) true (slot4 (fun x => { x with state := st, leverMark := true })))
            (.presS 4) true 1100
          ∧ listens ((slot4 (fun x => { x with state := st, leverMark := true })).units.slot 4) = true
          ∧ ((slot4 (fun x => { x with state := st, leverMark := true })).units.slot 4).state = st) :=
  ⟨⟨waits_waiting _ _ _, by decide +kernel⟩, fun st _ => ⟨waits_waiting _ _ _, by revert st; decide +kernel⟩⟩

/-- Slot 4 in a state with main power, and channel 31 on its lane 0; UPL3 is VALID and its port UP. -/
def laned (st : SlotState) (ch : ChanState) : State :=
  onUnits (fun u => { (valid 25 (.uplink 8 12) u).updPort 3 (fun x => { x with state := .up }) with
    chans := updAt u.chans 31 (fun x => { x with inUse := true, state := ch, held := some (4, 0) }) }) (running st id)

/-- Takes of slot 4's link: a power request whose internal read runs, and a thermal report behind it. -/
def twoTakes : List Take :=
  [{ record := .power 4, copy := List.replicate 7 none ++ [some 7], discarded := false },
    { record := .report 4, copy := [1, 50, 0, 0, 0, 0, 0, 9].map some, discarded := false }]

def taken (s : State) : State := s.updLink 5 (fun x => { x with takes := twoTakes })

theorem wit_RemovalEndsEverythingOfTheSlot :
    (∀ st ∈ [SlotState.seating, .on, .fault], ∀ ch ∈ [ChanState.assigned, .switching, .stranded],
      Waits (waiting (.presL 4) false (laned st ch)) (.presL 4) false 1100 ∧ listens ((laned st ch).units.slot 4) = true
        ∧ ((laned st ch).units.slot 4).state = st ∧ lanePlace (laned st ch).units 4 0 = some 31
        ∧ ((laned st ch).units.ports.get (portOf 31)).state ≠ .unavailable ∧ isActive ((laned st ch).units.chans.get 31) = true
        ∧ ((laned st ch).units.chans.get 31).state = ch ∧ ((laned st ch).links.get (slotLink 4)).takes = []
        ∧ ((taken (laned st ch)).links.get (slotLink 4)).takes = twoTakes) :=
  fun st hs ch hc => ⟨waits_waiting _ _ _, by revert hc; revert ch; revert hs; revert st; decide +kernel⟩

/-- R25, R148, R151: the running take of a removed blade writes no result; the report behind it is judged in EMPTY, REFUSED_STATE. -/
theorem test_takes_after_removal : after (.presLLoss 4) (waiting (.presL 4) false
      { taken (laned .on .assigned) with port := some .internal, reads := [.take 5] })
    (fun t => after .internalReadComplete t (fun t => (t.units.slot 4).powerTake == .none && (t.links.get 5).takes == []
      && (t.units.slot 4).reportTake == { seq := 9, outcome := outcomeCode .refusedState })) = true := by decide +kernel

theorem wit_LeverOpeningActsByState : ∀ st ∈ [SlotState.waitPower, .charging, .on, .fault, .seating, .settling],
    Waits (waiting (.presS 4) false (running st id)) (.presS 4) false 1100 ∧ listens ((running st id).units.slot 4) = true
      ∧ presLLevel (waiting (.presS 4) false (running st id)).ctx 4 = true ∧ ((running st id).units.slot 4).state = st
      ∧ allSuppliesLost (running st id).units = false :=
  fun st _ => ⟨waits_waiting _ _ _, by revert st; decide +kernel⟩

/-- Slot 4 mapped to OVR0. -/
def mapped (s : State) : State :=
  s.setCfg (fun g => { g with rows := updAt g.rows 6 (fun b => b.set 4 1) })

/-- Slot 5 has main power and slot 6 waits for it, both unmapped. -/
def unmapped (s : State) : State :=
  onUnits (fun u => { (u.updSlot 5 (fun x => { x with state := .on, grant := 300, allowance := 300, mainEn := true })).updSlot 6
      (fun x => { x with state := .waitPower }) with
    waitQ := [{ slot := 6, watts := 300, isRaise := false, cls := 1, skips := 0, join := 0 }] }) s

theorem wit_OverrideHoldsEveryMappedSlot :
    Waits (waiting (.ovr 0) true (unmapped (mapped (running .on id)))) (.ovr 0) true 1100
      ∧ slotLine (unmapped (mapped (running .on id))).ctx 4 = some 0 ∧ powered ((mapped (running .on id)).units.slot 4) = true
      ∧ ((mapped (running .waitPower id)).units.slot 4).state = .waitPower ∧ dark ((mapped (running .on id)).units.slot 3) = true
      ∧ slotLine (unmapped (mapped (running .on id))).ctx 5 ≠ some 0 ∧ powered ((unmapped (mapped (running .on id))).units.slot 5) = true
      ∧ after (.overrideAssertion 0) (waiting (.ovr 0) true (unmapped (mapped (running .on id))))
        (fun t => chassisFlag t.units .emergencyShed == false) = true
      ∧ slotLine (unmapped (mapped (running .on id))).ctx 6 ≠ some 0
      ∧ ((unmapped (mapped (running .on id))).units.slot 6).state = .waitPower
      ∧ ∀ e ∈ (unmapped (mapped (running .on id))).units.waitQ, e.slot = 6 → e.isRaise = false :=
  ⟨waits_waiting _ _ _, by decide +kernel⟩

theorem wit_PowerGoodEndsTheCharge : ∀ st ∈ [SlotState.charging, .standby, .fault],
    Waits (waiting (.pgood 4) true (running st (fun x => { x with chargeStart := some 900 }))) (.pgood 4) true 1100
      ∧ listens ((running st (fun x => { x with chargeStart := some 900 })).units.slot 4) = true
      ∧ ((running st (fun x => { x with chargeStart := some 900 })).units.slot 4).state = st
      ∧ ((running st (fun x => { x with chargeStart := some 900 })).units.slot 4).chargeStart = some 900 :=
  fun st _ => ⟨waits_waiting _ _ _, by revert st; decide +kernel⟩

theorem wit_RailFaultsCutIntoFault :
    (Waits (waiting (.pgood 4) false (running .quiescing id)) (.pgood 4) false 1100 ∧ listens ((running .quiescing id).units.slot 4) = true
        ∧ ((running .quiescing id).units.slot 4).state = .quiescing)
      ∧ (Waits (waiting (.railFlt 4) true (running .charging id)) (.railFlt 4) true 1100
        ∧ ((running .charging id).units.slot 4).mainEn = true ∧ powered ((running .charging id).units.slot 4) = true)
      ∧ ((running .charging (fun x => { x with chargeTimer := some 1200 })).units.slot 4).chargeTimer = some 1200
      ∧ ((running .charging (fun x => { x with chargeTimer := some 1200 })).units.slot 4).state = .charging :=
  ⟨⟨waits_waiting _ _ _, by decide +kernel⟩, ⟨waits_waiting _ _ _, by decide +kernel⟩, by decide +kernel⟩

theorem wit_SeatingEndsInStandby : ((slot4 (fun x => { x with state := .seating, seatTimer := some 1200 })).units.slot 4).seatTimer = some 1200
    ∧ ((slot4 (fun x => { x with state := .seating, seatTimer := some 1200 })).units.slot 4).state = .seating
    ∧ (∀ ch, heldBy 4 ((slot4 (fun x => { x with state := .seating, seatTimer := some 1200 })).units.chans.get ch) = false)
    ∧ ((slot4 (fun x => { x with state := .seating, seatTimer := some 1200 })).units.slot 4).claimed = 0 := by decide +kernel

theorem wit_SettlingEndsByTheBladeEntry : ∀ level, ((showing (.pgood 4) level (slot4 (fun x =>
      { x with state := .settling, settleTimer := some 1500 }))).units.slot 4).settleTimer = some 1500
    ∧ pgoodLevel (showing (.pgood 4) level (slot4 (fun x => { x with state := .settling, settleTimer := some 1500 }))).ctx 4 = level := by
  decide +kernel

theorem wit_QuiesceDeadlineCutsToSettling : ((running .quiescing (fun x => { x with qTimer := some 2000 })).units.slot 4).qTimer = some 2000
    ∧ ((running .quiescing (fun x => { x with qTimer := some 2000 })).units.slot 4).state = .quiescing := by decide +kernel

theorem wit_CapGraceLeadsToViolation : ∀ w ∈ [Watch.over, .exceeded],
    ((running .on (fun x => { x with watch := w, watchTimer := some 3000 })).units.slot 4).watchTimer = some 3000
      ∧ ((running .on (fun x => { x with watch := w, watchTimer := some 3000 })).units.slot 4).watch = w
      ∧ powered ((running .on (fun x => { x with watch := w, watchTimer := some 3000 })).units.slot 4) = true := by decide +kernel

/-- Slot 4 powered with every supply UNREAD: its 600 W exceed what there is. -/
def short (st : SlotState) : State :=
  onUnits (fun u => { u with shedTimer := some 4000, supplies := Vector.replicate 4 { Supply.reset with state := .unread } }) (running st id)

theorem wit_ShedDelayShedsTheFirstCandidate : ∀ st ∈ [SlotState.on, .charging], (short st).units.shedTimer = some 4000
    ∧ shedCandidates (short st).ctx (short st).units = 4 :: [] ∧ 0 < plannedDeficit (short st).ctx (short st).units
    ∧ ((short st).units.slot 4).state = st ∧ allSuppliesLost (short st).units = false := by decide +kernel

/-- The enable off and on; a count over the limit and one within it. -/
theorem wit_SampleEntersTheRing : live.ctx.pins.sampled = true ∧ live.units.senseNext = 0 ∧ (live.units.slot 0).mainEn = false
    ∧ ((running .on id).units.slot 4).mainEn = true ∧ ((running .on id).units.slot 4).settled = true
    ∧ ((running .on id).units.slot 4).watch = .clear ∧ ((running .on id).units.slot 4).state = .on
    ∧ (onUnits (fun u => { u with senseNext := 4 }) (running .on id)).units.senseNext = 4
    ∧ (running .on id).ctx.sup.mode ≠ .startup := by decide +kernel

/-- FAN0 and FAN1 running, both generators making duty 1000, and a read of FAN0's bay waiting behind one that runs. -/
def twoFans : State :=
  onUnits (fun u => { u with
    fans := updAt (updAt u.fans 0 (fun x => { x with state := .running })) 1 (fun x => { x with state := .running }),
    busQueue := [.read 4], busOp := some (.read 3 2 none false) })
    { live with pwm := { live.pwm with running := true, polarity := 1, gens := updAll live.pwm.gens (fun _ => { drives := true, c := 1024, f := 0 }) } }

theorem wit_ModulePresenceSetsTheEntry : Waits (waiting (.bay 13) true live) (.bay 13) true 1100
    ∧ Waits (waiting (.bay 3) false twoFans) (.bay 3) false 1100 ∧ Waits (waiting (.bay 4) false twoFans) (.bay 4) false 1100
    ∧ Waits (waiting (.bay 2) false live) (.bay 2) false 1100 ∧ (13 : Fin 26) ≠ bayPos 3 ∧ (live.units.inv.get 13).state ≠ .duplicate
    ∧ twoFans.units.busOp = some (.read 3 2 none false) ∧ (4 : Fin 14) = fanBay 0 ∧ (2 : Fin 14) = supplyBay 2
    ∧ after (.moduleLoss 4) (waiting (.bay 4) false twoFans) (fun t => (t.units.fans.get 1).state == .running) = true :=
  ⟨waits_waiting _ _ _, waits_waiting _ _ _, waits_waiting _ _ _, waits_waiting _ _ _, by decide +kernel⟩

/-- R120: the output of the fan that has left is inactive (polarity bit set: high), the other's stays active. -/
theorem test_fan_leaves : after (.moduleLoss 4) (waiting (.bay 4) false twoFans)
    (fun t => t.pwm.output 0 0 0 == true && t.pwm.output 1 0 0 == true && twoFans.pwm.output 0 0 0 == false) = true := by decide +kernel

/-- PSU2 read and present, in the state given. -/
def supply2 (st : SupplyState) : State :=
  showing (.bay 2) true (onUnits (fun u => valid 14 (.supply 2000) (supplied st u)) live)

theorem wit_SupplyStateFollowsItsOkLine : ∀ st ∈ [SupplyState.ok, .failed], bayLevel (supply2 st).ctx (supplyBay 2) = true
    ∧ ((supply2 st).units.inv.get (bayPos (supplyBay 2))).state ∈ [EntryState.valid, .invalid, .duplicate]
    ∧ ((supply2 st).units.supplies.get 2).state = st
    ∧ ([0, 1, 2].map (fun p => policy (withPolicy p liveCtx)) = [0, 1, 2])
    ∧ bayLevel (waiting (.psuOk 2) (st == .failed) (supply2 st)).ctx (supplyBay 2) = true
    ∧ Waits (waiting (.psuOk 2) (st == .failed) (supply2 st)) (.psuOk 2) (st == .failed) 1100 := by
  intro st h
  simp only [List.mem_cons, List.not_mem_nil, or_false] at h
  rcases h with rfl | rfl <;> exact ⟨by decide +kernel, by decide +kernel, by decide +kernel, by decide +kernel, by decide +kernel, waits_waiting _ _ _⟩

/-- A supply EEPROM: format 1, kind 2, codes, serial "K", 2000 W, and its CRC. -/
def eeprom : List Byte :=
  let body : List Byte := [1, 2, 0x10, 0x2A, 7, 3, 1, 1, 0x4B] ++ List.replicate 15 0 ++ le2 2000 ++ List.replicate 4 0
  body ++ le2 (identityCrc body).toNat

def readingBay (attempt : Nat) (retry : Timer) : State := onUnits (fun u => { u with busOp := some (.read 2 attempt retry false) }) live

theorem wit_IdentityReadHasThreeAttempts :
    ((readingBay 2 none).units.busOp = some (.read 2 2 none false) ∧ 2 < 3 ∧ attemptOk .noAcknowledge = none)
      ∧ (readingBay 1 (some 1010)).units.busOp = some (.read 2 1 (some 1010) false)
      ∧ (readingBay 2 (some 1010)).units.busOp = some (.read 2 2 (some 1010) false)
      ∧ ((onUnits (fun u => { u with busOp := some (.read 2 3 none true) }) live).units.busOp = some (.read 2 3 none true))
      ∧ ((readingBay 3 none).units.busOp = some (.read 2 3 none false) ∧ attemptOk .incomplete = none
        ∧ attemptOk (.bytes (eeprom.set 31 0)) = none ∧ (readingBay 3 none).units.busQueue = [])
      ∧ (attemptOk (.bytes eeprom) = some eeprom ∧ (validateModule (bayPos 2) eeprom).isOk = true)
      ∧ ∀ id, validateModule (bayPos 2) eeprom = .ok id → keyTaken (readingBay 1 none).units (bayPos 2) id = false
        ∧ keyTaken { (readingBay 1 none).units with inv := updAt (readingBay 1 none).units.inv 15 (fun e => { e with state := .valid, ident := id }) }
          (bayPos 2) id = true := by
  refine ⟨by decide +kernel, by decide +kernel, by decide +kernel, by decide +kernel, by decide +kernel, by decide +kernel, fun id h => ?_⟩
  cases (Except.ok.inj (h.symm.trans (rfl : validateModule (bayPos 2) eeprom = .ok _)))
  decide +kernel

theorem wit_OverdueReportGoesStale : ((running .on (fun x => { x with ageStart := some 0 })).units.slot 4).state = .on
    ∧ ((running .on (fun x => { x with ageStart := some 0 })).units.slot 4).stale = false
    ∧ ((running .on (fun x => { x with ageStart := some 0 })).units.slot 4).ageStart = some 0 := by decide +kernel

/-- A poll in flight; values at both ends of the accepted range and beyond it; a third failure. -/
theorem wit_SensorsArePolled : (onUnits (fun u => { u with pollTimer := some 2000 }) live).units.pollTimer = some 2000
    ∧ (onUnits (fun u => { u with busOp := some (.poll 3) }) live).units.busOp = some (.poll 3)
    ∧ (∀ k, BusItem.poll k ∉ (onUnits (fun u => { u with busOp := some (.poll 3) }) live).units.busQueue)
    ∧ -40 ≤ (0xD8 : BitVec 8).toInt ∧ (0xD7 : BitVec 8).toInt < -40
    ∧ 2 ≤ ((onUnits (fun u => { u with sensors := Vector.replicate 4 { Sensor.reset with fails := 2 } }) live).units.sensors.get 3).fails
    ∧ ((onUnits (fun u => { u with sensors := Vector.replicate 4 { Sensor.reset with fails := 2 } }) live).units.sensors.get 3).stale = false := by
  decide +kernel

/-- Zone 1 with both monitors held or neither, and TS1 as its only current member, at 71 °C, or none. -/
def zone1 (held : Bool) (t : Option Int) : State :=
  onUnits (fun u =>
    { (u.updZone 1 (fun x => { x with monA := { x.monA with held := held }, monB := { x.monB with held := held }, sampTimer := some 1500,
                                      updTimer := some 1600 })) with
      sensors := updAt u.sensors 1 (fun x => { x with value := t }) }) live

theorem wit_ZoneSampleComparesTheMarkedMonitor :
    (∀ h, ((zone1 h (some 71)).units.zones.get 1).sampTimer = some 1500 ∧ ((zone1 h (some 71)).units.zones.get 1).monA.held = h
        ∧ ((zone1 h (some 71)).units.zones.get 1).monB.held = h)
      ∧ zoneTemp (zone1 false (some 71)).ctx (zone1 false (some 71)).units 1 = some 71
      ∧ zoneTemp (zone1 false none).ctx (zone1 false none).units 1 = none := by decide +kernel

theorem wit_ZoneUpdateSlewsTheDuty : ((zone1 false none).units.zones.get 1).updTimer = some 1600
    ∧ dark ((zone1 false none).units.slot 0) = true := by decide +kernel

/-- FAN0 turning through a whole gate that is judged, with `k` pulses; FAN5 absent. -/
def gate (k runs : Nat) (failed : Bool) : State :=
  showing (.bay 4) true (onUnits (fun u =>
    { (u.updFan 0 (fun x => { x with state := if failed then .failed else .running, whole := true, count := k, lowRun := if failed then 0 else runs,
                                     highRun := if failed then runs else 0, verdictFailed := failed })) with
      gateTimer := some 2000, zones := updAll u.zones (fun x => { x with gateOk := true }) }) live)

/-- 29 pulses are 870 rpm, below the 900 of row 23; 30 are not. -/
theorem wit_TachGateJudgesTheFans : (∀ x ∈ [(29, false), (30, true)], (gate x.1 2 x.2).units.gateTimer = some 2000
      ∧ ((gate x.1 2 x.2).units.fans.get 0).whole = true ∧ ((gate x.1 2 x.2).units.fans.get 0).state ≠ .absent
      ∧ bayLevel (gate x.1 2 x.2).ctx (fanBay 0) = true ∧ ((gate x.1 2 x.2).units.zones.get (fanZone 0)).gateOk = true
      ∧ ((gate x.1 2 x.2).units.fans.get 0).count = x.1 ∧ ((gate x.1 2 x.2).units.fans.get 0).verdictFailed = x.2
      ∧ ((gate x.1 2 x.2).units.fans.get 5).state = .absent)
    ∧ 2 ≤ ((gate 29 2 false).units.fans.get 0).lowRun ∧ minRpm (gate 29 2 false).ctx = 900 := by decide +kernel

/-- A present fan at the ends of the duty's range, and an absent one. -/
theorem wit_DitherGroupMakesTheDuty : live.ctx.sup.phase ≠ .deviceId ∧ live.ctx.sup.phase ≠ .rows ∧ live.ctx.pins.sampled = true
    ∧ ((gate 29 2 false).units.fans.get 0).state ≠ .absent ∧ ((gate 29 2 false).units.zones.get (fanZone 0)).duty = 1000
    ∧ ((onUnits (fun u => u.updZone 0 (fun x => { x with duty := 0 })) (gate 29 2 false)).units.zones.get (fanZone 0)).duty = 0
    ∧ (live.units.fans.get 0).state = .absent := by decide +kernel

/-- UPL3 VALID, its port in the state given. -/
def port3 (st : PortState) : State := onUnits (fun u => (valid 25 (.uplink 4 12) u).updPort 3 (fun x => { x with state := st })) live

theorem wit_PortStateFollowsItsLink :
    ((port3 .up).units.inv.get (bayPos (uplinkBay 3))).state = .valid ∧ ((port3 .up).units.ports.get 3).state = .up
      ∧ ((port3 .down).units.ports.get 3).state = .down ∧ dark ((port3 .up).units.slot 0) = true
      ∧ Waits (waiting (.uplLink 3) false (port3 .up)) (.uplLink 3) false 1100
      ∧ Waits (waiting (.uplLink 3) true (port3 .down)) (.uplLink 3) true 1100 :=
  ⟨by decide +kernel, by decide +kernel, by decide +kernel, by decide +kernel, waits_waiting _ _ _, waits_waiting _ _ _⟩

/-- Channel 31 in a state, with a command in flight. -/
def channel31 (st : ChanState) (drain : Timer) (flight : Option XFlight) (q : List XCmd) : State :=
  onUnits (fun u => { u with chans := updAt u.chans 31 (fun x => { x with inUse := true, state := st, held := some (4, 0), drain := drain }),
                             xFlight := flight, xq := q }) (port3 .up)

def connecting : XFlight := { cmd := .connect 31 4 0, deadline := 1020, ignored := false }

theorem wit_CrossbarCommandsFollowTheChannel :
    (∀ f ∈ [none, some connecting], ((channel31 .draining (some 1100) f []).units.chans.get 31).drain = some 1100
        ∧ ((channel31 .draining (some 1100) f []).units.chans.get 31).state = .draining
        ∧ (channel31 .draining (some 1100) f []).units.xFlight = f ∧ (channel31 .draining (some 1100) f []).units.xq = [])
      ∧ (∀ q ∈ [[], [XCmd.disconnect 30]], (channel31 .switching none (some connecting) q).units.xFlight
            = some { cmd := .connect 31 4 0, deadline := 1020, ignored := false }
          ∧ ((channel31 .switching none (some connecting) q).units.chans.get 31).state = .switching
          ∧ ((channel31 .switching none (some connecting) q).units.ports.get (portOf 31)).state = .up
          ∧ (channel31 .switching none (some connecting) q).units.xq = q ∧ (channel31 .switching none (some connecting) q).units.xLate = [])
      ∧ (channel31 .assigned none none []).units.xFlight = none ∧ (channel31 .assigned none none []).units.xLate = [] := by decide +kernel

theorem wit_CrossbarTimeoutFaultsTheChannel :
    (channel31 .switching none (some connecting) []).units.xFlight = some { cmd := .connect 31 4 0, deadline := 1020, ignored := false }
      ∧ ((channel31 .switching none (some connecting) []).units.chans.get 31).state = .switching
      ∧ (channel31 .switching none (some connecting) []).units.xLate = [] := by decide +kernel

/-- R137: a CONNECT that timed out uncarried is late, and one that was carried out is not; a restart leaves the command in flight late. -/
theorem test_late_commands :
    (∀ b, after (.crossbarCommandTimeout b) (channel31 .switching none (some connecting) [])
        (fun t => t.units.xLate == (if b then [] else [.connect 31 4 0]) && ((t.units.xbar.get 31 == some (4, 0)) == b)) = true)
      ∧ after .warmRestart (channel31 .switching none (some connecting) []) (fun t => t.units.xLate == [.connect 31 4 0]) = true := by
  decide +kernel

theorem wit_LostHeartbeatEntersFailsafe : ∀ m ∈ [Mode.normal, .failsafe],
    (live.setSup (fun x => { x with mode := m, hbTimer := some 9000 })).ctx.sup.hbTimer = some 9000
      ∧ (live.setSup (fun x => { x with mode := m, hbTimer := some 9000 })).ctx.sup.mode = m ∧ dark (live.units.slot 0) = true := by
  decide +kernel

/-- Headroom of exactly 0 W, and of 5550 W; a queue whose second entry fits: the first is gone past, unless it has been so too often. -/
theorem wit_GrantsFollowTheQueueWithinHeadroom :
    (headroom liveCtx (supplied .ok Units.reset) = 5550
        ∧ headroom liveCtx ((supplied .ok Units.reset).updSlot 4 (fun x => { x with allowance := 5550 })) = 0)
      ∧ (let e : Nat → WaitEntry := fun w => { slot := 0, watts := w, isRaise := false, cls := 1, skips := 3, join := w }
         (findGrant (fun x => x.watts == 300) 4 [] [e 450, e 300]).isSome = true
          ∧ findGrant (fun x => x.watts == 300) 3 [] [e 450, e 300] = none) := by decide +kernel

/-- Slot 4 under a slot cap of 399 W, below its blade's minimum. -/
def lowCapped (s : State) : State := s.setCfg (fun g => { g with rows := updAt g.rows 6 (fun b => (b.set 2 0x8F).set 3 1) })

/-- Slot 4 is promised 600 W in a state; its blade's identity is gone. -/
def unknown (st : SlotState) : State := onUnits (fun u => { u with inv := Units.reset.inv }) (running st id)

def powerAsk (kind : Byte) (watts : Nat) : List Byte := [kind] ++ le2 watts ++ [0, 0, 0, 0, 1]

/-- Every outcome of R8, and every kind of effect of R10 and R11, has a state; the blade's range is 400 to 800 W. -/
theorem wit_PowerRequestsAreJudgedInOrder :
    (minPower (running .on id).units 4 = 400 ∧ maxPower (running .on id).units 4 = 800
        ∧ clampWatts (running .on id).ctx 4 (running .on id).units 900 = some 800
        ∧ clampWatts (lowCapped (running .on id)).ctx 4 (running .on id).units 500 = none)
      ∧ ([(running .on id, powerAsk 0 500), (running .on id, powerAsk 4 500),
          (showing (.ovr 0) true (mapped (running .on id)), powerAsk 1 500), (showing (.presS 4) false (running .on id), powerAsk 1 500),
          (running .standby id, powerAsk 1 500), (running .identified id, powerAsk 2 500), (running .charging id, powerAsk 1 500),
          (running .quiescing id, powerAsk 2 500), (lowCapped (running .on id), powerAsk 1 500), (unknown .on, powerAsk 1 601),
          (running .on id, powerAsk 3 0), (running .identified id, powerAsk 3 0), (running .on id, powerAsk 1 600),
          (running .on id, powerAsk 2 801), (running .identified id, powerAsk 1 400), (running .waitPower id, powerAsk 2 399)].map
          (fun x => (takePower x.1.ctx 4 x.2 x.1.units).1)
        = [.refusedFormat, .refusedFormat, .refusedHeld, .refusedLever, .refusedState, .refusedState, .refusedState, .refusedState,
          .refusedCap, .refusedIdentity, .accepted, .accepted, .accepted, .clamped, .accepted, .clamped]) := by decide +kernel

/-- An identity record: format 1, codes, 800 to 400 W, trip 85 °C, class 2, four lanes, serial "K", CRC, sequence 9. -/
def bladeRecord : List Byte :=
  let body : List Byte := [1, 0x10, 0x2A, 7, 3, 1] ++ le2 800 ++ le2 400 ++ [85, 2, 4, 1, 0x4B] ++ List.replicate 46 0
  body ++ le2 (identityCrc body).toNat ++ [9]

/-- R27: the identity of a present slot that is disabled is re-validated too, and the slot enters EMPTY with both enables off. -/
theorem test_disabled_slot_adopted : after .internalReadComplete (disabled4 { adopting 4 11 with
      wq := [{ addr := 0x14000, data := bladeRecord, source := some 5 }] })
    (fun t => (bladeEntry t.units 4).state == .valid && (t.units.slot 4).state == .empty && !(t.units.slot 4).stbyEn
      && !(t.units.slot 4).mainEn && t.ctx.sup.phase == .adopt 11) = true := by decide +kernel

/-- Slot 4 in ON with lane limit 4 or, unvalidated and of no known identity, 4 as well; its lane 0 is active. -/
def claiming (unvalidated : Bool) : State :=
  onUnits (fun u => u.updSlot 4 (fun x => { x with unvalidated := unvalidated })) (laned .on .assigned)

/-- Every outcome of R32, R33, R133 and R20 has a state. -/
theorem wit_BladeRecordsFollowTheirRules :
    ((validateBlade bladeRecord).isOk = true
        ∧ [(running .on id, bladeRecord), (running .standby id, bladeRecord), (running .identified id, bladeRecord.set 20 1),
            (onUnits (fun u => { u with inv := updAt u.inv 5 (fun e => { e with
              state := .valid, ident := { Ident.cleared with vendor := 0x2A10, product := 0x0307, revision := 1, serial := [0x4B] } }) })
              (running .standby id), bladeRecord)].map (fun x => (takeIdentity x.1.ctx 4 x.2 x.1.units).1)
          = [.refusedState, .accepted, .invalid, .duplicate])
      ∧ ([(claiming false, [5, 0, 0, 1]), (claiming false, [4, 3, 0, 1]), (running .quiescing id, [4, 2, 0, 1]), (claiming true, [2, 2, 0, 1]),
            (claiming false, [2, 2, 0, 1]), (claiming false, [0, 1, 0, 1]), (running .on id, [4, 0, 0, 1])].map
            (fun x => (takeClaim x.1.ctx 4 x.2 x.1.units).1)
          = [.refusedFormat, .refusedFormat, .refusedState, .refusedIdentity, .accepted, .accepted, .accepted])
      ∧ activeCount (claiming false).units 4 = 1 ∧ isActive ((claiming false).units.chans.get 31) = true
      ∧ (∀ ch, ((claiming false).units.chans.get ch).held ≠ none → ch = 31)
      ∧ ([(QReason.eject, 0, [7, 0, 0, 1]), (.eject, 0, [7, 3, 0, 1]), (.eject, 0, [6, 1, 0, 1]), (.eject, 0, [7, 1, 0, 1]), (.eject, 0, [7, 2, 0, 1]),
            (.eject, 1, [7, 2, 0, 1]), (.thermal, 0, [7, 2, 0, 1])].map (fun x =>
              let s := running .quiescing (fun y => { y with qNumber := 7, qReason := some x.1, defers := x.2.1, qTimer := some 9000 })
              (takeAnswer s.ctx 4 x.2.2 s.units).1)
          = [.refusedFormat, .refusedFormat, .stale, .accepted, .accepted, .refusedDefer, .refusedDefer]) := by decide +kernel

theorem live_startSound : StartSound live where
  reads := by intro r h; cases h
  mode := by decide
  built := by decide
  links := fun h => absurd rfl h
  audit := fun _ => rfl
  noGrants := by decide +kernel
  early := fun h => by rcases h with h | h | h <;> cases h
  adopting := fun n h => by cases h
  settled := by decide +kernel

theorem running_startSound : StartSound (running .on id) where
  reads := by intro r h; cases h
  mode := by decide +kernel
  built := by decide +kernel
  links := fun h => absurd rfl h
  audit := fun _ => rfl
  noGrants := by decide +kernel
  early := fun h => by rcases h with h | h | h <;> cases h
  adopting := fun n h => by cases h
  settled := by decide +kernel

theorem running_powerSound : PowerSound (running .on id).units where
  enable := by decide +kernel
  range := by decide +kernel
  off := by decide +kernel
  floor := by decide +kernel
  unsettled := by decide +kernel
  seating := by decide +kernel
  settling := by decide +kernel
  ready := by decide +kernel
  identity := fun n h => by
    by_cases e : n = 4
    · subst e; exact ⟨800, 400, 85, 2, 4, by decide +kernel, by decide, by decide⟩
    · exact absurd h (by revert n; decide +kernel)
  entries := by intro e h; cases h
  once := by decide

/-- A slot with main power at its own allowance, through a step that leaves it so. -/
theorem wit_BudgetKeepsSlotPower : (∀ n, SlotPower ((running .on id).units.slot n)) ∧ StartSound (running .on id)
    ∧ PowerSound (running .on id).units
    ∧ ∃ t, step (running .on id) = .next t ∧ powered (t.units.slot 4) = true ∧ minPower t.units 4 = minPower (running .on id).units 4
      ∧ minPower (running .on id).units 4 ≤ ((running .on id).units.slot 4).allowance :=
  ⟨by intro n; unfold SlotPower; revert n; decide +kernel, running_startSound, running_powerSound, _, rfl, by decide +kernel⟩

/-- A held channel, and a slot that waits for one more. -/
def uplinked : State := onUnits (fun u => { u.updSlot 4 (fun x => { x with claimed := 2 }) with upWait := [4] }) (laned .on .assigned)

theorem wit_ChannelLawsAreKept : UplinkSound uplinked ∧ (∃ t, step uplinked = .next t) ∧ UplinkSound (running .on id)
    ∧ StartSound (running .on id) ∧ PowerSound (running .on id).units := by
  refine ⟨?_, ⟨_, rfl⟩, ?_, running_startSound, running_powerSound⟩
  · have one : ∀ ch p, (uplinked.units.chans.get ch).held = some p → ch = 31 := by decide +kernel
    have p31 : (uplinked.units.chans.get 31).held = some (4, 0) := by decide +kernel
    exact {
      holder := by decide +kernel
      places := fun ch ch' p h h' => (one ch p h).trans (one ch' p h').symm
      active := fun ch n k _ h => by
        cases one ch _ h
        cases p31.symm.trans h
        decide +kernel
      unused := by decide +kernel
      once := by decide +kernel
      waiting := by decide +kernel
      unbuilt := by decide +kernel }
  · exact {
      holder := by decide +kernel
      places := fun ch _ p h => absurd h (by revert ch p; decide +kernel)
      active := fun ch n k _ h => absurd h (by revert ch n k; decide +kernel)
      unused := by decide +kernel
      once := by decide +kernel
      waiting := by decide +kernel
      unbuilt := by decide +kernel }

theorem wit_CurveRisesThroughItsPoints : RowsPass live := wit_ShadowRowsAlwaysPass.1

/-- Counts 1 and 4; readings at both ends of each range of R98; an accepted report that leaves no value. -/
theorem wit_ReportUpdatesReadingPositions : [0xD8, 0x7F, 0x80, 0x81, 0xD7].map (fun (b : Byte) => b.toInt) = [-40, 127, -128, -127, -41]
    ∧ 1 ≤ byteAt [1, 0x80] 0 ∧ byteAt [4, 0x80, 0x80, 0x80, 0x80] 0 ≤ 4 ∧ powered ((running .charging id).units.slot 4) = true
    ∧ ((running .on id).units.slot 4).state = .on
    ∧ newReadings ((running .on id).units.slot 4).readings 1 [1, 0x80] = [none, none, none, none]
    ∧ powered ((running .identified id).units.slot 4) = false ∧ byteAt [5, 0] 0 = 5
    ∧ (∀ st ∈ [SlotState.charging, .on, .quiescing], powered ((running st id).units.slot 4) = true ∧ tripTemp (running st id).units 4 = 85
      ∧ [84, 85, 89, 90].map (fun b => (newReadings ((running st id).units.slot 4).readings 1 [1, b]).foldl maxTemp none)
        = [some 84, some 85, some 89, some 90]) := by decide +kernel

/-- R99: one degree under the trip temperature, at it, and 5 °C above it. -/
theorem test_report_trips : [84, 85, 89, 90].map (fun b =>
      ((takeReport (running .on id).ctx 4 [1, b, 0, 0, 0, 0, 0, 1] (running .on id).units).2.slot 4).state)
    = [.on, .quiescing, .quiescing, .fault] := by decide +kernel

end Sys2Proof.Tests
end

section
/-! PROOFS. The state after reset and the beginning of a cold start: both are built whole from the cold-start values. -/

namespace Sys2Proof.Machine

theorem reset_units : State.reset.units = Units.reset := rfl
theorem reset_pins : State.reset.ctx.pins = Pins.reset := rfl

@[simp] theorem reset_slot (n : Fin 12) : Units.reset.slot n = .reset := replicate_get _ n
@[simp] theorem reset_inv (i : Fin 26) : Units.reset.inv.get i = .reset := replicate_get _ i
@[simp] theorem reset_chan (ch : Fin 32) : Units.reset.chans.get ch = .reset := replicate_get _ ch
@[simp] theorem reset_port (p : Fin 4) : Units.reset.ports.get p = .reset := replicate_get _ p
@[simp] theorem reset_zone (z : Fin 3) : Units.reset.zones.get z = .reset := replicate_get _ z
@[simp] theorem reset_link (l : Fin 13) : State.reset.links.get l = .reset := replicate_get _ l

/-- Held low until the generators run (R121). -/
theorem reset_output (f : Fin 6) (p : Fin 4) (k : Nat) : Pwm.reset.output f p k = false := rfl

@[simp] theorem reset_filter (p : Pin) : getFilter Pins.reset p = .reset := by cases p <;> exact replicate_get _ _

/-- At the beginning of a cold start a filter keeps its raw level alone (log 2). -/
@[simp] theorem getFilter_clearPins (p : Pins) (q : Pin) : getFilter (clearPins p) q = clearFilter (getFilter p q) := by
  cases q <;> exact updAll_get _ _ _

theorem startSound_reset : StartSound State.reset where
  reads := rfl
  mode := by decide
  built := by decide
  links := fun _ l => by rw [reset_link]; exact ⟨rfl, rfl, rfl⟩
  audit := fun _ => rfl
  noGrants := fun _ n => by rw [reset_units, reset_slot]; decide
  early := fun _ => ⟨rfl, fun p => by rw [reset_pins, reset_filter]; rfl,
    fun n => by rw [reset_units, reset_slot]; exact ⟨⟨rfl, rfl, rfl⟩, rfl⟩⟩
  adopting := fun _ h => nomatch h
  settled := fun h => nomatch h

theorem powerSound_reset : PowerSound Units.reset where
  enable := fun n _ => by rw [reset_slot]; rfl
  range := fun n => by rw [reset_slot]; decide
  off := fun n _ => by rw [reset_slot]; decide
  floor := fun n h => by rw [reset_slot] at h; exact absurd h (by decide)
  unsettled := fun n _ => by rw [reset_slot]; rfl
  seating := fun n h => by rw [reset_slot] at h; exact absurd rfl h
  settling := fun n h => by rw [reset_slot] at h; exact absurd rfl h
  ready := fun n h => by rw [reset_slot] at h; exact absurd h (by decide)
  identity := fun n h => by rw [bladeEntry, reset_inv] at h; exact absurd h (by decide)
  entries := fun e h => absurd h List.not_mem_nil
  once := List.nodup_nil

theorem uplinkSound_reset : UplinkSound State.reset where
  holder := fun ch => by rw [reset_units, reset_chan]; rfl
  places := fun ch _ p h => by rw [reset_units, reset_chan] at h; cases h
  active := fun ch n k h => by rw [reset_units, reset_chan] at h; cases h
  unused := fun ch _ => by rw [reset_units, reset_chan]; exact ⟨rfl, rfl⟩
  once := List.nodup_nil
  waiting := fun _ h => absurd h List.not_mem_nil
  unbuilt := fun _ => ⟨rfl, reset_chan⟩

theorem headsSound_reset : HeadsSound State.reset := by
  refine ⟨fun _ => rfl, fun l h => ?_, fun l r h => ?_⟩
  · rw [reset_link] at h; cases h
  · rw [reset_link] at h; cases h

theorem rowsPass_reset : RowsPass State.reset := by unfold RowsPass; decide +kernel

/-- A slot in its cold-start values has no power and no rail up (R1, R82). -/
theorem reset_slot_off (n : Fin 12) : (Units.reset.slot n).state = .empty ∧ (Units.reset.slot n).mainEn = false
    ∧ (Units.reset.slot n).stbyEn = false ∧ (Units.reset.slot n).grant = 0 ∧ (Units.reset.slot n).allowance = 0
    ∧ Units.reset.slotEvents.get n = 0 := by
  rw [reset_slot]
  exact ⟨rfl, rfl, rfl, rfl, rfl, replicate_get _ n⟩

end Sys2Proof.Machine
end

section
open Sys2Proof Sys2Proof.Machine

/-- Settles O8, invariant by invariant and then field by field. -/
theorem resetHoldsTheColdStartValues : Obligations.ResetHoldsTheColdStartValues := by
  refine ⟨⟨by unfold QueueShare; decide, fun l => by rw [reset_link]; decide, rowsPass_reset, ⟨rfl, fun e h => absurd h List.not_mem_nil⟩,
      headsSound_reset, fun e h => absurd h List.not_mem_nil, startSound_reset, powerSound_reset, uplinkSound_reset⟩,
    rfl, rfl, rfl, fun n => ?_, rfl, rfl, fun z => ?_, reset_output, fun l => ?_, rfl, rfl, rfl⟩
  · obtain ⟨hstate, hmain, hstby, hgrant, -, hev⟩ := reset_slot_off n
    exact ⟨hstate, hmain, hstby, hgrant, hev⟩
  · rw [reset_units, reset_zone]; rfl
  · exact ⟨by rw [reset_link]; rfl, replicate_get _ l⟩

/-- Settles O9: `beginCold` builds the state whole from the cold-start values and what lies outside the part. -/
theorem coldStartBeginsFromColdValues : Obligations.ColdStartBeginsFromColdValues := by
  intro cause s
  refine ⟨_, rfl, rfl, rfl, rfl, rfl, reset_slot_off, rfl, fun p => ?_, rfl, rfl, rfl, rfl, rfl, rfl, rfl, reset_output, rfl, fun l => ?_,
    rfl, rfl, rfl, rfl, rfl, rfl, fun l => ⟨cutPackets_prefix s l, fun h => cutPackets_sent h⟩, fun p => ?_⟩
  · show (Units.reset.ports.get p).enable = false
    rw [reset_port]; rfl
  · show (State.reset.links.get l).isOpen = false ∧ (State.reset.links.get l).fifo = [] ∧ (State.reset.links.get l).takes = []
    rw [reset_link]; exact ⟨rfl, rfl, rfl⟩
  · show (getFilter (clearPins s.ctx.pins) p).raw = _ ∧ (getFilter (clearPins s.ctx.pins) p).timer = none
    rw [getFilter_clearPins]; exact ⟨rfl, rfl⟩
end

section
/-! PROOFS. Restarts, contacts, rails and slot timers: the commands that one slot or one input takes, each from the shape of its command
(`done_onPin_…`, `done_atTimer_…`) and the lemma of what it does to its slot. -/

namespace Sys2Proof.Machine

/-! ### Inputs -/

/-- A raw change touches one filter alone (R2). -/
theorem rawChange_filter {c : Ctx} {p : Pin} {level : Bool} (h : (getFilter c.pins p).raw ≠ level) (q : Pin) :
    getFilter (rawChange c p level).pins q =
      if p = q then
        { raw := level, level := (getFilter c.pins p).level,
          timer := if c.pins.sampled = true ∧ (getFilter c.pins p).level ≠ level then some (c.now + debounceTime level p) else none }
      else getFilter c.pins q := by
  simp only [rawChange, if_neg h, getFilter_updFilter]
  split
  · next e => subst e; simp [startTimer, bne]
  · rfl

theorem rawChange_sup (c : Ctx) (p : Pin) (level : Bool) : (rawChange c p level).sup = c.sup := by
  simp only [rawChange]; split <;> rfl

theorem rawChange_cfg (c : Ctx) (p : Pin) (level : Bool) : (rawChange c p level).cfg = c.cfg := by
  simp only [rawChange]; split <;> rfl

section levels
variable (s : State) (d : Nat) (b : Bool) (n m : Fin 12)

/-- The level of another kind of input is not that of the filter that has just been shown. -/
@[simp] theorem presLLevel_presS : presLLevel (Shown s (.presS n) b d) m = presLLevel s.ctx m := rfl

theorem held_shown {k : Fin 4} (h : slotLine s.ctx n = some k) : held (Shown s (.ovr k) b d) n = b := by
  have hk : slotLine (Shown s (.ovr k) b d) n = some k := h
  rw [held, hk]
  simp [ovrLevel, Shown, updFilter]

end levels

/-! ### Slots -/

theorem updSlot_congr {u : Units} {n : Fin 12} {f g : Slot → Slot} (h : f (u.slot n) = g (u.slot n)) : u.updSlot n f = u.updSlot n g := by
  have e : updAt u.slots n f = updAt u.slots n g := by
    simp only [updAt]
    rw [show f (u.slots.get n) = g (u.slots.get n) from h]
  simp only [Units.updSlot, e]

theorem drawAverage_reset {x : Slot} (h : x.ring = List.replicate 8 0) : drawAverage x = 0 := by simp [drawAverage, h]

theorem powered_iff {x : Slot} : powered x = true ↔ x.state = .charging ∨ x.state = .on ∨ x.state = .quiescing := by
  simp [powered, or_assoc]

theorem restState_eq (u : Units) (n : Fin 12) :
    restState u n = if (bladeEntry u n).state = .valid then SlotState.identified else .standby := by
  simp [restState, bladeValid]

/-- The units after a command of the handlers in `Laws/Effects`: the slot's own part, once its record has joined the pending set. -/
@[simp] theorem after_units (s : State) (c : Ctx) (v : Units) : (s.after c v).units = v.settled := rfl
@[simp] theorem after_ctx (s : State) (c : Ctx) (v : Units) : (s.after c v).ctx = c := rfl

theorem onPin_id {s : State} {p : Pin} {b : Bool} {d : Nat} (h : Waits s p b d) :
    done s (onPin p b id s) = .next (s.after (Shown s p b d) s.units) := by
  rw [onPin_waits h]; rfl

theorem hasWait_removeWait (n : Fin 12) (u : Units) : hasWait (removeWait n u) n = false := by
  simp [hasWait, removeWait]

section
variable (c : Ctx) (n : Fin 12) (u : Units)

@[simp] theorem leaveWaitPower_slot : (leaveWaitPower n u).slot n = { u.slot n with state := .identified } := by
  rw [leaveWaitPower, updSlot_slot_self]; rfl

@[simp] theorem leaveWaitPower_hasWait : hasWait (leaveWaitPower n u) n = false := hasWait_removeWait n u

theorem only_leaveWaitPower : OnlySlot n u (leaveWaitPower n u) := fix_removeWait.trans (only_updSlot _)

theorem only_leverOpened : OnlySlot n u (leverOpened c n u) := by
  rw [leverOpened]
  split
  · exact only_leaveWaitPower n u
  · exact only_cutToSettling
  · exact only_enterQuiesce _
  · exact only_updSlot _
  · exact only_updSlot _
  · exact .refl _ u

theorem only_holdSlot : OnlySlot n u (holdSlot c n u) := by
  rw [holdSlot]
  split
  · exact only_leaveWaitPower n u
  iterate 3 exact only_cutToSettling
  · exact .refl _ u

theorem allSuppliesLost_congr {u v : Units} (h : v.supplies = u.supplies) : allSuppliesLost v = allSuppliesLost u := by
  simp only [allSuppliesLost, h]

/-- A slot that has gone dark stays as it is until the event has been settled. -/
theorem settled_slot_dark {c : Ctx} {u v : Units} {n : Fin 12} (h : dark (v.slot n) = true) :
    (settleAfter c u v).settled.slot n = v.slot n := settleAfter_dark h

theorem dark_settling {x : Slot} (h : x.state = .settling) : dark x = true := by simp [dark, quiet, h]
theorem dark_fault {x : Slot} (h : x.state = .fault) : dark x = true := by simp [dark, quiet, h]
theorem dark_identified {x : Slot} (h : x.state = .identified) : dark x = true := by simp [dark, quiet, h]

/-- The slot that a cut leads to SETTLING, once the event is settled. -/
theorem settled_cutToSettling (h : powered (u.slot n) = true) (w : Units) :
    (settleAfter c w (cutToSettling c n u)).settled.slot n = { darkSlot { u.slot n with claimed := 0, group := .any } with
      state := .settling, settleTimer := startTimer c Config.settling } := by
  have e := cutToSettling_slot c n u h
  rw [settled_slot_dark (dark_settling (by rw [e])), e]

/-- The slot that a cut leads to FAULT, once the event is settled. -/
theorem settled_cutToFault (r : FaultReason) (h : powered (u.slot n) = true) (w : Units) :
    (settleAfter c w (cutToFault c n r u)).settled.slot n = { darkSlot { u.slot n with claimed := 0, group := .any } with
      state := .fault, faultReason := some r, leverMark := (u.slot n).leverMark || !leverClosed c n } := by
  have e := cutToFault_slot c n u r h
  rw [settled_slot_dark (dark_fault (by rw [e])), e]

end

/-- What the clause `cut` of `RailFaultsCutIntoFault` says of a state. -/
theorem cutToFault_settled {s : State} {c : Ctx} {n : Fin 12} (r : FaultReason) (hsup : c.sup = s.ctx.sup) (hcfg : c.cfg = s.ctx.cfg)
    (hlever : leverClosed c n = leverClosed s.ctx n) (hpow : powered (s.units.slot n) = true) :
    let t := s.after c (settleAfter c s.units (cutToFault c n r s.units))
    SameOutside s t ∧ Frame s.units t.units ∧ OthersStay n s.units t.units
      ∧ (t.units.slot n).state = .fault ∧ (t.units.slot n).faultReason = some r ∧ (t.units.slot n).mainEn = false
      ∧ (t.units.slot n).grant = 0 ∧ (t.units.slot n).allowance = 0 ∧ drawAverage (t.units.slot n) = 0
      ∧ (t.units.slot n).stbyEn = (s.units.slot n).stbyEn
      ∧ (t.units.slot n).leverMark = ((s.units.slot n).leverMark || !leverClosed s.ctx n)
      ∧ slotFlag t.units n .fault = true ∧ chassisFlag t.units .slotFault = true := by
  have only : OnlySlot n s.units (cutToFault c n r s.units) := only_cutToFault r
  have fr := settleAfter_keeps (c := c) (u := s.units) (v := cutToFault c n r s.units) |>.frame
  refine ⟨after_sameOutside _ _ _ hsup hcfg, frame_settled only.frame, othersStay_settled only, ?_⟩
  simp only [after_units]
  rw [settled_cutToFault c n s.units r hpow, hlever]
  refine ⟨rfl, rfl, rfl, rfl, rfl, drawAverage_reset rfl, rfl, rfl, ?_, ?_⟩
  · exact fr.slotBits n .fault (cutToFault_slotFlag c n s.units r hpow)
  · exact fr.chassisBits .slotFault (cutToFault_chassisFlag c n s.units r hpow)

end Sys2Proof.Machine
end

section
open Sys2Proof Sys2Proof.Machine

/-- Settles O28: one filter changes (`rawChange_filter`); a release hands nothing over (`onPin_id`). -/
theorem filtersShowOnlyDebouncedLevels : Obligations.FiltersShowOnlyDebouncedLevels := by
  refine ⟨fun s p level h => ?_, fun s k d h => ?_, fun s n d h => ?_, ?_⟩
  · refine ⟨s.after (rawChange s.ctx p level) s.units, rfl, ?_, fun q hq => ?_, rfl,
      after_sameOutside _ _ _ (rawChange_sup _ _ _) (rawChange_cfg _ _ _)⟩
    · rw [after_ctx, rawChange_filter h, if_pos rfl]
    · rw [after_ctx, rawChange_filter h, if_neg (Ne.symm hq)]
  · exact ⟨_, onPin_id h, rfl, rfl, after_sameOutside _ _ _ rfl rfl⟩
  · exact ⟨_, onPin_id h, rfl, rfl, after_sameOutside _ _ _ rfl rfl⟩
  · exact ⟨fun _ => ⟨rfl, rfl⟩, fun _ _ => ⟨rfl, rfl⟩, fun _ _ => ⟨rfl, rfl⟩,
      fun _ => ⟨rfl, rfl⟩, fun _ => ⟨rfl, rfl⟩, fun _ => ⟨rfl, rfl⟩⟩

/-- Settles O29, by the slot's state. -/
theorem seatingFollowsTheContacts : Obligations.SeatingFollowsTheContacts := by
  refine ⟨fun s n d h hl hs => ⟨_, done_onPin_slotAct s _ h hl, rfl, after_sameOutside _ _ _ rfl rfl, ?_⟩,
    fun s n d h hl => ⟨_, done_onPin_slotAct s _ h hl, rfl, after_sameOutside _ _ _ rfl rfl, fun hs => ?_, fun hs hm => ?_, fun h1 h2 => ?_⟩⟩
  · rw [after_units, if_pos hs]; rfl
  · rw [after_units, leverCloses, hs]; rfl
  · rw [after_units, leverCloses, hs, if_pos hm]; rfl
  · rw [after_units, leverCloses]
    split
    · next e => exact absurd e h1
    · next e => rcases h2 with h2 | h2
                · exact absurd e h2
                · rw [if_neg (by simp [h2])]
    · rfl

/-- Settles O33, by the slot's state. -/
theorem powerGoodEndsTheCharge : Obligations.PowerGoodEndsTheCharge := by
  refine fun s n d h hl => ⟨_, done_onPin_slotAct s _ h hl, rfl, after_sameOutside _ _ _ rfl rfl, fun c0 hs hc => ?_, fun hs => ?_, fun hs => ?_⟩
  · rw [after_units, pgoodRises, hs]
    refine congrArg Units.settled (updSlot_congr ?_)
    simp [enterOn, hc, inStartup]
  · have e : pgoodRises (Shown s (.pgood n) true d) n s.units = setSlotBit n .railAnomaly s.units := by
      simp only [List.mem_cons, List.not_mem_nil, or_false] at hs
      rw [pgoodRises]
      rcases hs with hs | hs | hs <;> rw [hs]
    rw [after_units, e]
    exact ⟨setSlotBit_flag _ _ _, rfl⟩
  · simp only [List.mem_cons, List.not_mem_nil, or_false] at hs
    rw [after_units, pgoodRises]
    rcases hs with hs | hs | hs | hs | hs | hs <;> rw [hs]

/-- Settles O36: the timer's expiry acts on the slot and, with PGOOD up, on its event word. -/
theorem settlingEndsByTheBladeEntry : Obligations.SettlingEndsByTheBladeEntry := by
  refine fun s n d h => ⟨_, done_atTimer_act s _ h, rfl, after_sameOutside _ _ _ rfl rfl, ?_⟩
  have hc : pgoodLevel (atDeadline s.ctx d) n = pgoodLevel s.ctx n := rfl
  have hr := restState_eq s.units n
  rw [after_units]
  simp only [settlingEnds, hc, hr]
  cases pgoodLevel s.ctx n
  · exact ⟨rfl, fun h => absurd h (by decide), fun _ => rfl, rfl⟩
  · exact ⟨rfl, fun _ => setSlotBit_flag n .railAnomaly _, fun h => absurd h (by decide), rfl⟩

/-- Settles O31, by the slot's state: one slot acts (`only_leverOpened`), and a slot without power stays through the settling of the account
(`settled_slot_dark`). -/
theorem leverOpeningActsByState : Obligations.LeverOpeningActsByState := by
  intro s n d h hl hp
  let c := Shown s (.presS n) false d
  let v := leverOpened c n s.units
  have hrun : exec (.leverOpening n) s = .next (s.after c (settleAfter c s.units v)) := by
    show done s (onPin _ _ _ s) = _
    rw [onPin_waits h]
    simp only [presLLevel_presS, hp, if_true, slotEvent, hl]
    rfl
  have only : OnlySlot n s.units v := only_leverOpened c n s.units
  have same : accountTerms c s.units = accountTerms c v → budgetLists s.units = budgetLists v →
      (settleAfter c s.units v).settled = v.settled := fun h1 h2 => by rw [settleAfter_same h1 h2]
  refine ⟨_, hrun, rfl, after_sameOutside _ _ _ rfl rfl, frame_settled only.frame, othersStay_settled only, fun hs => ?_, fun hs => ?_,
    fun hs hq => ?_, fun hs => ?_, fun hs => ?_, fun hs => ?_⟩
  · have hv : v = leaveWaitPower n s.units := by simp only [v, leverOpened, hs]
    rw [after_units, hv, settled_slot_dark (dark_identified (by rw [leaveWaitPower_slot])), leaveWaitPower_slot]
    exact ⟨rfl, settleAfter_keeps.frame.waits n (leaveWaitPower_hasWait n s.units)⟩
  · have hv : v = cutToSettling c n s.units := by simp only [v, leverOpened, hs]
    rw [after_units, hv, settled_cutToSettling c n s.units (powered_iff.mpr (.inl hs))]
    exact ⟨rfl, rfl, rfl, rfl, rfl, rfl⟩
  · have hv : v = enterQuiesce c n .eject s.units := by simp only [v, leverOpened, hs]
    have hq' : v.emergency = true ∨ allSuppliesLost v = false := by
      rw [hv, allSuppliesLost_congr (u := s.units) (v := enterQuiesce c n .eject s.units) rfl]; exact hq
    have e := enterQuiesce_slot c n s.units .eject
    have hslot : (settleAfter c s.units v).settled.slot n = (enterQuiesce c n .eject s.units).slot n := by
      rw [settled_slot, settleAfter_quiet hq' (by rw [hv, e]; rfl), hv]
    rw [after_units, hslot, e]
    exact ⟨rfl, rfl, rfl, rfl, rfl, rfl, rfl⟩
  · have hv : v = s.units.updSlot n (fun x => { x with leverMark := true }) := by simp only [v, leverOpened, hs]
    rw [after_units, same (by rw [hv, accountTerms_updSlot] <;> rfl) (by rw [hv, budgetLists_updSlot]; rfl), hv]
  · have hv : v = s.units.updSlot n (fun x => { x with seatTimer := none }) := by simp only [v, leverOpened, hs]
    rw [after_units, same (by rw [hv, accountTerms_updSlot] <;> rfl) (by rw [hv, budgetLists_updSlot]; rfl), hv]
  · have hv : v = s.units := by
      simp only [List.mem_cons, List.not_mem_nil, or_false] at hs
      simp only [v, leverOpened]
      rcases hs with hs | hs | hs | hs | hs <;> rw [hs]
    rw [after_units, same (by rw [hv]) (by rw [hv]), hv]

/-- Settles O34: each of the three causes cuts the slot into FAULT (`cutToFault_settled`). -/
theorem railFaultsCutIntoFault : Obligations.RailFaultsCutIntoFault := by
  refine ⟨fun s n d h hl hs => ?_, fun s n d h hl hm hp => ?_, fun s n d h hs => ?_⟩
  · have hf : pgoodFalls (Shown s (.pgood n) false d) n s.units = cutToFault (Shown s (.pgood n) false d) n .railLost s.units := by
      rw [pgoodFalls]
      rcases hs with hs | hs <;> rw [hs]
    refine ⟨_, done_onPin_slotEvent s _ h hl, rfl, ?_⟩
    rw [hf]
    exact cutToFault_settled .railLost rfl rfl rfl (powered_iff.mpr (.inr hs))
  · have hf : railFaults (Shown s (.railFlt n) true d) n s.units = cutToFault (Shown s (.railFlt n) true d) n .overcurrent s.units := if_pos hm
    refine ⟨_, done_onPin_slotEvent s _ h hl, rfl, ?_⟩
    rw [hf]
    exact cutToFault_settled .overcurrent rfl rfl rfl hp
  · exact ⟨_, done_atTimer_settle s _ h, rfl, cutToFault_settled .chargeTimeout rfl rfl rfl (powered_iff.mpr (.inl hs))⟩

/-- Settles O37: the bit is set, and the cut of R15 leads to SETTLING (`settled_cutToSettling`). -/
theorem quiesceDeadlineCutsToSettling : Obligations.QuiesceDeadlineCutsToSettling := by
  intro s n d h hs
  let c := atDeadline s.ctx d
  let v := cutToSettling c n (setSlotBit n .quiesceTimeout s.units)
  have only : OnlySlot n s.units v := (fix_setSlotBit _).trans only_cutToSettling
  have flag : slotFlag v n .quiesceTimeout = true :=
    (only_cutToSettling (n := n)).frame.slotBits n _ (setSlotBit_flag n .quiesceTimeout s.units)
  refine ⟨_, done_atTimer_settle s _ h, rfl, after_sameOutside _ _ _ rfl rfl, frame_settled only.frame, othersStay_settled only,
    settleAfter_keeps.frame.slotBits n _ flag, ?_⟩
  have hpow : powered ((setSlotBit n .quiesceTimeout s.units).slot n) = true := powered_iff.mpr (.inr (.inr hs))
  rw [after_units, settled_cutToSettling (atDeadline s.ctx d) n _ hpow]
  exact ⟨rfl, rfl, drawAverage_reset rfl, rfl, rfl, rfl, rfl, rfl, rfl, rfl, rfl⟩
end

section
/-! PROOFS. Power requests (R8 to R11): what each test and each action of a request does. -/

namespace Sys2Proof.Machine

theorem inRange_eq_false {lo hi v : Nat} : inRange lo hi v = false ↔ v < lo ∨ hi < v := by
  simp only [inRange, decide_eq_false_iff_not]; omega

/-! ### The wait queue (R53, R54) -/

theorem mem_insertWait {e x : WaitEntry} {l : List WaitEntry} : x ∈ insertWait e l ↔ x = e ∨ x ∈ l := by
  induction l with
  | nil => simp [insertWait]
  | cons y rest ih =>
    simp only [insertWait]
    split
    · simp
    · simp only [List.mem_cons, ih]; tauto

/-- A new entry stands in the queue with skip count 0 and the class of its slot. -/
theorem joinWait_mem (c : Ctx) (n : Fin 12) (w : Nat) (raise : Bool) (u : Units) :
    ∃ e ∈ (joinWait c n w raise u).waitQ, e.slot = n ∧ e.watts = w ∧ e.isRaise = raise ∧ e.skips = 0 ∧ e.cls = slotClass c n :=
  ⟨_, mem_insertWait.mpr (.inl rfl), rfl, rfl, rfl, rfl, rfl⟩

@[simp] theorem joinWait_slot (c : Ctx) (n m : Fin 12) (w : Nat) (raise : Bool) (u : Units) : (joinWait c n w raise u).slot m = u.slot m := rfl

@[simp] theorem wantRaise_slot (c : Ctx) (n m : Fin 12) (w : Nat) (u : Units) : (wantRaise c n w u).slot m = u.slot m := by
  rw [wantRaise]; split <;> rfl

@[simp] theorem removeWait_slot (n m : Fin 12) (u : Units) : (removeWait n u).slot m = u.slot m := rfl

@[simp] theorem replaceWatts_slot (n m : Fin 12) (w : Nat) (u : Units) : (replaceWatts n w u).slot m = u.slot m := rfl

/-! ### The clamp (R9) -/

section clamp
variable {c : Ctx} {n : Fin 12} {u : Units} {w w' : Nat}

theorem clampWatts_eq_none : clampWatts c n u w = none ↔ slotCap c n ≠ 0 ∧ slotCap c n < minPower u n := by
  simp only [clampWatts]
  split
  · next h => simp [h]
  · next h => split <;> simp_all

/-- Clamped watts: in the blade's range, under the cap, and the watts asked for when these are so already. -/
theorem clampWatts_some (hr : minPower u n ≤ maxPower u n) (h : clampWatts c n u w = some w') :
    minPower u n ≤ w' ∧ w' ≤ maxPower u n ∧ (slotCap c n ≠ 0 → w' ≤ slotCap c n)
      ∧ (minPower u n ≤ w → w ≤ maxPower u n → (slotCap c n = 0 ∨ w ≤ slotCap c n) → w' = w) := by
  simp only [clampWatts] at h
  split at h
  · next hc => simp only [Option.some.injEq] at h; subst h; refine ⟨?_, ?_, ?_, ?_⟩ <;> omega
  · next hc =>
    split at h
    · cases h
    · simp only [Option.some.injEq] at h; subst h; refine ⟨?_, ?_, ?_, ?_⟩ <;> omega

end clamp

/-! ### The tests (R8) -/

section tests
variable {c : Ctx} {n : Fin 12} {u : Units} {bs : List Byte}

/-- Tests 4 and 5 refuse a request: the state takes none, or not this kind. -/
theorem kindAllowed_eq_false {kind : Nat} {st : SlotState} : kindAllowed kind st = false ↔
    st ∈ [SlotState.empty, .seating, .standby, .settling, .fault]
      ∨ (st = .identified ∧ kind = 2) ∨ ((st = .charging ∨ st = .quiescing) ∧ kind ≠ 3) := by
  cases st <;> simp [kindAllowed]

theorem takePower_badKind (h : byteAt bs 0 = 0 ∨ 3 < byteAt bs 0) : takePower c n bs u = (.refusedFormat, u) := by
  have e : inRange 1 3 (byteAt bs 0) = false := inRange_eq_false.mpr (by omega)
  simp only [takePower, e, Bool.not_false, if_true]

section format
variable (hk : ¬ (byteAt bs 0 = 0 ∨ 3 < byteAt bs 0))
include hk

theorem takePower_kind : inRange 1 3 (byteAt bs 0) = true := by
  cases e : inRange 1 3 (byteAt bs 0)
  · have := inRange_eq_false.mp e; omega
  · rfl

theorem takePower_held (hh : held c n = true) : takePower c n bs u = (.refusedHeld, u) := by
  simp only [takePower, takePower_kind hk, hh, Bool.not_true, Bool.false_eq_true, if_false, if_true]

theorem takePower_lever (hh : ¬ held c n = true) (hl : presLLevel c n = true ∧ leverClosed c n = false) :
    takePower c n bs u = (.refusedLever, u) := by
  simp only [takePower, takePower_kind hk, hh, hl, Bool.not_true, Bool.not_false, Bool.and_self, Bool.false_eq_true, if_false, if_true]

/-- A request that meets the first three tests is judged by kind and state. -/
theorem takePower_judged (hh : ¬ held c n = true) (hl : ¬ (presLLevel c n = true ∧ leverClosed c n = false)) :
    takePower c n bs u = if kindAllowed (byteAt bs 0) (u.slot n).state = false then (.refusedState, u)
      else if byteAt bs 0 = 3 then (.accepted, powerDown c n u) else powerOnRequest c n (wordAt bs 1) u := by
  have e : (presLLevel c n && !leverClosed c n) = false := by
    rw [← Bool.not_eq_true]; simpa using hl
  simp only [takePower, takePower_kind hk, hh, e, Bool.not_true, Bool.false_eq_true, if_false, Bool.not_eq_true']

end format

/-! ### OFF (R10) -/

theorem powerDown_waitPower (h : (u.slot n).state = .waitPower) : powerDown c n u = leaveWaitPower n u := by rw [powerDown, h]

theorem powerDown_powered (h : powered (u.slot n) = true) : powerDown c n u = cutToSettling c n u := by
  rw [powerDown]
  rcases powered_iff.mp h with h | h | h <;> rw [h]

theorem powerDown_other (h : (u.slot n).state ≠ .waitPower) (h' : powered (u.slot n) = false) : powerDown c n u = u := by
  cases e : (u.slot n).state <;> simp_all [powerDown, powered]

theorem only_powerDown : OnlySlot n u (powerDown c n u) := by
  rw [powerDown]
  split
  · exact only_leaveWaitPower n u
  iterate 3 exact only_cutToSettling
  · exact .refl _ u

theorem cutToSettling_hasWait (h : powered (u.slot n) = true) : hasWait (cutToSettling c n u) n = false := by
  rw [cutToSettling, if_pos h]
  exact hasWait_removeWait n (releaseSlot c n u)

/-! ### ON and CHANGE (R10, R11) -/

/-- Test 6 stands before the clamp, but decides only where clamped watts exist (log 12). -/
theorem powerOnRequest_eq (w : Nat) : powerOnRequest c n w u = match clampWatts c n u w with
    | none => (.refusedCap, u)
    | some w' => if ((u.slot n).state ≠ .on ∨ (u.slot n).grant < w') ∧ bladeValid u n = false then (.refusedIdentity, u)
        else (if w' = w then .accepted else .clamped, powerUp c n w' u) := by
  rw [powerOnRequest]
  cases clampWatts c n u w with
  | none => simp [addsPower]
  | some w' => cases bladeValid u n <;> simp [addsPower, bne]

theorem powerUp_slot_ne {w : Nat} {m : Fin 12} (hm : m ≠ n) : (powerUp c n w u).slot m = u.slot m := by
  have upd : ∀ (v : Units) (f : Slot → Slot), (v.updSlot n f).slot m = v.slot m := fun v f => by rw [updSlot_slot, if_neg (Ne.symm hm)]
  rw [powerUp]
  split
  · exact upd _ _
  · exact upd _ _
  · simp only [changeGrant, lowerGrant]
    split
    · rw [wantRaise_slot, upd]
    · split
      · rw [removeWait_slot, upd]
      · split
        · exact (upd _ _).trans (upd _ _)
        · exact (upd _ _).trans (upd _ _)
  · rfl

/-- R11: watts above the grant make a raise of the difference and leave the slot's power as it is. -/
theorem changeGrant_above {w : Nat} (h : (u.slot n).grant < w) :
    (changeGrant c n w u).slot n = { u.slot n with lastReq := some w }
      ∧ (if hasWait u n then
          (changeGrant c n w u).waitQ = u.waitQ.map (fun e => if e.slot = n then { e with watts := w - (u.slot n).grant } else e)
        else ∃ e ∈ (changeGrant c n w u).waitQ, e.slot = n ∧ e.watts = w - (u.slot n).grant ∧ e.isRaise = true ∧ e.skips = 0) := by
  have e : changeGrant c n w u = wantRaise c n (w - (u.slot n).grant) (u.updSlot n (fun x => { x with lastReq := some w })) := by
    simp only [changeGrant, updSlot_slot_self, h, if_true]
  have ew : hasWait (u.updSlot n (fun x => { x with lastReq := some w })) n = hasWait u n := rfl
  rw [e]
  refine ⟨by rw [wantRaise_slot, updSlot_slot_self], ?_⟩
  rw [wantRaise, ew]
  split
  · rfl
  · obtain ⟨a, ha, h1, h2, h3, h4, -⟩ := joinWait_mem c n (w - (u.slot n).grant) true (u.updSlot n (fun x => { x with lastReq := some w }))
    exact ⟨a, ha, h1, h2, h3, h4⟩

/-- R11: watts equal to the grant take a raise back. -/
theorem changeGrant_equal {w : Nat} (h : w = (u.slot n).grant) :
    (changeGrant c n w u).slot n = { u.slot n with lastReq := some w } ∧ hasWait (changeGrant c n w u) n = false := by
  have e : changeGrant c n w u = removeWait n (u.updSlot n (fun x => { x with lastReq := some w })) := by
    simp [changeGrant, h]
  rw [e]
  exact ⟨by rw [removeWait_slot, updSlot_slot_self], hasWait_removeWait _ _⟩

/-- R11: watts below the grant lower it, and the allowance with it; without a cut left the slot leaves the capped list. -/
theorem changeGrant_below {w : Nat} (h : w < (u.slot n).grant) :
    (changeGrant c n w u).slot n = { newAllowance c (min (u.slot n).allowance w) { u.slot n with lastReq := some w } with grant := w }
      ∧ hasWait (changeGrant c n w u) n = false
      ∧ (changeGrant c n w u).capped = (if w ≤ (u.slot n).allowance then u.capped.filter (· != n) else u.capped) := by
  let v := (removeWait n (u.updSlot n (fun x => { x with lastReq := some w }))).updSlot n
    (fun x => { newAllowance c (min x.allowance w) x with grant := w })
  have e : changeGrant c n w u = if cutOf (v.slot n) = 0 then { v with capped := v.capped.filter (· != n) } else v := by
    simp only [changeGrant, updSlot_slot_self, Nat.not_lt_of_gt h, Nat.ne_of_lt h, if_false]
    rfl
  have hslot : v.slot n = { newAllowance c (min (u.slot n).allowance w) { u.slot n with lastReq := some w } with grant := w } := by
    simp only [v, updSlot_slot_self, removeWait_slot]
  have hcut : cutOf (v.slot n) = 0 ↔ w ≤ (u.slot n).allowance := by
    rw [hslot]
    simp only [cutOf, newAllowance_allowance]
    omega
  have hwait : hasWait v n = false := hasWait_removeWait n (u.updSlot n (fun x => { x with lastReq := some w }))
  rw [e, ← hslot]
  by_cases hc : w ≤ (u.slot n).allowance
  · rw [if_pos (hcut.mpr hc), if_pos hc]; exact ⟨rfl, hwait, rfl⟩
  · rw [if_neg (fun h => hc (hcut.mp h)), if_neg hc]; exact ⟨rfl, hwait, rfl⟩

theorem newAllowance_lastReq (w : Nat) (x : Slot) : (newAllowance c w x).lastReq = x.lastReq := by rw [newAllowance_eq]

/-- A slot in IDENTIFIED enters WAIT_POWER with an entry for the watts (R10, R26). -/
theorem enterWaitPower_slot (w : Nat) : (enterWaitPower c n w u).slot n = { u.slot n with state := .waitPower, lastReq := some w } := by
  rw [enterWaitPower, joinWait_slot, updSlot_slot_self]

/-- What a taken ON or CHANGE does, by the slot's state (R10, R11). -/
theorem powerUp_taken {w kind : Nat} (hstate : (u.slot n).state ∉ [SlotState.empty, .seating, .standby, .settling, .fault])
    (hkind : ¬ (((u.slot n).state = .identified ∧ kind = 2) ∨ (((u.slot n).state = .charging ∨ (u.slot n).state = .quiescing) ∧ kind ≠ 3)))
    (h3 : kind ≠ 3) :
    let x := u.slot n
    let y := (powerUp c n w u).slot n
    let q := (powerUp c n w u).waitQ
    y.lastReq = some w
      ∧ (x.state = .identified → y.state = .waitPower
          ∧ ∃ e ∈ q, e.slot = n ∧ e.watts = w ∧ e.isRaise = false ∧ e.skips = 0 ∧ e.cls = slotClass c n)
      ∧ (x.state = .waitPower → y.state = .waitPower ∧ q = u.waitQ.map (fun e => if e.slot = n then { e with watts := w } else e))
      ∧ (x.state = .on → y.state = .on ∧ y.mainEn = x.mainEn
          ∧ (x.grant < w → y.grant = x.grant ∧ y.allowance = x.allowance
              ∧ (if hasWait u n then q = u.waitQ.map (fun e => if e.slot = n then { e with watts := w - x.grant } else e)
                else ∃ e ∈ q, e.slot = n ∧ e.watts = w - x.grant ∧ e.isRaise = true ∧ e.skips = 0))
          ∧ (w = x.grant → y.grant = x.grant ∧ y.allowance = x.allowance ∧ hasWait (powerUp c n w u) n = false)
          ∧ (w < x.grant → y.grant = w ∧ y.allowance = min x.allowance w ∧ hasWait (powerUp c n w u) n = false
              ∧ (powerUp c n w u).capped = (if w ≤ x.allowance then u.capped.filter (· != n) else u.capped))) := by
  dsimp only
  cases hs : (u.slot n).state with
  | identified =>
    rw [show powerUp c n w u = enterWaitPower c n w u by rw [powerUp, hs], enterWaitPower_slot]
    exact ⟨rfl, fun _ => ⟨rfl, joinWait_mem c n w false _⟩, nofun, nofun⟩
  | waitPower =>
    rw [show powerUp c n w u = replaceWatts n w (u.updSlot n (fun x => { x with lastReq := some w })) by rw [powerUp, hs],
      replaceWatts_slot, updSlot_slot_self]
    exact ⟨rfl, nofun, fun _ => ⟨hs, rfl⟩, nofun⟩
  | on =>
    rw [show powerUp c n w u = changeGrant c n w u by rw [powerUp, hs]]
    rcases Nat.lt_trichotomy (u.slot n).grant w with h | h | h
    · obtain ⟨e, hq⟩ := changeGrant_above (c := c) h
      rw [e]
      exact ⟨rfl, nofun, nofun, fun _ => ⟨hs, rfl, fun _ => ⟨rfl, rfl, hq⟩, fun _ => absurd h (by omega), fun _ => absurd h (by omega)⟩⟩
    · obtain ⟨e, hq⟩ := changeGrant_equal (c := c) h.symm
      rw [e]
      exact ⟨rfl, nofun, nofun, fun _ => ⟨hs, rfl, fun _ => absurd h (by omega), fun _ => ⟨rfl, rfl, hq⟩, fun _ => absurd h (by omega)⟩⟩
    · obtain ⟨e, hq, hc⟩ := changeGrant_below (c := c) h
      rw [e]
      refine ⟨newAllowance_lastReq _ _, nofun, nofun, fun _ => ⟨?_, newAllowance_mainEn _ _ _, fun _ => absurd h (by omega),
        fun _ => absurd h (by omega), fun _ => ⟨rfl, newAllowance_allowance _ _ _, hq, hc⟩⟩⟩
      exact (newAllowance_state _ _ _).trans hs
  | charging => exact absurd (.inr ⟨.inl hs, h3⟩) hkind
  | quiescing => exact absurd (.inr ⟨.inr hs, h3⟩) hkind
  | _ => simp [hs] at hstate

end tests

end Sys2Proof.Machine
end

section
open Sys2Proof Sys2Proof.Machine

/-- Settles O55: the clamp, then the tests in their order, then the action by kind and state. -/
theorem powerRequestsAreJudgedInOrder : Obligations.PowerRequestsAreJudgedInOrder := by
  refine ⟨fun c n u w hr => ⟨clampWatts_eq_none, fun w' h => clampWatts_some hr h⟩, fun c n u bs => ?_⟩
  intro kind asked x r y off
  by_cases hk : kind = 0 ∨ 3 < kind
  · rw [if_pos hk]; exact takePower_badKind hk
  rw [if_neg hk]
  by_cases hh : held c n = true
  · rw [if_pos hh]; exact takePower_held hk hh
  rw [if_neg hh]
  by_cases hl : presLLevel c n = true ∧ leverClosed c n = false
  · rw [if_pos hl]; exact takePower_lever hk hh hl
  rw [if_neg hl]
  have judged : r = _ := takePower_judged hk hh hl
  by_cases h4 : x.state ∈ [SlotState.empty, .seating, .standby, .settling, .fault]
  · rw [if_pos h4, judged, if_pos (kindAllowed_eq_false.mpr (.inl h4))]
  rw [if_neg h4]
  by_cases h5 : (x.state = .identified ∧ kind = 2) ∨ ((x.state = .charging ∨ x.state = .quiescing) ∧ kind ≠ 3)
  · rw [if_pos h5, judged, if_pos (kindAllowed_eq_false.mpr (.inr h5))]
  rw [if_neg h5]
  rw [if_neg (fun h => (kindAllowed_eq_false.mp h).elim h4 h5)] at judged
  by_cases h3 : kind = 3
  · have hr : r = (.accepted, powerDown c n u) := by rw [judged, if_pos h3]
    have hy : y = (powerDown c n u).slot n := by simp only [y, hr]
    rw [if_pos h3]
    refine ⟨fun m hm => by rw [hr]; exact only_powerDown.slots m hm, by rw [hr], fun hs => ?_, fun hs => ?_, fun hp => ?_⟩
    · rw [hr]; exact powerDown_other (by rw [show (u.slot n).state = _ from hs]; decide) (by simp [powered, show (u.slot n).state = _ from hs])
    · rw [hy, hr, powerDown_waitPower hs, leaveWaitPower_slot]
      exact ⟨rfl, leaveWaitPower_hasWait n u⟩
    · simp only [off]
      rw [hy, hr, powerDown_powered hp, cutToSettling_slot c n u hp]
      exact ⟨rfl, rfl, rfl, rfl, rfl, cutToSettling_hasWait hp⟩
  · rw [if_neg h3, powerOnRequest_eq] at judged
    rw [if_neg h3]
    obtain hw | ⟨w, hw⟩ := Option.eq_none_or_eq_some (clampWatts c n u asked)
    · rw [show clampWatts c n u (wordAt bs 1) = none from hw] at judged
      rw [hw]
      exact ⟨fun m _ => by rw [judged], judged⟩
    rw [show clampWatts c n u (wordAt bs 1) = some w from hw] at judged
    rw [hw]
    dsimp only at judged ⊢
    by_cases h6 : (x.state ≠ .on ∨ x.grant < w) ∧ bladeValid u n = false
    · rw [if_pos h6] at judged ⊢
      exact ⟨fun m _ => by rw [judged], judged⟩
    rw [if_neg h6] at judged ⊢
    have hr1 : r.1 = if w = asked then .accepted else .clamped := by rw [judged]
    have hr2 : r.2 = powerUp c n w u := by rw [judged]
    have hy : y = (powerUp c n w u).slot n := by simp only [y, hr2]
    refine ⟨fun m hm => by rw [hr2]; exact powerUp_slot_ne hm, hr1, ?_⟩
    rw [hr2, hy]
    exact powerUp_taken h4 h5 h3
end

section
/-! PROOFS. The admission of a write that holds a whole record, and the manager's commands (R26, R40, R148 to R153, R164, R178). -/

namespace Sys2Proof.Machine

/-! ### Admission (R164) -/

section admission
variable {s : State} {l : Fin 13} {r : Request} {a : Nat}

theorem waitingWrite_of_waits (h : WriteWaits s l r a) : waitingWrite s l = some (r, a) := by
  obtain ⟨⟨rest, hfifo⟩, hjudged, hfree, hkind, htarget, hrows⟩ := h
  have hhead : headOf s l = some r := by rw [headOf, hfifo]; rfl
  have hpend : ¬ (l.val = 0 ∧ rowPending s.wb (writeSpan a r.len) = true) := fun ⟨h0, hp⟩ => by
    rw [hrows (Fin.ext h0)] at hp; cases hp
  simp only [waitingWrite, hhead, hjudged, hfree, hkind, htarget, hpend, List.isEmpty_nil, beq_self_eq_true, Bool.and_self, if_true, if_false]

theorem mayAdmit_of_room (h : HasRoom s l) : mayAdmit s l = true := by
  rcases h with h | ⟨h, hf⟩
  · have e : 4 ≤ freeEntries s := by rw [freeEntries]; omega
    simp [mayAdmit, e]
  · have e : freeEntries s = 3 := by rw [freeEntries, h]
    simp [mayAdmit, e, hf]

theorem admitWrite_of_waits (h : WriteWaits s l r a) (hr : HasRoom s l) (hk : writeClass l a = .plain) :
    admitWrite l s = commitRecords l (commitsOf l (writeSpan a r.len)) (enterQueue l r a s) := by
  have e : admissible s l .plain = some (r, a) := by
    simp only [admissible, waitingWrite_of_waits h, mayAdmit_of_room hr, hk, beq_self_eq_true, Bool.and_self, if_true]
  rw [admitWrite, e]

end admission

/-! ### The queue's view of a record (R149) -/

theorem queueByte_append (wq : List QEntry) (e : QEntry) (a : Nat) : queueByte (wq ++ [e]) a = (entryByte e a).or (queueByte wq a) := by
  induction wq with
  | nil => simp [queueByte]
  | cons x rest ih => simp only [List.cons_append, queueByte, ih, Option.or_assoc]

/-- An entry that does not wrap holds its data bytes at the addresses from its own on. -/
theorem entryByte_run {e : QEntry} {i : Nat} (hp : e.addr % 64 + e.data.length ≤ 64) (hi : i < e.data.length) :
    entryByte e (e.addr + i) = some (e.data.getD i 0) := by
  have hw : ∀ j < e.data.length, wrapAddr e.addr j = e.addr + j := fun j hj => by simp only [wrapAddr]; omega
  have hfind : (entryCells e).find? (fun c => c.1 == e.addr + i) = some (e.addr + i, e.data.getD i 0) := by
    rw [entryCells, List.find?_map, Option.map_eq_some_iff]
    refine ⟨i, List.find?_range_eq_some.mpr ⟨by simp [hw i hi], List.mem_range.mpr hi, fun j hj => ?_⟩, by rw [hw i hi]⟩
    have hne : ¬ j = i := by omega
    simp [hw j (by omega), hne]
  rw [entryByte, hfind]; rfl

/-- The copy of a record that the newest entry holds whole is that entry's data (R149). -/
theorem wholeCopy_newest (wq : List QEntry) {t : TakeRec} {data : List Byte} (src : Option (Fin 13)) (hl : data.length = (takeSpan t).2)
    (hp : (takeSpan t).1 % 64 + (takeSpan t).2 ≤ 64) :
    wholeCopy (copyOf (wq ++ [{ addr := (takeSpan t).1, data := data, source := src }]) t) = some data := by
  have hbyte : ∀ i < data.length,
      queueByte (wq ++ [{ addr := (takeSpan t).1, data := data, source := src }]) ((takeSpan t).1 + i) = some (data.getD i 0) := by
    intro i hi
    rw [queueByte_append, entryByte_run (e := { addr := (takeSpan t).1, data := data, source := src }) (by simpa [hl] using hp) hi]
    rfl
  have hcopy : copyOf (wq ++ [{ addr := (takeSpan t).1, data := data, source := src }]) t = data.map some := by
    apply List.ext_getElem
    · simp [copyOf, span, hl]
    · intro i h1 h2
      have hi : i < data.length := by simpa using h2
      simp only [copyOf, span, List.getElem_map, List.getElem_range, hbyte i hi]
      simp [hi]
  rw [hcopy, wholeCopy]
  simp

/-- No check byte of a row lies beyond the rows (R152). -/
theorem replaceChecks_beyond (c : Ctx) {a : Nat} (ha : 0x200 ≤ a) (data : List Byte) : replaceChecks c a data = data := by
  have hnone : ∀ i, checkRow (wrapAddr a i) = none := fun i => by
    rw [checkRow, List.find?_eq_none]
    intro r _
    have hr := r.isLt
    simp only [wrapAddr, beq_iff_eq]
    omega
  apply List.ext_getElem
  · simp [replaceChecks]
  · intro i h1 h2
    simp [replaceChecks, hnone, h2]

/-! ### The write-back set at the end of a step (R150, R157) -/

/-- Once an entry of the set has a record's present content, the rest of the pass leaves it so. -/
theorem syncRec_keeps {pre post : State} {wb : List WbEntry} {r : RecId} (q : RecId)
    (h : ∃ e ∈ wb, e.record = r ∧ e.content = recBytes post.ctx post.units r) :
    ∃ e ∈ syncRec pre post wb q, e.record = r ∧ e.content = recBytes post.ctx post.units r := by
  obtain ⟨e, he, hr, hc⟩ := h
  simp only [syncRec]
  split
  · refine ⟨_, List.mem_map_of_mem he, ?_, ?_⟩
    · split <;> exact hr
    · split
      · next hq => rw [← hr, hq]
      · exact hc
  · split
    · exact ⟨e, List.mem_append_left _ he, hr, hc⟩
    · exact ⟨e, he, hr, hc⟩

/-- A touched record has an entry with its present content after its turn. -/
theorem syncRec_touched {pre post : State} (wb : List WbEntry) {r : RecId} (h : r ∈ post.units.touched) :
    ∃ e ∈ syncRec pre post wb r, e.record = r ∧ e.content = recBytes post.ctx post.units r := by
  simp only [syncRec]
  split
  · next hp =>
    obtain ⟨e, he, hr⟩ := List.any_eq_true.mp hp
    have hr' : e.record = r := by simpa using hr
    exact ⟨_, List.mem_map_of_mem he, by rw [if_pos hr']; exact hr', by rw [if_pos hr']⟩
  · rw [if_pos (by simp [h])]
    exact ⟨_, List.mem_append_right _ (List.mem_singleton.mpr rfl), rfl, rfl⟩

theorem finish_wb (pre post : State) : (finish pre post).wb = syncWb pre post := by rw [finish]

/-- A touched record has joined the pending set with its present content by the end of the step. -/
theorem finish_touched {pre post : State} {r : RecId} (h : r ∈ post.units.touched) (hr : r ∈ allRecs) :
    ∃ e ∈ (finish pre post).wb, e.record = r ∧ e.content = recBytes post.ctx post.units r := by
  obtain ⟨before, behind, hsplit⟩ := List.append_of_mem hr
  have keeps : ∀ (l : List RecId) (wb : List WbEntry), (∃ e ∈ wb, e.record = r ∧ e.content = recBytes post.ctx post.units r) →
      ∃ e ∈ l.foldl (syncRec pre post) wb, e.record = r ∧ e.content = recBytes post.ctx post.units r := by
    intro l
    induction l with
    | nil => exact fun _ h => h
    | cons q rest ih => exact fun wb h => ih _ (syncRec_keeps q h)
  rw [finish_wb, syncWb, hsplit, List.foldl_append]
  exact keeps behind _ (syncRec_touched _ h)

/-! ### Manager commands (R153) -/

theorem commitsOf_command : commitsOf 0 (writeSpan 0x2000 8) = [.command] := by decide +kernel

/-- What a command leaves alone whatever it is: the queues, memory, the inputs, the rows and the generators. -/
theorem runCommand_frame (kind target : Nat) (s : State) :
    (runCommand kind target s).2.wq = s.wq ∧ (runCommand kind target s).2.links = s.links ∧ (runCommand kind target s).2.mem = s.mem
      ∧ (runCommand kind target s).2.ctx.cfg.rows = s.ctx.cfg.rows ∧ (runCommand kind target s).2.ctx.pins = s.ctx.pins
      ∧ (runCommand kind target s).2.ctx.now = s.ctx.now ∧ (runCommand kind target s).2.pwm = s.pwm := by
  rw [runCommand]
  split
  · split
    · rw [slotCmd]; split <;> try split <;> try split
      all_goals exact ⟨rfl, rfl, rfl, rfl, rfl, rfl, rfl⟩
    · exact ⟨rfl, rfl, rfl, rfl, rfl, rfl, rfl⟩
  · split
    · exact ⟨rfl, rfl, rfl, rfl, rfl, rfl, rfl⟩
    · split
      · split <;> exact ⟨rfl, rfl, rfl, rfl, rfl, rfl, rfl⟩
      · split
        · rw [cmdClearFailsafe]; split <;> try split
          all_goals exact ⟨rfl, rfl, rfl, rfl, rfl, rfl, rfl⟩
        · split <;> exact ⟨rfl, rfl, rfl, rfl, rfl, rfl, rfl⟩

section run
variable {kind target : Nat} {s : State}

theorem runCommand_bad (h : kind = 0 ∨ 8 < kind) : runCommand kind target s = (.badCommand, s) := by
  rw [runCommand, if_neg (by omega), if_neg (by omega), if_neg (by omega), if_neg (by omega), if_neg (by omega)]

theorem runCommand_noSlot (h1 : 1 ≤ kind) (h4 : kind ≤ 4) (ht : 12 ≤ target) : runCommand kind target s = (.badTarget, s) := by
  rw [runCommand, if_pos ⟨h1, h4⟩, dif_neg (by omega)]

theorem runCommand_slot (h1 : 1 ≤ kind) (h4 : kind ≤ 4) (n : Fin 12) : runCommand kind n.val s = slotCmd kind n s := by
  rw [runCommand, if_pos ⟨h1, h4⟩, dif_pos n.isLt]

end run

/-- The record is handed over from a state that differs from `s` in the links' registers and the write queue alone. -/
theorem admitCommand_eq {s : State} {r : Request} (h : WriteWaits s 0 r 0x2000) (hr : HasRoom s 0) (hl : r.len = 8) (hd : r.data.length = 8) :
    ∃ q : State, admitWrite 0 s = takeCommand r.data q ∧ q.ctx = s.ctx ∧ q.units = s.units ∧ q.reads = s.reads ∧ q.mem = s.mem
      ∧ q.pwm = s.pwm ∧ q.wq = s.wq ++ [{ addr := 0x2000, data := r.data, source := some 0 }] ∧ (q.links.get 0).takes = [] := by
  have hcopy := wholeCopy_newest s.wq (t := .command) (some 0) hd (by decide)
  let e : State := enterQueue 0 r 0x2000 s
  have he : e.wq = s.wq ++ [{ addr := 0x2000, data := r.data, source := some 0 }] := by
    show s.wq ++ [{ addr := 0x2000, data := replaceChecks s.ctx 0x2000 r.data, source := some 0 }] = _
    rw [replaceChecks_beyond _ (by decide)]
  have hmark : markChanged [.command] e = e := by
    rw [markChanged]; split <;> rfl
  let take : Take := { record := .command, copy := copyOf e.wq .command, discarded := false }
  let q0 : State := e.updLink 0 (fun x => { x with takes := [take] })
  have hq0 : (q0.links.get 0).takes = [take] := by simp [q0]
  have hwhole : wholeCopy take.copy = some r.data := by simp only [take, he]; exact hcopy
  refine ⟨q0.updLink 0 (fun x => { x with takes := [] }), ?_, rfl, rfl, rfl, rfl, rfl, he, by simp⟩
  have hadmit : admitWrite 0 s = runTakes 0 1 q0 := by
    rw [admitWrite_of_waits h hr (by decide), hl, commitsOf_command, commitRecords, hmark]
    rfl
  rw [hadmit, runTakes, hq0]
  dsimp only
  rw [hwhole]
  dsimp only
  rw [runTakes, completeTake, hq0]
  rfl

/-! ### The slot commands (R26) -/

section commands
variable (c : Ctx) (n : Fin 12) (u : Units)

theorem cmdSlotOn_rules :
    let on := cmdSlotOn c n u
    if c.sup.mode = .failsafe ∧ powerHold c = true then on = (.failsafeHold, u)
    else if (u.slot n).state ≠ .identified ∨ held c n = true ∨ leverClosed c n = false then on = (.badState, u)
    else match clampWatts c n u ((u.slot n).lastReq.getD (maxPower u n)) with
      | none => on = (.badState, u)
      | some w => on.1 = .accepted ∧ (on.2.slot n).state = .waitPower ∧ (on.2.slot n).lastReq = some w
         ∧ (∃ e ∈ on.2.waitQ, e.slot = n ∧ e.watts = w ∧ e.isRaise = false ∧ e.skips = 0 ∧ e.cls = slotClass c n)
         ∧ ∀ m, m ≠ n → on.2.slot m = u.slot m := by
  have hold : holdsPower c = true ↔ c.sup.mode = .failsafe ∧ powerHold c = true := by simp [holdsPower]
  dsimp only
  by_cases h1 : c.sup.mode = .failsafe ∧ powerHold c = true
  · rw [if_pos h1, cmdSlotOn, if_pos (hold.mpr h1)]
  rw [if_neg h1, cmdSlotOn, if_neg (fun h => h1 (hold.mp h))]
  by_cases h2 : (u.slot n).state ≠ .identified ∨ held c n = true ∨ leverClosed c n = false
  · rw [if_pos h2, if_pos (by simpa using h2)]
  rw [if_neg h2, if_neg (by simpa using h2)]
  cases clampWatts c n u ((u.slot n).lastReq.getD (maxPower u n)) with
  | none => rfl
  | some w =>
    dsimp only
    rw [enterWaitPower_slot]
    refine ⟨rfl, rfl, rfl, joinWait_mem c n w false _, fun m hm => ?_⟩
    rw [enterWaitPower, joinWait_slot, updSlot_slot, if_neg (Ne.symm hm)]

theorem cmdSlotOff_rules :
    let off := cmdSlotOff c n u
    ((u.slot n).state = .on → off.1 = .accepted ∧ (off.2.slot n).state = .quiescing ∧ (off.2.slot n).qReason = some .managerOff
        ∧ (off.2.slot n).qNumber = (u.slot n).qNumber + 1 ∧ (off.2.slot n).qTimer = some (c.now + quiesceTime c n)
        ∧ (off.2.slot n).allowance = (u.slot n).allowance)
      ∧ ((u.slot n).state = .waitPower → off.1 = .accepted ∧ (off.2.slot n).state = .identified ∧ hasWait off.2 n = false)
      ∧ ((u.slot n).state = .charging → off.1 = .accepted ∧ (off.2.slot n).state = .settling ∧ (off.2.slot n).mainEn = false)
      ∧ ((u.slot n).state ∉ [SlotState.on, .waitPower, .charging] → off = (.badState, u)) := by
  dsimp only
  refine ⟨fun h => ?_, fun h => ?_, fun h => ?_, fun h => ?_⟩
  · rw [show cmdSlotOff c n u = (.accepted, enterQuiesce c n .managerOff u) by rw [cmdSlotOff, h], enterQuiesce_slot]
    exact ⟨rfl, rfl, rfl, rfl, rfl, rfl⟩
  · rw [show cmdSlotOff c n u = (.accepted, leaveWaitPower n u) by rw [cmdSlotOff, h], leaveWaitPower_slot]
    exact ⟨rfl, rfl, leaveWaitPower_hasWait n u⟩
  · rw [show cmdSlotOff c n u = (.accepted, cutToSettling c n u) by rw [cmdSlotOff, h],
      cutToSettling_slot c n u (powered_iff.mpr (.inl h))]
    exact ⟨rfl, rfl, rfl⟩
  · cases e : (u.slot n).state <;> simp_all [cmdSlotOff]

theorem cmdSlotCut_rules :
    let cut := cmdSlotCut c n u
    ((u.slot n).state = .waitPower → cut.1 = .accepted ∧ (cut.2.slot n).state = .identified ∧ hasWait cut.2 n = false)
      ∧ (powered (u.slot n) = true → cut.1 = .accepted ∧ (cut.2.slot n).state = .settling ∧ (cut.2.slot n).mainEn = false
          ∧ (cut.2.slot n).grant = 0 ∧ (cut.2.slot n).settleTimer = some (c.now + 500))
      ∧ ((u.slot n).state ≠ .waitPower → powered (u.slot n) = false → cut = (.badState, u)) := by
  dsimp only
  refine ⟨fun h => ?_, fun h => ?_, fun h h' => ?_⟩
  · rw [show cmdSlotCut c n u = (.accepted, leaveWaitPower n u) by rw [cmdSlotCut, h], leaveWaitPower_slot]
    exact ⟨rfl, rfl, leaveWaitPower_hasWait n u⟩
  · have e : cmdSlotCut c n u = (.accepted, cutToSettling c n u) := by
      rw [cmdSlotCut]
      rcases powered_iff.mp h with h | h | h <;> rw [h]
    rw [e, cutToSettling_slot c n u h]
    exact ⟨rfl, rfl, rfl, rfl, rfl⟩
  · cases e : (u.slot n).state <;> simp_all [cmdSlotCut, powered]

theorem cmdSlotClear_fault (h : (u.slot n).state = .fault) : (cmdSlotClear n u).1 = .accepted
    ∧ (cmdSlotClear n u).2 = u.updSlot n (fun x =>
        { x with state := if bladeValid u n then .identified else .standby, faultReason := none, leverMark := false }) := by
  rw [cmdSlotClear, if_pos h]; exact ⟨rfl, rfl⟩

/-- A read that joins the module bus queue waits there or is the one that starts (R36). -/
theorem queueBus_read (b : Fin 14) (h : readRuns u b = false) : (queueBus (.read b) u).inv = u.inv
    ∧ (BusItem.read b ∈ (queueBus (.read b) u).busQueue ∨ (queueBus (.read b) u).busOp = some (.read b 1 none false)) := by
  have hq : u.busQueue.contains (.read b) = false := (Bool.or_eq_false_iff.mp h).1
  simp only [queueBus, hq, Bool.false_eq_true, if_false, startBus]
  split
  · next b' rest _ hl =>
    refine ⟨rfl, ?_⟩
    cases hu : u.busQueue with
    | nil => rw [hu] at hl; cases hl; exact .inr rfl
    | cons x xs => rw [hu] at hl; cases hl; exact .inl (List.mem_append_right _ (List.mem_singleton.mpr rfl))
  · next k rest _ hl =>
    refine ⟨rfl, ?_⟩
    cases hu : u.busQueue with
    | nil => rw [hu] at hl; cases hl
    | cons x xs => rw [hu] at hl; cases hl; exact .inl (List.mem_append_right _ (List.mem_singleton.mpr rfl))
  · exact ⟨rfl, .inl (List.mem_append_right _ (List.mem_singleton.mpr rfl))⟩

theorem cmdRescan_rules (target : Nat) : (target < 12 ∨ 25 < target → cmdRescan c target u = (.badTarget, u))
    ∧ ∀ b : Fin 14, target = b.val + 12 →
      (bayLevel c b = false → cmdRescan c target u = (.badState, u))
      ∧ (bayLevel c b = true → readRuns u b = true → cmdRescan c target u = (.busy, u))
      ∧ (bayLevel c b = true → readRuns u b = false → (cmdRescan c target u).1 = .accepted ∧ (cmdRescan c target u).2.inv = u.inv
          ∧ (BusItem.read b ∈ (cmdRescan c target u).2.busQueue ∨ (cmdRescan c target u).2.busOp = some (.read b 1 none false))) := by
  refine ⟨fun h => by rw [cmdRescan, dif_neg (by omega)], fun b hb => ?_⟩
  have e : cmdRescan c target u =
      if !bayLevel c b then (.badState, u) else if readRuns u b then (.busy, u) else (.accepted, queueBus (.read b) u) := by
    subst hb
    rw [cmdRescan, dif_pos (by omega)]
    rfl
  rw [e]
  refine ⟨fun h => by rw [h]; rfl, fun h h' => by rw [h, h']; rfl, fun h h' => ?_⟩
  rw [h, h']
  exact ⟨rfl, queueBus_read u b h'⟩

end commands

end Sys2Proof.Machine
end

section
open Sys2Proof Sys2Proof.Machine

/-- Settles O19: the record is handed over whole (`admitCommand_eq`), and the answer is that of its kind. -/
theorem managerCommandsAreAnswered : Obligations.ManagerCommandsAreAnswered := by
  refine ⟨fun s r h hr hl hd => ?_, fun c n u => ⟨cmdSlotOn_rules c n u, cmdSlotOff_rules c n u, cmdSlotCut_rules c n u,
    cmdSlotClear_fault n u, fun h => if_neg h, cmdRescan_rules c u⟩⟩
  obtain ⟨q, hadmit, hctx, hunits, hreads, hmem, hpwm, hwq, htakes⟩ := admitCommand_eq h hr hl hd
  let a := runCommand (byteAt r.data 0) (byteAt r.data 1) q
  have ha : a = runCommand (byteAt r.data 0) (byteAt r.data 1) q := rfl
  obtain ⟨fwq, flinks, fmem, frows, fpins, fnow, fpwm⟩ := runCommand_frame (byteAt r.data 0) (byteAt r.data 1) q
  have hrun : exec (.writeAdmission 0) s = .next (finish s (takeCommand r.data q)) := by
    show done s (admitWrite 0 s) = _
    rw [hadmit]; rfl
  have hwb := finish_touched (pre := s) (post := takeCommand r.data q) (r := .managerStatus)
    (List.mem_append_right _ (List.mem_singleton.mpr rfl)) (by decide +kernel)
  refine ⟨_, hrun, rfl, rfl, rfl, ?_, fwq.trans hwq, ?_, fmem.trans hmem, frows.trans (by rw [hctx]), fpins.trans (by rw [hctx]),
    fnow.trans (by rw [hctx]), fpwm.trans hpwm, ?_⟩
  · exact hwb
  · exact (congrArg (fun ls => (Vector.get ls 0).takes) flinks).trans htakes
  intro kind target answer unit
  have hanswer : answer = resultCode a.1 := rfl
  have hcfg : (finish s (takeCommand r.data q)).ctx.cfg = a.2.ctx.cfg := rfl
  have hsup : (finish s (takeCommand r.data q)).ctx.sup.mode = a.2.ctx.sup.mode := rfl
  have hunit : ∀ f : Ctx → Units → CmdResult × Units, a = unitsCmd f q → unit (f s.ctx s.units) := by
    intro f hf
    refine ⟨by rw [hanswer, hf, unitsCmd, hctx, hunits], ?_⟩
    show a.2.units.settled = _
    rw [hf, unitsCmd, hctx, hunits]
  have hsame : ∀ x : CmdResult, a = (x, q) →
      answer = resultCode x ∧ (finish s (takeCommand r.data q)).units = s.units.settled := by
    intro x hx
    refine ⟨by rw [hanswer, hx], ?_⟩
    show a.2.units.settled = _
    rw [hx, hunits]
  refine ⟨fun hk => hsame _ (runCommand_bad hk), fun h1 h4 ht => hsame _ (runCommand_noSlot h1 h4 ht), fun n hn => ?_, fun hk => ?_,
    fun hk => ?_, fun hk => ?_, fun hk => ?_⟩
  · have hslot : 1 ≤ kind → kind ≤ 4 → a = slotCmd kind n q := fun h1 h4 => by
      rw [ha, show byteAt r.data 1 = n.val from hn]; exact runCommand_slot h1 h4 n
    refine ⟨fun hk => hunit (fun c u => cmdSlotOn c n u) ?_, fun hk => hunit (fun c u => cmdSlotOff c n u) ?_,
      fun hk => hunit (fun c u => cmdSlotCut c n u) ?_, fun hk => hunit (fun _ u => cmdSlotClear n u) ?_⟩
    all_goals
      rw [hslot (by omega) (by omega), hk]
      rfl
  · refine hunit (fun c u => cmdRescan c target u) ?_
    rw [ha, show byteAt r.data 0 = 5 from hk]; rfl
  · have h6 : a = if s.ctx.cfg.auditing then (.busy, q) else (.accepted, startAudit q) := by
      rw [ha, show byteAt r.data 0 = 6 from hk, ← hctx]; rfl
    have hr6 : (finish s (takeCommand r.data q)).reads = a.2.reads := rfl
    rw [hanswer, hcfg, hr6, h6]
    split
    · exact ⟨rfl, hreads⟩
    · exact ⟨rfl, rfl, congrArg (· ++ [IRead.audit 0]) hreads⟩
  · have h7 : a = cmdClearFailsafe q := by
      rw [ha, show byteAt r.data 0 = 7 from hk]; rfl
    rw [hanswer, hsup, h7, cmdClearFailsafe, hctx]
    by_cases hm : s.ctx.sup.mode ≠ .failsafe
    · rw [if_pos hm, if_pos hm]; exact ⟨rfl, by rw [hctx]⟩
    rw [if_neg hm, if_neg hm]
    by_cases hs : s.ctx.sup.served = false
    · rw [if_pos hs, if_pos (by rw [hs]; rfl)]; exact ⟨rfl, by rw [hctx]; simpa using hm⟩
    · rw [if_neg hs, if_neg (by simpa using hs)]; exact ⟨rfl, rfl⟩
  · have h8 : a = (.accepted, q.setSup (fun x => { x with restartArmed := true })) := by
      rw [ha, show byteAt r.data 0 = 8 from hk]; rfl
    have ht : (finish s (takeCommand r.data q)).ctx.sup.restartArmed = a.2.ctx.sup.restartArmed := rfl
    have hu : (finish s (takeCommand r.data q)).units = a.2.units.settled := rfl
    rw [hanswer, ht, hu, h8]
    exact ⟨rfl, rfl, by rw [setSup_units, hunits]⟩
end

section
/-! PROOFS. The uplink unit's operations: `Wired` says which fields of the units they can change, and the lemmas on `chans` what they do to
a channel. -/

namespace Sys2Proof.Machine

/-! ### The fields that wiring changes -/

/-- `v` differs from `u` in ports, channels, uplink wait list and crossbar queue alone. -/
def Wired (u v : Units) : Prop :=
  v = { u with ports := v.ports, chans := v.chans, chanGen := v.chanGen, upWait := v.upWait, disables := v.disables, xq := v.xq,
               xFlight := v.xFlight }

section
variable {u v w : Units} {c : Ctx} {n : Fin 12}

theorem Wired.refl (u : Units) : Wired u u := rfl

theorem Wired.trans (a : Wired u v) (b : Wired v w) : Wired u w := by
  rw [Wired] at *
  rw [a] at b
  exact b

theorem Wired.foldl {α : Type} {f : Units → α → Units} (h : ∀ u a, Wired u (f u a)) (l : List α) (u : Units) : Wired u (l.foldl f u) := by
  induction l generalizing u with
  | nil => exact .refl u
  | cons a rest ih => exact (h u a).trans (ih _)

theorem Wired.ite {p : Prop} [Decidable p] (a : Wired u v) (b : Wired u w) : Wired u (if p then v else w) := by split <;> assumption

/-- Any view of the units after wiring is that of the units before with the wired fields replaced. -/
theorem Wired.view {α : Type} (h : Wired u v) (g : Units → α) : g v = g { u with
    ports := v.ports, chans := v.chans, chanGen := v.chanGen, upWait := v.upWait, disables := v.disables, xq := v.xq, xFlight := v.xFlight } :=
  congrArg g h

theorem Wired.slots (h : Wired u v) : v.slots = u.slots := h.view Units.slots
theorem Wired.slot (h : Wired u v) (m : Fin 12) : v.slot m = u.slot m := h.view (fun u => u.slot m)
theorem Wired.inv (h : Wired u v) : v.inv = u.inv := h.view Units.inv
theorem Wired.slotEvents (h : Wired u v) : v.slotEvents = u.slotEvents := h.view Units.slotEvents
theorem Wired.chassisEvent (h : Wired u v) : v.chassisEvent = u.chassisEvent := h.view Units.chassisEvent
theorem Wired.waitQ (h : Wired u v) : v.waitQ = u.waitQ := h.view Units.waitQ
theorem Wired.grantOrder (h : Wired u v) : v.grantOrder = u.grantOrder := h.view Units.grantOrder
theorem Wired.capped (h : Wired u v) : v.capped = u.capped := h.view Units.capped
theorem Wired.shed (h : Wired u v) : v.shed = u.shed := h.view Units.shed
theorem Wired.linkErr (h : Wired u v) : v.linkErr = u.linkErr := h.view Units.linkErr
theorem Wired.sensors (h : Wired u v) : v.sensors = u.sensors := h.view Units.sensors

theorem wired_putChan (ch : Fin 32) (x : Chan) : Wired u (putChan ch x u) := rfl
theorem wired_updChan (ch : Fin 32) (f : Chan → Chan) : Wired u (updChan ch f u) := rfl
theorem wired_updPort (p : Fin 4) (f : Port → Port) : Wired u (u.updPort p f) := rfl
theorem wired_upWait (l : List (Fin 12)) : Wired u { u with upWait := l } := rfl

theorem wired_sendNext : Wired u (sendNext c u) := by
  rw [sendNext]; split <;> rfl

theorem wired_queueCmd (cmd : XCmd) : Wired u (queueCmd c cmd u) := Wired.trans (v := { u with xq := u.xq ++ [cmd] }) rfl wired_sendNext

theorem wired_takeChannel (ch : Fin 32) (k : Fin 4) : Wired u (takeChannel c ch n k u) := by
  rw [takeChannel]
  exact (Wired.ite (.refl u) (wired_updPort _ _)).trans ((wired_updChan _ _).trans (wired_queueCmd _))

theorem wired_fillSlot : Wired u (fillSlot c n u) := by
  refine Wired.foldl (fun u k => ?_) _ u
  split
  · split
    · exact wired_takeChannel _ _
    · exact .refl u
  · exact .refl u

theorem wired_syncWait : Wired u (syncWait n u) := by
  rw [syncWait]
  exact .ite (wired_upWait _) (.ite (.refl u) (wired_upWait _))

theorem wired_serveWait : Wired u (serveWait c u) := Wired.foldl (fun _ _ => wired_fillSlot.trans wired_syncWait) _ u

theorem wired_releaseChan (ch : Fin 32) : Wired u (releaseChan c ch u) := by
  rw [releaseChan]; split <;> rfl

theorem wired_releases (l : List (Fin 32)) : Wired u (l.foldl (fun u ch => releaseChan c ch u) u) :=
  Wired.foldl (fun _ ch => wired_releaseChan ch) l u

theorem wired_disablePort (p : Fin 4) : Wired u (disablePort u p) := by
  rw [disablePort]; split <;> rfl

theorem wired_disableIdle : Wired u (disableIdle u) := Wired.foldl (fun _ p => wired_disablePort p) _ u

theorem wired_portComesIntoUse (p : Fin 4) : Wired u (portComesIntoUse p u) :=
  Wired.foldl (fun u _ => Wired.ite (wired_putChan _ _) (.refl u)) _ u

/-! ### What they do to a channel -/

theorem putChan_chans (ch j : Fin 32) (x : Chan) : (putChan ch x u).chans.get j = if ch = j then x else u.chans.get j := by
  simp only [putChan, updAt_get]

theorem updChan_chans (ch j : Fin 32) (f : Chan → Chan) :
    (updChan ch f u).chans.get j = if ch = j then f (u.chans.get j) else u.chans.get j := by
  rw [updChan, putChan_chans]
  split
  · next h => subst h; rfl
  · rfl

theorem sendNext_chans : (sendNext c u).chans = u.chans := by rw [sendNext]; split <;> rfl

@[simp] theorem queueCmd_chans (cmd : XCmd) : (queueCmd c cmd u).chans = u.chans := sendNext_chans

/-- The chosen channel takes holder and lane; no other channel changes (R135). -/
theorem takeChannel_chans (ch j : Fin 32) (k : Fin 4) : (takeChannel c ch n k u).chans.get j =
    if ch = j then { u.chans.get j with state := .switching, held := some (n, k), cmd := .connect, answer := false, drain := none }
    else u.chans.get j := by
  simp only [takeChannel, queueCmd_chans]
  rw [updChan_chans]
  split <;> split <;> rfl

/-- A chosen channel is FREE (R135). -/
theorem chooseChannel_free {elig : Fin 4 → Bool} {ch : Fin 32} (h : chooseChannel c u elig = some ch) : (u.chans.get ch).state = .free := by
  rw [chooseChannel, Option.bind_eq_some_iff] at h
  obtain ⟨p, -, hp⟩ := h
  have hm := List.mem_of_mem_head? hp
  rw [freePlaces, List.mem_filter] at hm
  simpa using hm.2

/-- A release acts on an active channel and makes it DRAINING with its holder (R139). -/
theorem releaseChan_chans (ch j : Fin 32) : (releaseChan c ch u).chans.get j =
    if ch = j ∧ isActive (u.chans.get j) = true then
      { u.chans.get j with
        state := .draining, answer := (u.chans.get j).state == .switching,
        drain := if (u.chans.get j).state = .switching then none else startTimer c (drainTime c) }
    else u.chans.get j := by
  by_cases h : ch = j
  · subst h
    simp only [releaseChan]
    cases hs : (u.chans.get ch).state <;> simp [updChan_chans, isActive, hs]
  · have e : (releaseChan c ch u).chans.get j = u.chans.get j := by
      rw [releaseChan]
      split
      iterate 3 exact (updChan_chans ch j _).trans (if_neg h)
      · rfl
    rw [e, if_neg (fun a => h a.1)]

/-! ### The wait list -/

theorem fillSlot_upWait : (fillSlot c n u).upWait = u.upWait := by
  have take : ∀ (u : Units) (ch : Fin 32) (k : Fin 4), (takeChannel c ch n k u).upWait = u.upWait := fun u ch k => by
    simp only [takeChannel, queueCmd, sendNext]
    split <;> split <;> rfl
  rw [fillSlot]
  refine List.foldlRecOn (motive := fun v : Units => v.upWait = u.upWait) _ _ rfl (fun v hv k _ => ?_)
  split
  · split
    · rw [take]; exact hv
    · exact hv
  · exact hv

/-- The list's own service joins no slot but the one it is for. -/
theorem syncWait_upWait {m : Fin 12} (h : m ∈ (syncWait n u).upWait) : m ∈ u.upWait ∨ m = n := by
  rw [syncWait] at h
  split at h
  · exact .inl (List.mem_filter.mp h).1
  · split at h
    · exact .inl h
    · simpa using h

/-- Serving the wait list brings no slot into it (R136). -/
theorem serveWait_upWait {m : Fin 12} (h : m ∈ (serveWait c u).upWait) : m ∈ u.upWait := by
  have key : ∀ m ∈ (serveWait c u).upWait, m ∈ u.upWait := by
    rw [serveWait]
    refine List.foldlRecOn (motive := fun v : Units => ∀ m ∈ v.upWait, m ∈ u.upWait) _ _ (fun _ h => h) (fun v hv n hn => ?_)
    intro a ha
    rcases syncWait_upWait ha with ha | ha
    · rw [fillSlot_upWait] at ha; exact hv a ha
    · rw [ha]; exact hn
  exact key m h

end

end Sys2Proof.Machine
end

section
/-! PROOFS. What settling the account leaves as it was beyond `Frame` and the dark slots: lists, event words of dark slots, who is seated, the
standby rail, channels that drain, and the crossbar command in flight (R12 to R15, R56 to R75, R136). -/

namespace Sys2Proof.Machine

/-- What the budget unit's reaction to an event leaves as it was. -/
structure Budgeted (u v : Units) : Prop where
  keeps : Keeps dark u v
  grantOrder : ∀ m, dark (u.slot m) = true → m ∈ v.grantOrder → m ∈ u.grantOrder
  capped : ∀ m, dark (u.slot m) = true → m ∈ v.capped → m ∈ u.capped
  shed : ∀ m, dark (u.slot m) = true → m ∈ v.shed → m ∈ u.shed
  upWait : ∀ m, m ∈ v.upWait → m ∈ u.upWait
  events : ∀ m, dark (u.slot m) = true → v.slotEvents.get m = u.slotEvents.get m
  seated : ∀ m, isSeated (v.slot m) = isSeated (u.slot m)
  fixed : ∀ m, (v.slot m).settled = (u.slot m).settled ∧ (v.slot m).stbyEn = (u.slot m).stbyEn
  draining : ∀ ch, (u.chans.get ch).state = .draining → v.chans.get ch = u.chans.get ch
  flight : ∀ f, u.xFlight = some f → v.xFlight = some f

/-- The seat, the settled mark and the standby rail of a slot are the same. -/
def SameSeat (x y : Slot) : Prop := isSeated y = isSeated x ∧ y.settled = x.settled ∧ y.stbyEn = x.stbyEn

section
variable {u v w : Units} {c : Ctx} {n : Fin 12}

theorem Budgeted.refl (u : Units) : Budgeted u u :=
  ⟨.refl u, fun _ _ h => h, fun _ _ h => h, fun _ _ h => h, fun _ h => h, fun _ _ => rfl, fun _ => rfl, fun _ => ⟨rfl, rfl⟩, fun _ _ => rfl,
    fun _ h => h⟩

theorem Budgeted.dark (h : Budgeted u v) {m : Fin 12} (hd : dark (u.slot m) = true) : Machine.dark (v.slot m) = true := by
  rw [h.keeps.slots m hd]; exact hd

theorem Budgeted.trans (a : Budgeted u v) (b : Budgeted v w) : Budgeted u w where
  keeps := a.keeps.trans b.keeps
  grantOrder m h hm := a.grantOrder m h (b.grantOrder m (a.dark h) hm)
  capped m h hm := a.capped m h (b.capped m (a.dark h) hm)
  shed m h hm := a.shed m h (b.shed m (a.dark h) hm)
  upWait m h := a.upWait m (b.upWait m h)
  events m h := (b.events m (a.dark h)).trans (a.events m h)
  seated m := (b.seated m).trans (a.seated m)
  fixed m := ⟨(b.fixed m).1.trans (a.fixed m).1, (b.fixed m).2.trans (a.fixed m).2⟩
  draining ch h := by
    have e := a.draining ch h
    rw [b.draining ch (by rw [e]; exact h), e]
  flight f h := b.flight f (a.flight f h)

theorem Budgeted.ite {p : Prop} [Decidable p] (a : p → Budgeted u v) (b : ¬ p → Budgeted u w) : Budgeted u (if p then v else w) := by
  split
  · next h => exact a h
  · next h => exact b h

/-- An operation that fixes every slot and changes no field of `Budgeted` but the frame's. -/
theorem Budgeted.of_fix (h : AllFix u v) (hg : v.grantOrder = u.grantOrder) (hc : v.capped = u.capped) (hs : v.shed = u.shed)
    (hw : v.upWait = u.upWait) (he : v.slotEvents = u.slotEvents) (hch : v.chans = u.chans) (hx : v.xFlight = u.xFlight) : Budgeted u v where
  keeps := keeps_fix h
  grantOrder _ _ hm := hg ▸ hm
  capped _ _ hm := hc ▸ hm
  shed _ _ hm := hs ▸ hm
  upWait _ hm := hw ▸ hm
  events _ _ := by rw [he]
  seated m := by rw [h.slots m trivial]
  fixed m := by rw [h.slots m trivial]; exact ⟨rfl, rfl⟩
  draining _ _ := by rw [hch]
  flight _ hf := hx.trans hf

theorem budgeted_setChassisBit (b : ChassisBit) : Budgeted u (setChassisBit b u) := .of_fix (fix_setChassisBit b) rfl rfl rfl rfl rfl rfl rfl

theorem budgeted_shedTimer (t : Timer) : Budgeted u { u with shedTimer := t } := .of_fix (fix_shedTimer t) rfl rfl rfl rfl rfl rfl rfl

theorem fix_lists (g k l : List (Fin 12)) : AllFix u { u with grantOrder := g, capped := k, shed := l } :=
  .of_eq (by constructor <;> intros <;> first | rfl | assumption) rfl

/-! ### Operations on one slot that is not dark

They are stated as extensions of what has happened since `u`: the slot need not be dark at `u`. -/

/-- Slot `n` alone changes, and its seat does not. -/
theorem Budgeted.updSlot (h : Budgeted u v) {f : Slot → Slot} (hd : Machine.dark (u.slot n) = false)
    (hf : SameSeat (v.slot n) (f (v.slot n))) : Budgeted u (v.updSlot n f) where
  keeps := ⟨h.keeps.frame.trans (frame_updSlot f), fun m hm => by
    have hne : n ≠ m := fun e => by rw [e, hm] at hd; cases hd
    rw [updSlot_slot, if_neg hne]; exact h.keeps.slots m hm⟩
  grantOrder := h.grantOrder
  capped := h.capped
  shed := h.shed
  upWait := h.upWait
  events := h.events
  seated m := by
    rw [updSlot_slot]; split
    · next e => subst e; rw [hf.1]; exact h.seated n
    · exact h.seated m
  fixed m := by
    rw [updSlot_slot]; split
    · next e => subst e; rw [hf.2.1, hf.2.2]; exact h.fixed n
    · exact h.fixed m
  draining := h.draining
  flight := h.flight

/-- Lists that may have gained slot `n`. -/
theorem Budgeted.lists (h : Budgeted u v) (hd : Machine.dark (u.slot n) = false) (g k l : List (Fin 12))
    (hg : ∀ m ∈ g, m ∈ v.grantOrder ∨ m = n) (hk : ∀ m ∈ k, m ∈ v.capped ∨ m = n) (hl : ∀ m ∈ l, m ∈ v.shed ∨ m = n) :
    Budgeted u { v with grantOrder := g, capped := k, shed := l } := by
  have hne : ∀ m, Machine.dark (u.slot m) = true → m ≠ n := fun m hm e => by rw [e, hd] at hm; cases hm
  exact { h with
    keeps := h.keeps.trans (keeps_fix (fix_lists _ _ _))
    grantOrder := fun m hm a => h.grantOrder m hm ((hg m a).resolve_right (hne m hm))
    capped := fun m hm a => h.capped m hm ((hk m a).resolve_right (hne m hm))
    shed := fun m hm a => h.shed m hm ((hl m a).resolve_right (hne m hm)) }

/-- An event bit of slot `n`. -/
theorem Budgeted.bit (h : Budgeted u v) (hd : Machine.dark (u.slot n) = false) (b : SlotBit) : Budgeted u (setSlotBit n b v) := by
  refine { h with keeps := h.keeps.trans (keeps_fix (fix_setSlotBit b)), events := fun m hm => ?_ }
  have hne : n ≠ m := fun e => by rw [e, hm] at hd; cases hd
  rw [← h.events m hm]
  exact updAt_get_ne _ _ _ _ hne

/-- A wait queue without new slots. -/
theorem Budgeted.waitQ (h : Budgeted u v) {l : List WaitEntry} (hl : ∀ e ∈ l, ∃ e' ∈ v.waitQ, e'.slot = e.slot) :
    Budgeted u { v with waitQ := l } := h.trans (.of_fix (fix_waitQ hl) rfl rfl rfl rfl rfl rfl rfl)

theorem budgeted_upWait {l : List (Fin 12)} (hl : ∀ m ∈ l, m ∈ u.upWait) : Budgeted u { u with upWait := l } :=
  { Budgeted.refl u with keeps := keeps_fix (fix_upWait l), upWait := hl }

theorem sendNext_flight {f : XFlight} (h : u.xFlight = some f) : (sendNext c u).xFlight = some f := by
  rw [sendNext]
  split
  · next e _ => rw [h] at e; cases e
  · exact h

theorem takeChannel_flight {ch : Fin 32} {k : Fin 4} {f : XFlight} (h : u.xFlight = some f) :
    (takeChannel c ch n k u).xFlight = some f := by
  simp only [takeChannel]
  refine sendNext_flight ?_
  split <;> exact h

theorem releaseChan_flight (ch : Fin 32) : (releaseChan c ch u).xFlight = u.xFlight := by
  rw [releaseChan]; split <;> rfl

/-- Wiring that brings no slot into the wait list and leaves draining channels alone. -/
theorem Wired.budgeted (h : Wired u v) (hf : AllFix u v) (hw : ∀ m, m ∈ v.upWait → m ∈ u.upWait)
    (hd : ∀ ch, (u.chans.get ch).state = .draining → v.chans.get ch = u.chans.get ch) (hx : ∀ f, u.xFlight = some f → v.xFlight = some f) :
    Budgeted u v where
  keeps := keeps_fix hf
  grantOrder _ _ hm := h.grantOrder ▸ hm
  capped _ _ hm := h.capped ▸ hm
  shed _ _ hm := h.shed ▸ hm
  upWait := hw
  events _ _ := by rw [h.slotEvents]
  seated m := by rw [h.slot]
  fixed m := by rw [h.slot]; exact ⟨rfl, rfl⟩
  draining := hd
  flight := hx

theorem budgeted_releaseChan (ch : Fin 32) : Budgeted u (releaseChan c ch u) := by
  refine (wired_releaseChan ch).budgeted (fix_releaseChan ch) (fun m h => ?_) (fun j h => ?_) (fun f h => (releaseChan_flight ch).trans h)
  · rw [releaseChan] at h; split at h <;> exact h
  · rw [releaseChan_chans, if_neg (fun a => by simp [isActive, h] at a)]

theorem budgeted_takeChannel {ch : Fin 32} (k : Fin 4) (hfree : (u.chans.get ch).state = .free) : Budgeted u (takeChannel c ch n k u) := by
  refine (wired_takeChannel ch k).budgeted (fix_takeChannel ch k) (fun m h => ?_) (fun j h => ?_) (fun _ => takeChannel_flight)
  · simp only [takeChannel, queueCmd, sendNext] at h
    split at h <;> split at h <;> exact h
  · rw [takeChannel_chans, if_neg (fun e => by rw [← e, hfree] at h; cases h)]

theorem budgeted_fillSlot : Budgeted u (fillSlot c n u) := by
  rw [fillSlot]
  refine List.foldlRecOn (motive := fun v : Units => Budgeted u v) _ _ (.refl u) (fun v hv k _ => hv.trans ?_)
  split
  · split
    · next h => exact budgeted_takeChannel k (chooseChannel_free h)
    · exact .refl v
  · exact .refl v

theorem syncWait_chans : (syncWait n u).chans = u.chans := by
  rw [syncWait]
  split
  · rfl
  · split <;> rfl

theorem syncWait_flight : (syncWait n u).xFlight = u.xFlight := by
  rw [syncWait]
  split
  · rfl
  · split <;> rfl

theorem serveWait_draining {ch : Fin 32} (hch : (u.chans.get ch).state = .draining) :
    (serveWait c u).chans.get ch = u.chans.get ch := by
  rw [serveWait]
  refine List.foldlRecOn (motive := fun v : Units => v.chans.get ch = u.chans.get ch) _ _ rfl ?_
  intro v hv n _
  rw [syncWait_chans, budgeted_fillSlot.draining ch (by rw [hv]; exact hch), hv]

theorem serveWait_flight {f : XFlight} (hf : u.xFlight = some f) : (serveWait c u).xFlight = some f := by
  rw [serveWait]
  refine List.foldlRecOn (motive := fun v : Units => v.xFlight = some f) _ _ hf ?_
  intro v hv n _
  rw [syncWait_flight]
  exact budgeted_fillSlot.flight f hv

theorem budgeted_serveWait : Budgeted u (serveWait c u) :=
  wired_serveWait.budgeted fix_serveWait (fun _ => serveWait_upWait) (fun _ => serveWait_draining) (fun _ => serveWait_flight)

/-! ### Cuts -/

theorem budgeted_releases (l : List (Fin 32)) : Budgeted u (l.foldl (fun u ch => releaseChan c ch u) u) := by
  refine List.foldlRecOn (motive := fun v : Units => Budgeted u v) l _ (.refl u) ?_
  intro v hv ch _
  exact hv.trans (budgeted_releaseChan ch)

theorem Budgeted.releaseSlot (h : Budgeted u v) (hd : Machine.dark (u.slot n) = false) : Budgeted u (releaseSlot c n v) := by
  rw [Machine.releaseSlot]
  have h1 := (h.trans (budgeted_releases (c := c) (activeOf v n))).updSlot (f := fun x => { x with claimed := 0, group := .any }) hd
    ⟨rfl, rfl, rfl⟩
  generalize (((activeOf v n).foldl (fun u ch => releaseChan c ch u) v).updSlot n fun x => { x with claimed := 0, group := .any }) = w at h1
  exact h1.trans (budgeted_upWait (fun _ hm => (List.mem_filter.mp hm).1))

theorem Budgeted.removeWait (h : Budgeted u v) : Budgeted u (removeWait n v) :=
  h.waitQ (fun e he => ⟨e, (List.mem_filter.mp he).1, rfl⟩)

theorem Budgeted.filter_lists (h : Budgeted u v) (g k l : List (Fin 12)) (hg : ∀ m ∈ g, m ∈ v.grantOrder) (hk : ∀ m ∈ k, m ∈ v.capped)
    (hl : ∀ m ∈ l, m ∈ v.shed) : Budgeted u { v with grantOrder := g, capped := k, shed := l } :=
  { h with
    keeps := h.keeps.trans (keeps_fix (fix_lists _ _ _))
    grantOrder := fun m hm a => h.grantOrder m hm (hg m a)
    capped := fun m hm a => h.capped m hm (hk m a)
    shed := fun m hm a => h.shed m hm (hl m a) }

theorem Budgeted.leaveOnLists (h : Budgeted u v) : Budgeted u (leaveOnLists n v) :=
  h.filter_lists _ _ v.shed (fun _ hm => (List.mem_filter.mp hm).1) (fun _ hm => (List.mem_filter.mp hm).1) (fun _ hm => hm)

theorem darkSlot_seat (x : Slot) : SameSeat x (darkSlot x) := ⟨rfl, rfl, rfl⟩

/-- Power goes off at slot `n`: nothing of the other slots changes, and its seat stays (R15). -/
theorem Budgeted.powerOff (h : Budgeted u v) (hd : Machine.dark (u.slot n) = false) : Budgeted u (powerOff c n v) := by
  rw [Machine.powerOff]
  have h1 := ((h.releaseSlot (c := c) hd).removeWait (n := n)).leaveOnLists (n := n)
  generalize Machine.leaveOnLists n (Machine.removeWait n (Machine.releaseSlot c n v)) = w at h1
  have h2 := h1.filter_lists w.grantOrder w.capped (w.shed.filter (· != n)) (fun _ hm => hm) (fun _ hm => hm)
    (fun _ hm => (List.mem_filter.mp hm).1)
  exact h2.updSlot hd (darkSlot_seat _)

theorem powerOff_seat : SameSeat (v.slot n) ((powerOff c n v).slot n) := by rw [powerOff_slot]; exact ⟨rfl, rfl, rfl⟩

theorem isSeated_powered {x : Slot} (h : powered x = true) : isSeated x = true := by
  rcases powered_iff.mp h with h | h | h <;> simp [isSeated, h]

theorem Budgeted.cutToSettling (h : Budgeted u v) (hd : Machine.dark (u.slot n) = false) : Budgeted u (cutToSettling c n v) := by
  rw [Machine.cutToSettling]
  refine .ite (fun hp => (h.powerOff hd).updSlot hd ?_) (fun _ => h)
  exact ⟨by rw [powerOff_seat.1, isSeated_powered hp]; rfl, rfl, rfl⟩

theorem Budgeted.cutToFault (h : Budgeted u v) (hd : Machine.dark (u.slot n) = false) (r : FaultReason) :
    Budgeted u (cutToFault c n r v) := by
  rw [Machine.cutToFault]
  refine .ite (fun hp => ?_) (fun _ => h)
  refine Budgeted.trans (Budgeted.bit ((h.powerOff hd).updSlot hd ?_) hd .fault) (budgeted_setChassisBit .slotFault)
  exact ⟨by rw [powerOff_seat.1, isSeated_powered hp]; rfl, rfl, rfl⟩

theorem Budgeted.markVictim (h : Budgeted u v) (hd : Machine.dark (u.slot n) = false) : Budgeted u (markVictim n v) := by
  rw [Machine.markVictim]
  refine (Budgeted.bit (.ite (fun _ => h) (fun _ => ?_)) hd .shed).trans (budgeted_setChassisBit .loadShed)
  exact h.lists hd v.grantOrder v.capped _ (fun _ a => .inl a) (fun _ a => .inl a) (fun m a => by simpa using a)

/-! ### Caps, restoration and grants -/

theorem newAllowance_seat (w : Nat) (x : Slot) : SameSeat x (newAllowance c w x) := by rw [newAllowance_eq]; exact ⟨rfl, rfl, rfl⟩

theorem dark_false_of_state {x : Slot} (h : x.state = .on ∨ x.state = .charging ∨ x.state = .waitPower) : Machine.dark x = false := by
  rcases h with h | h | h <;> simp [Machine.dark, quiet, h]

theorem budgeted_capOne : Budgeted u (capOne c u n) := by
  rw [capOne]
  refine .ite (fun _ => .refl u) (fun h => ?_)
  have hd : dark (u.slot n) = false := dark_false_of_state (.inl (by by_contra e; exact h (.inr e)))
  have h1 : Budgeted u (setAllowance c n ((u.slot n).allowance - min ((u.slot n).allowance - minPower u n) (plannedDeficit c u).toNat) u) :=
    (Budgeted.refl u).updSlot hd (newAllowance_seat _ _)
  refine Budgeted.bit (.ite (fun _ => h1) (fun _ => ?_)) hd .capped
  exact h1.lists hd _ _ _ (fun _ a => .inl a) (fun m a => by simpa using a) (fun _ a => .inl a)

theorem budgeted_restoreOne : Budgeted u (restoreOne c u n) := by
  rw [restoreOne]
  refine .ite (fun _ => .refl u) (fun h => ?_)
  have hd : dark (u.slot n) = false := dark_false_of_state (.inl (by by_contra e; exact h (.inr (.inr e))))
  have h1 : Budgeted u (setAllowance c n ((u.slot n).allowance + min (cutOf (u.slot n)) (headroom c u).toNat) u) :=
    (Budgeted.refl u).updSlot hd (newAllowance_seat _ _)
  refine .ite (fun _ => ?_) (fun _ => h1)
  exact h1.lists hd _ _ _ (fun _ a => .inl a) (fun m a => .inl (List.mem_filter.mp a).1) (fun _ a => .inl a)

theorem Budgeted.toGrantEnd (h : Budgeted u v) (hd : Machine.dark (u.slot n) = false) : Budgeted u (toGrantEnd n v) := by
  refine h.lists hd _ v.capped v.shed (fun m a => ?_) (fun _ a => .inl a) (fun _ a => .inl a)
  rcases List.mem_append.mp a with a | a
  · exact .inl (List.mem_filter.mp a).1
  · exact .inr (List.mem_singleton.mp a)

theorem budgeted_startCharge (w : Nat) (h : (u.slot n).state = .waitPower) : Budgeted u (startCharge c n w u) := by
  have hd : dark (u.slot n) = false := dark_false_of_state (.inr (.inr h))
  have hseat : isSeated (u.slot n) = true := by simp [isSeated, h]
  have h1 : Budgeted u ((toGrantEnd n u).updSlot n (fun x =>
      { coolSlot x with state := .charging, grant := w, allowance := w, mainEn := true,
                        chargeTimer := startTimer c (chargeTime c n), chargeStart := some c.now })) :=
    (Budgeted.toGrantEnd (.refl u) hd).updSlot hd ⟨hseat.symm, rfl, rfl⟩
  rw [startCharge]
  refine .ite (fun _ => h1.cutToFault hd .overcurrent) (fun _ => .ite (fun _ => h1.updSlot hd ?_) (fun _ => h1))
  rw [updSlot_slot_self]; exact ⟨rfl, rfl, rfl⟩

theorem budgeted_applyRaise (w : Nat) (h : (u.slot n).state = .on) : Budgeted u (applyRaise c n w u) := by
  have hd : dark (u.slot n) = false := dark_false_of_state (.inl h)
  exact (Budgeted.toGrantEnd (.refl u) hd).updSlot hd (newAllowance_seat (c := c) _ _)

theorem budgeted_applyGrant (e : WaitEntry) : Budgeted u (applyGrant c e u) := by
  rw [applyGrant]
  split
  · next h => exact budgeted_startCharge _ h
  · next h => exact budgeted_applyRaise _ h
  · exact .refl u

theorem budgeted_queueScan (fuel : Nat) : Budgeted u (queueScan c fuel u) := by
  induction fuel generalizing u with
  | zero => exact .refl u
  | succ k ih =>
    rw [queueScan]
    split
    · exact .refl u
    · next gone e rest h =>
      have hq := (findGrant_some h).1
      simp only [List.reverse_nil, List.nil_append] at hq
      refine (Budgeted.waitQ (.refl u) (fun x hx => ?_)).trans ((budgeted_applyGrant e).trans ih)
      rw [hq]
      rcases List.mem_append.mp hx with hx | hx
      · obtain ⟨y, hy, rfl⟩ := List.mem_map.mp hx
        exact ⟨y, by simp [hy], rfl⟩
      · exact ⟨x, by simp [hx], rfl⟩

theorem budgeted_restoreAndScan : Budgeted u (restoreAndScan c u) := by
  rw [restoreAndScan]
  refine .ite (fun _ => ?_) (fun _ => .refl u)
  have h1 : Budgeted u (restoration c u) :=
    List.foldlRecOn (motive := fun v : Units => Budgeted u v) _ _ (.refl u) (fun _ hv _ _ => hv.trans budgeted_restoreOne)
  have h2 : Budgeted u (if (restoration c u).capped.any (fun n => !passedOver (restoration c u) n) = true then restoration c u
      else queueScan c (restoration c u).waitQ.length (restoration c u)) := .ite (fun _ => h1) (fun _ => h1.trans (budgeted_queueScan _))
  exact .ite (fun _ => h2.trans budgeted_serveWait) (fun _ => h2)

/-! ### Deficits and the supply-side emergency -/

theorem budgeted_recompute : Budgeted u (recompute c u) := by
  rw [recompute]
  exact Budgeted.trans (v := if (decide (headroom c u < 0) && !u.deficit) = true then setChassisBit .deficit u else u)
    (.ite (fun _ => budgeted_setChassisBit .deficit) (fun _ => .refl u)) (.of_fix (fix_deficit _ _) rfl rfl rfl rfl rfl rfl rfl)

theorem Budgeted.cutVictim (h : Budgeted u v) (hd : Machine.dark (u.slot n) = false) :
    Budgeted u (Machine.cutToSettling c n (Machine.markVictim n v)) := (h.markVictim hd).cutToSettling hd

theorem budgeted_emergencyShed : Budgeted u (emergencyShed c u) := by
  rw [emergencyShed]
  refine .ite (fun _ => .refl u) (fun _ => Budgeted.trans ?_ (budgeted_setChassisBit .emergencyShed))
  refine List.foldlRecOn (motive := fun v : Units => Budgeted u v) _ _ (.refl u) (fun v hv n hn => ?_)
  rw [emergencyOne]
  refine .ite (fun _ => hv.cutVictim ?_) (fun _ => hv)
  rcases shedCandidates_state hn with h | h
  · exact dark_false_of_state (.inr (.inl h))
  · exact dark_false_of_state (.inl h)

theorem budgeted_shedDecision : Budgeted u (shedDecision c u) := by
  rw [shedDecision]
  refine .ite (fun _ => budgeted_shedTimer _) (fun _ => .ite (fun _ => ?_) (fun _ => .ite (fun _ => budgeted_shedTimer _) (fun _ => .refl u)))
  exact .ite (fun _ => budgeted_emergencyShed.trans (budgeted_shedTimer _)) (fun _ => budgeted_emergencyShed)

theorem budgeted_deficitHandling : Budgeted u (deficitHandling c u) := by
  rw [deficitHandling]
  refine .ite (fun _ => Budgeted.trans ?_ budgeted_shedDecision) (fun _ => .refl u)
  exact List.foldlRecOn (motive := fun v : Units => Budgeted u v) _ _ (.refl u) (fun _ hv _ _ => hv.trans budgeted_capOne)

theorem budgeted_losePower : Budgeted u (losePower c u) := by
  let l := (indices 12).filter (fun n => powered (u.slot n))
  let v := l.foldl (fun u n => cutToSettling c n (markVictim n u)) (setChassisBit .powerLost u)
  have h1 : Budgeted u v := by
    refine List.foldlRecOn (motive := fun v : Units => Budgeted u v) _ _ (budgeted_setChassisBit .powerLost) (fun v hv n hn => ?_)
    exact hv.cutVictim (dark_powered (by simpa using (List.mem_filter.mp hn).2))
  have h2 : Budgeted u (if l.isEmpty = true then v else setChassisBit .emergencyShed v) :=
    .ite (fun _ => h1) (fun _ => h1.trans (budgeted_setChassisBit .emergencyShed))
  exact h2.trans (.of_fix (fix_emergency _ _) rfl rfl rfl rfl rfl rfl rfl)

theorem budgeted_supplyEmergency : Budgeted u (supplyEmergency c u) := by
  rw [supplyEmergency]
  refine .ite (fun _ => .ite (fun _ => ?_) (fun _ => budgeted_shedTimer _)) (fun _ => .ite (fun _ => budgeted_losePower) (fun _ => .refl u))
  exact .of_fix (fix_emergency' _) rfl rfl rfl rfl rfl rfl rfl

theorem budgeted_settle : Budgeted u (settle c u) := by
  rw [settle]
  refine .ite (fun _ => ?_) (fun _ => .refl u)
  exact (((budgeted_recompute.trans budgeted_supplyEmergency).trans budgeted_deficitHandling).trans budgeted_recompute).trans
    budgeted_restoreAndScan

theorem budgeted_settleAfter : Budgeted v (settleAfter c u v) := by
  rw [settleAfter]
  exact .ite (fun _ => budgeted_settle) (fun _ => .ite (fun _ => budgeted_restoreAndScan) (fun _ => .refl v))

end

end Sys2Proof.Machine
end

section
/-! PROOFS. What settling the account does to the slots that have main power and to those that wait for it: only an emergency cuts the former
(R72, R74, R77), only a grant reaches the latter (R58, R59); and the hold of an override line, which reaches its own slots alone (R24). -/

namespace Sys2Proof.Machine

/-- Every powered slot keeps its state and its main enable. -/
def PowerStays (u v : Units) : Prop :=
  ∀ m, powered (u.slot m) = true → (v.slot m).state = (u.slot m).state ∧ (v.slot m).mainEn = (u.slot m).mainEn

/-- Every slot in WAIT_POWER stays as it is, and so do its entries. -/
def WaitersStay (u v : Units) : Prop :=
  ∀ m, (u.slot m).state = .waitPower → v.slot m = u.slot m ∧ ∀ e : WaitEntry, e.slot = m → (e ∈ v.waitQ ↔ e ∈ u.waitQ)

/-- The entries of slot `m` are entries of WAIT_POWER. -/
def Unraised (u : Units) (m : Fin 12) : Prop := ∀ e ∈ u.waitQ, e.slot = m → e.isRaise = false

/-- No grant, and no cut without EMERGENCY_SHED. -/
structure Unshed (u v : Units) : Prop where
  frame : Frame u v
  power : chassisFlag v .emergencyShed = false → PowerStays u v
  waiters : WaitersStay u v

/-- Grants alone. -/
structure Granted (u v : Units) : Prop where
  keeps : Keeps dark u v
  power : PowerStays u v
  waiters : ∀ m, (u.slot m).state = .waitPower → Unraised u m →
    ((v.slot m).state = .waitPower ∧ hasWait v m = hasWait u m ∧ Unraised v m) ∨ (v.slot m).state ∈ [SlotState.charging, .on, .fault]

section
variable {u v w : Units} {c : Ctx} {n m : Fin 12}

theorem mem_indices {k : Nat} (i : Fin k) : i ∈ indices k := List.mem_finRange i

theorem PowerStays.trans (a : PowerStays u v) (b : PowerStays v w) : PowerStays u w := fun m h => by
  obtain ⟨hs, hm⟩ := a m h
  obtain ⟨hs', hm'⟩ := b m (by rw [powered, hs]; exact h)
  exact ⟨hs'.trans hs, hm'.trans hm⟩

theorem PowerStays.of_fix (h : AllFix u v) : PowerStays u v := fun m _ => by rw [h.slots m trivial]; exact ⟨rfl, rfl⟩

theorem WaitersStay.trans (a : WaitersStay u v) (b : WaitersStay v w) : WaitersStay u w := fun m h => by
  obtain ⟨hs, he⟩ := a m h
  obtain ⟨hs', he'⟩ := b m (by rw [hs]; exact h)
  exact ⟨hs'.trans hs, fun e h => (he' e h).trans (he e h)⟩

theorem WaitersStay.of_fix (h : AllFix u v) (hw : v.waitQ = u.waitQ) : WaitersStay u v :=
  fun m _ => ⟨h.slots m trivial, fun _ _ => by rw [hw]⟩

/-- An operation on one slot that does not wait. -/
theorem WaitersStay.of_only (h : OnlySlot n u v) (hn : (u.slot n).state ≠ .waitPower)
    (hw : ∀ e : WaitEntry, e.slot ≠ n → (e ∈ v.waitQ ↔ e ∈ u.waitQ)) : WaitersStay u v := fun m hm => by
  have hne : m ≠ n := fun e => hn (e ▸ hm)
  exact ⟨h.slots m hne, fun e he => hw e (by rw [he]; exact hne)⟩

theorem Unshed.trans (a : Unshed u v) (b : Unshed v w) : Unshed u w where
  frame := a.frame.trans b.frame
  power h := by
    refine (a.power ?_).trans (b.power h)
    by_contra e
    rw [b.frame.chassisBits _ (by simpa using e)] at h
    cases h
  waiters := a.waiters.trans b.waiters

theorem Unshed.of_fix (h : AllFix u v) (hw : v.waitQ = u.waitQ) : Unshed u v := ⟨h.frame, fun _ => .of_fix h, .of_fix h hw⟩

theorem Unshed.refl (u : Units) : Unshed u u := .of_fix (.refl _ u) rfl

theorem Unshed.ite {p : Prop} [Decidable p] (a : p → Unshed u v) (b : ¬ p → Unshed u w) : Unshed u (if p then v else w) := by
  split
  · next h => exact a h
  · next h => exact b h

theorem Granted.trans (a : Granted u v) (b : Granted v w) : Granted u w where
  keeps := a.keeps.trans b.keeps
  power := a.power.trans b.power
  waiters m hm hr := by
    rcases a.waiters m hm hr with ⟨hs, hw, hu⟩ | hs
    · rcases b.waiters m hs hu with ⟨hs', hw', hu'⟩ | hs'
      · exact .inl ⟨hs', hw'.trans hw, hu'⟩
      · exact .inr hs'
    · refine .inr ?_
      simp only [List.mem_cons, List.not_mem_nil, or_false] at hs
      rcases hs with h | h | h
      · rw [(b.power m (powered_iff.mpr (.inl h))).1, h]; decide
      · rw [(b.power m (powered_iff.mpr (.inr (.inl h)))).1, h]; decide
      · rw [b.keeps.slots m (dark_fault h), h]; decide

theorem Granted.of_fix (h : AllFix u v) (hw : v.waitQ = u.waitQ) : Granted u v where
  keeps := keeps_fix h
  power := .of_fix h
  waiters m hm hr := .inl ⟨by rw [h.slots m trivial]; exact hm, by rw [hasWait, hw, hasWait], by rw [Unraised, hw]; exact hr⟩

theorem Granted.refl (u : Units) : Granted u u := .of_fix (.refl _ u) rfl

theorem Granted.ite {p : Prop} [Decidable p] (a : p → Granted u v) (b : ¬ p → Granted u w) : Granted u (if p then v else w) := by
  split
  · next h => exact a h
  · next h => exact b h

/-! ### Entries -/

theorem hasWait_iff : hasWait u m = true ↔ ∃ e ∈ u.waitQ, e.slot = m := by simp [hasWait]

theorem hasWait_congr (h : ∀ e : WaitEntry, e.slot = m → (e ∈ v.waitQ ↔ e ∈ u.waitQ)) : hasWait v m = hasWait u m := by
  rw [Bool.eq_iff_iff, hasWait_iff, hasWait_iff]
  constructor
  · rintro ⟨e, he, hs⟩; exact ⟨e, (h e hs).mp he, hs⟩
  · rintro ⟨e, he, hs⟩; exact ⟨e, (h e hs).mpr he, hs⟩

theorem mem_removeWait {e : WaitEntry} (h : e.slot ≠ n) : e ∈ (removeWait n u).waitQ ↔ e ∈ u.waitQ := by simp [removeWait, h]

theorem releaseSlot_waitQ : (releaseSlot c n u).waitQ = u.waitQ := (wired_releases (c := c) (activeOf u n)).waitQ

theorem powerOff_waitQ : (powerOff c n u).waitQ = (removeWait n u).waitQ := by
  have e : (powerOff c n u).waitQ = (removeWait n (releaseSlot c n u)).waitQ := rfl
  rw [e, removeWait, releaseSlot_waitQ]; rfl

theorem mem_cutToSettling {e : WaitEntry} (h : e.slot ≠ n) : e ∈ (cutToSettling c n u).waitQ ↔ e ∈ u.waitQ := by
  rw [cutToSettling]
  split
  · rw [updSlot_waitQ, powerOff_waitQ, mem_removeWait h]
  · rfl

theorem mem_cutToFault {e : WaitEntry} {r : FaultReason} (h : e.slot ≠ n) : e ∈ (cutToFault c n r u).waitQ ↔ e ∈ u.waitQ := by
  rw [cutToFault]
  split
  · rw [← mem_removeWait (u := u) h, ← powerOff_waitQ (c := c)]; rfl
  · rfl

theorem markVictim_waitQ : (markVictim n u).waitQ = u.waitQ := by rw [markVictim]; split <;> rfl

/-! ### Cuts of an emergency -/

theorem powered_not_waiting {x : Slot} (h : powered x = true) : x.state ≠ .waitPower := fun e => by simp [powered, e] at h

theorem WaitersStay.cutVictim (h : WaitersStay u v) (hn : (u.slot n).state ≠ .waitPower) :
    WaitersStay u (cutToSettling c n (markVictim n v)) := by
  intro m hm
  have hne : m ≠ n := fun e => hn (e ▸ hm)
  obtain ⟨hs, he⟩ := h m hm
  refine ⟨by rw [only_cutToSettling.slots m hne, markVictim_slot, hs], fun e hem => ?_⟩
  rw [mem_cutToSettling (by rw [hem]; exact hne), markVictim_waitQ, he e hem]

theorem unshed_emergencyShed : Unshed u (emergencyShed c u) := by
  refine ⟨(keeps_emergencyShed (c := c) (u := u)).frame, ?_, ?_⟩
  · rw [emergencyShed]
    split
    · exact fun _ => .of_fix (.refl _ u)
    · intro h; rw [setChassisBit_flag] at h; cases h
  · rw [emergencyShed]
    split
    · exact .of_fix (.refl _ u) rfl
    · refine WaitersStay.trans ?_ (.of_fix (fix_setChassisBit _) rfl)
      refine List.foldlRecOn (motive := fun v : Units => WaitersStay u v) _ _ (.of_fix (.refl _ u) rfl) ?_
      intro v hv n hn
      rw [emergencyOne]
      split
      · refine hv.cutVictim (fun e => ?_)
        rcases shedCandidates_state hn with h | h <;> · rw [e] at h; cases h
      · exact hv

theorem unshed_losePower : Unshed u (losePower c u) := by
  let l := (indices 12).filter (fun n => powered (u.slot n))
  let v := l.foldl (fun u n => cutToSettling c n (markVictim n u)) (setChassisBit .powerLost u)
  have fr : Frame u v := by
    refine List.foldlRecOn (motive := fun v : Units => Frame u v) _ _ (fix_setChassisBit (P := fun _ => True) _).frame ?_
    intro v hv n _
    exact hv.trans ((fix_markVictim (P := fun _ => True)).frame.trans only_cutToSettling.frame)
  have waiters : WaitersStay u v := by
    refine List.foldlRecOn (motive := fun v : Units => WaitersStay u v) _ _ (.of_fix (fix_setChassisBit _) rfl) ?_
    intro v hv n hn
    exact hv.cutVictim (powered_not_waiting (by simpa using (List.mem_filter.mp hn).2))
  have h2 : Unshed u (if l.isEmpty = true then v else setChassisBit .emergencyShed v) := by
    refine ⟨?_, ?_, ?_⟩
    · split
      · exact fr
      · exact fr.trans (fix_setChassisBit (P := fun _ => True) _).frame
    · split
      · next h =>
        refine fun _ m hm => absurd (List.isEmpty_iff.mp h) (List.ne_nil_of_mem (a := m) ?_)
        exact List.mem_filter.mpr ⟨mem_indices m, hm⟩
      · intro h; rw [setChassisBit_flag] at h; cases h
    · split
      · exact waiters
      · exact waiters.trans (.of_fix (fix_setChassisBit _) rfl)
  exact h2.trans (.of_fix (fix_emergency _ _) rfl)

theorem unshed_recompute : Unshed u (recompute c u) := by
  rw [recompute]
  exact Unshed.trans (v := if (decide (headroom c u < 0) && !u.deficit) = true then setChassisBit .deficit u else u)
    (.ite (fun _ => .of_fix (fix_setChassisBit _) rfl) (fun _ => .refl u)) (.of_fix (fix_deficit _ _) rfl)

theorem unshed_supplyEmergency : Unshed u (supplyEmergency c u) := by
  rw [supplyEmergency]
  refine .ite (fun _ => .ite (fun _ => .of_fix (fix_emergency' _) rfl) (fun _ => .of_fix (fix_shedTimer _) rfl))
    (fun _ => .ite (fun _ => unshed_losePower) (fun _ => .refl u))

theorem powerStays_setAllowance (k : Nat) : PowerStays u (setAllowance c n k u) := by
  intro m _
  rw [setAllowance, updSlot_slot]
  split
  · rw [newAllowance_state, newAllowance_mainEn]; exact ⟨rfl, rfl⟩
  · exact ⟨rfl, rfl⟩

theorem unshed_setAllowance (k : Nat) (h : (u.slot n).state = .on) : Unshed u (setAllowance c n k u) :=
  ⟨(only_setAllowance k).frame, fun _ => powerStays_setAllowance k,
    .of_only (only_setAllowance k) (by rw [h]; decide) (fun _ _ => Iff.rfl)⟩

theorem unshed_capOne : Unshed u (capOne c u n) := by
  rw [capOne]
  refine .ite (fun _ => .refl u) (fun h => ?_)
  have hon : (u.slot n).state = .on := by by_contra e; exact h (.inr e)
  let v := setAllowance c n ((u.slot n).allowance - min ((u.slot n).allowance - minPower u n) (plannedDeficit c u).toNat) u
  have h1 : Unshed u v := unshed_setAllowance _ hon
  have h2 : Unshed u (if v.capped.contains n = true then v else { v with capped := v.capped ++ [n] }) :=
    .ite (fun _ => h1) (fun _ => h1.trans (.of_fix (fix_capped _) rfl))
  exact h2.trans (.of_fix (fix_setSlotBit _) rfl)

theorem unshed_shedDecision : Unshed u (shedDecision c u) := by
  rw [shedDecision]
  refine .ite (fun _ => .of_fix (fix_shedTimer _) rfl) (fun _ => .ite (fun _ => ?_) (fun _ =>
    .ite (fun _ => .of_fix (fix_shedTimer _) rfl) (fun _ => .refl u)))
  exact .ite (fun _ => unshed_emergencyShed.trans (.of_fix (fix_shedTimer _) rfl)) (fun _ => unshed_emergencyShed)

theorem unshed_deficitHandling : Unshed u (deficitHandling c u) := by
  rw [deficitHandling]
  refine .ite (fun _ => Unshed.trans ?_ unshed_shedDecision) (fun _ => .refl u)
  rw [capStep]
  refine List.foldlRecOn (motive := fun v : Units => Unshed u v) _ _ (.refl u) ?_
  exact fun v hv n _ => hv.trans unshed_capOne

/-! ### Grants -/

theorem granted_restoreOne : Granted u (restoreOne c u n) := by
  rw [restoreOne]
  refine .ite (fun _ => .refl u) (fun h => ?_)
  have hon : (u.slot n).state = .on := by by_contra e; exact h (.inr (.inr e))
  have h1 : Granted u (setAllowance c n ((u.slot n).allowance + min (cutOf (u.slot n)) (headroom c u).toNat) u) :=
    { keeps := keeps_only (only_setAllowance _) (dark_false_of_state (.inl hon))
      power := powerStays_setAllowance _
      waiters := fun m hm hr => .inl ⟨by
        rw [setAllowance, updSlot_slot, if_neg (by rintro rfl; rw [hon] at hm; cases hm)]; exact hm, rfl, hr⟩ }
  exact .ite (fun _ => h1.trans (.of_fix (fix_capped _) rfl)) (fun _ => h1)

theorem granted_serveWait : Granted u (serveWait c u) := .of_fix fix_serveWait wired_serveWait.waitQ

theorem startCharge_state (k : Nat) : ((startCharge c n k u).slot n).state ∈ [SlotState.charging, .on, .fault] := by
  rw [startCharge]
  split
  · rw [cutToFault_slot _ _ _ _ (by simp [powered])]; simp
  · split
    · simp [enterOn]
    · simp

theorem mem_startCharge {k : Nat} {e : WaitEntry} (h : e.slot ≠ n) : e ∈ (startCharge c n k u).waitQ ↔ e ∈ u.waitQ := by
  rw [startCharge]
  split
  · rw [mem_cutToFault h]; rfl
  · split <;> rfl

/-- A pass of the scan, whatever it has done to skip counts: its entry is granted if the slot can take it (R58, R59). -/
theorem granted_pass {e : WaitEntry} (h : AllFix u v) (he : e ∈ u.waitQ)
    (hw : ∀ m, m ≠ e.slot → hasWait v m = hasWait u m ∧ (Unraised u m → Unraised v m)) : Granted u (applyGrant c e v) := by
  have other : ∀ m, m ≠ e.slot → (u.slot m).state = .waitPower → Unraised u m →
      (v.slot m).state = .waitPower ∧ hasWait v m = hasWait u m ∧ Unraised v m :=
    fun m hne hm hr => ⟨by rw [h.slots m trivial]; exact hm, (hw m hne).1, (hw m hne).2 hr⟩
  rw [applyGrant]
  split
  · next hr hs =>
    have only := only_startCharge (c := c) (u := v) (n := e.slot) e.watts
    refine ⟨(keeps_fix h).trans (keeps_only only (dark_false_of_state (.inr (.inr hs)))), fun m hm => ?_, fun m hm hu => ?_⟩
    · have hne : m ≠ e.slot := fun a => powered_not_waiting hm (by rw [a, ← h.slots _ trivial]; exact hs)
      rw [only.slots m hne, h.slots m trivial]; exact ⟨rfl, rfl⟩
    · by_cases hne : m = e.slot
      · rw [hne]; exact .inr (startCharge_state _)
      · obtain ⟨h1, h2, h3⟩ := other m hne hm hu
        have mem : ∀ x : WaitEntry, x.slot = m → (x ∈ (startCharge c e.slot e.watts v).waitQ ↔ x ∈ v.waitQ) :=
          fun x hx => mem_startCharge (by rw [hx]; exact hne)
        exact .inl ⟨by rw [only.slots m hne]; exact h1, (hasWait_congr mem).trans h2, fun x hx hxm => h3 x ((mem x hxm).mp hx) hxm⟩
  · next hr hs =>
    have only := only_applyRaise (c := c) (u := v) (n := e.slot) e.watts
    refine ⟨(keeps_fix h).trans (keeps_only only (dark_false_of_state (.inl hs))), fun m hm => ?_, fun m hm hu => ?_⟩
    · refine PowerStays.trans (.of_fix h) (w := applyRaise c e.slot e.watts v) (fun m _ => ?_) m hm
      rw [applyRaise, updSlot_slot]
      split
      · exact ⟨newAllowance_state .., newAllowance_mainEn ..⟩
      · exact ⟨rfl, rfl⟩
    · have hne : m ≠ e.slot := fun a => by rw [← h.slots m trivial, a, hs] at hm; cases hm
      obtain ⟨h1, h2, h3⟩ := other m hne hm hu
      exact .inl ⟨by rw [only.slots m hne]; exact h1, h2, h3⟩
  · next no _ =>
    refine ⟨keeps_fix h, .of_fix h, fun m hm hu => .inl (other m (fun a => ?_) hm hu)⟩
    exact no (hu e he a.symm) (by rw [← a, h.slots m trivial]; exact hm)

theorem granted_queueScan (fuel : Nat) : Granted u (queueScan c fuel u) := by
  induction fuel generalizing u with
  | zero => exact .refl u
  | succ k ih =>
    rw [queueScan]
    split
    · exact .refl u
    · next gone e rest h =>
      have hq := (findGrant_some h).1
      simp only [List.reverse_nil, List.nil_append] at hq
      refine (granted_pass (v := { u with waitQ := gone.map skipped ++ rest }) (fix_waitQ fun x hx => ?_) (by simp [hq]) (fun m hm => ?_)).trans ih
      · rw [hq]
        rcases List.mem_append.mp hx with hx | hx
        · obtain ⟨y, hy, rfl⟩ := List.mem_map.mp hx
          exact ⟨y, by simp [hy], rfl⟩
        · exact ⟨x, by simp [hx], rfl⟩
      · constructor
        · simp [hasWait, hq, skipped, List.any_map, Function.comp_def, beq_false_of_ne (Ne.symm hm)]
        · intro hu x hx hxm
          rcases List.mem_append.mp hx with hx | hx
          · obtain ⟨y, hy, rfl⟩ := List.mem_map.mp hx
            exact hu y (by simp [hq, hy]) hxm
          · exact hu x (by simp [hq, hx]) hxm

theorem granted_restoreAndScan : Granted u (restoreAndScan c u) := by
  rw [restoreAndScan]
  refine .ite (fun _ => ?_) (fun _ => .refl u)
  have h1 : Granted u (restoration c u) :=
    List.foldlRecOn (motive := fun v : Units => Granted u v) _ _ (.refl u) (fun _ hv _ _ => hv.trans granted_restoreOne)
  have h2 : Granted u (if (restoration c u).capped.any (fun n => !passedOver (restoration c u) n) = true then restoration c u
      else queueScan c (restoration c u).waitQ.length (restoration c u)) := .ite (fun _ => h1) (fun _ => h1.trans (granted_queueScan _))
  exact .ite (fun _ => h2.trans granted_serveWait) (fun _ => h2)

/-- Settling: first no grant, then no cut. -/
theorem settleAfter_stages : ∃ w, Unshed v w ∧ Granted w (settleAfter c u v) := by
  rw [settleAfter]
  split
  · rw [settle]
    split
    · exact ⟨_, ((unshed_recompute.trans unshed_supplyEmergency).trans unshed_deficitHandling).trans unshed_recompute, granted_restoreAndScan⟩
    · exact ⟨v, .refl v, .refl v⟩
  · split
    · exact ⟨v, .refl v, granted_restoreAndScan⟩
    · exact ⟨v, .refl v, .refl v⟩

/-- Only an emergency shed reaches a powered slot. -/
theorem settleAfter_powered (h : powered (v.slot m) = true) (hf : chassisFlag (settleAfter c u v) .emergencyShed = false) :
    ((settleAfter c u v).slot m).state = (v.slot m).state ∧ ((settleAfter c u v).slot m).mainEn = (v.slot m).mainEn := by
  obtain ⟨w, hu, hg⟩ := settleAfter_stages (c := c) (u := u) (v := v)
  refine ((hu.power ?_).trans hg.power) m h
  by_contra e
  rw [hg.keeps.frame.chassisBits _ (by simpa using e)] at hf
  cases hf

/-- Only a grant reaches a slot that waits. -/
theorem settleAfter_waiting (h : (v.slot m).state = .waitPower) (hr : Unraised v m) :
    (((settleAfter c u v).slot m).state = .waitPower ∧ hasWait (settleAfter c u v) m = hasWait v m)
      ∨ ((settleAfter c u v).slot m).state ∈ [SlotState.charging, .on, .fault] := by
  obtain ⟨w, hu, hg⟩ := settleAfter_stages (c := c) (u := u) (v := v)
  obtain ⟨hs, he⟩ := hu.waiters m h
  rcases hg.waiters m (by rw [hs]; exact h) (fun e hem hes => hr e ((he e hes).mp hem) hes) with ⟨h1, h2, -⟩ | h1
  · exact .inl ⟨h1, h2.trans (hasWait_congr he)⟩
  · exact .inr h1

/-! ### The hold -/

theorem mem_holdSlot {e : WaitEntry} (h : e.slot ≠ n) : e ∈ (holdSlot c n u).waitQ ↔ e ∈ u.waitQ := by
  rw [holdSlot]
  split
  · exact mem_removeWait h
  iterate 3 exact mem_cutToSettling h
  · rfl

theorem keeps_holdSlot : Keeps dark u (holdSlot c n u) := by
  rw [holdSlot]
  split
  · next h => exact keeps_only (only_leaveWaitPower n u) (dark_false_of_state (.inr (.inr h)))
  · next h => exact keeps_only only_cutToSettling (dark_powered (powered_iff.mpr (.inl h)))
  · next h => exact keeps_only only_cutToSettling (dark_powered (powered_iff.mpr (.inr (.inl h))))
  · next h => exact keeps_only only_cutToSettling (dark_powered (powered_iff.mpr (.inr (.inr h))))
  · exact .refl u

/-- The slot that a hold leaves of one with main power or in WAIT_POWER (R24). -/
def heldSlot (c : Ctx) (x : Slot) : Slot :=
  if x.state = .waitPower then { x with state := .identified }
  else { darkSlot { x with claimed := 0, group := .any } with state := .settling, settleTimer := startTimer c Config.settling }

theorem holdSlot_self (h : powered (u.slot n) = true ∨ (u.slot n).state = .waitPower) :
    (holdSlot c n u).slot n = heldSlot c (u.slot n) ∧ hasWait (holdSlot c n u) n = false := by
  have cut (hp : powered (u.slot n) = true) :
      (cutToSettling c n u).slot n = heldSlot c (u.slot n) ∧ hasWait (cutToSettling c n u) n = false := by
    refine ⟨by rw [cutToSettling_slot c n u hp, heldSlot, if_neg (powered_not_waiting hp)], ?_⟩
    rw [cutToSettling, if_pos hp, hasWait, updSlot_waitQ, powerOff_waitQ]
    exact hasWait_removeWait n u
  rw [holdSlot]
  rcases h with h | h
  · rcases powered_iff.mp h with e | e | e <;> rw [e] <;> exact cut h
  · rw [h]
    exact ⟨by rw [leaveWaitPower_slot, heldSlot, if_pos h], leaveWaitPower_hasWait n u⟩

/-- Of a fold over a list that holds `b` once: what holds before its turn, what holds after it. -/
theorem foldl_turn {α β : Type} {f : α → β → α} {P Q : α → Prop} {b : β} (other : ∀ v a, a ≠ b → P v → P (f v a))
    (turn : ∀ v, P v → Q (f v b)) (after : ∀ v a, a ≠ b → Q v → Q (f v a)) {l : List β} (hl : l.Nodup) (hm : b ∈ l) {v : α}
    (hv : P v) : Q (l.foldl f v) := by
  induction l generalizing v with
  | nil => cases hm
  | cons a rest ih =>
    obtain ⟨hna, hrest⟩ := List.nodup_cons.mp hl
    by_cases e : a = b
    · subst e
      exact List.foldlRecOn (motive := Q) rest f (b := f v a) (turn v hv) (fun v hv x hx => after v x (fun h => hna (h ▸ hx)) hv)
    · exact ih hrest ((List.mem_cons.mp hm).resolve_left (Ne.symm e)) (other v a e hv)

/-! ### An override line -/

theorem keeps_assertLine (k : Fin 4) : Keeps dark u (assertLine c k u) :=
  Keeps.foldl (fun _ _ => keeps_ite keeps_holdSlot (.refl _)) _ u

/-- A mapped slot with main power or in WAIT_POWER is held. -/
theorem assertLine_mapped {k : Fin 4} (hk : slotLine c m = some k) (h : powered (u.slot m) = true ∨ (u.slot m).state = .waitPower) :
    (assertLine c k u).slot m = heldSlot c (u.slot m) ∧ hasWait (assertLine c k u) m = false := by
  have hdark : dark (heldSlot c (u.slot m)) = true := by
    rw [heldSlot]
    split
    · exact dark_identified rfl
    · exact dark_settling rfl
  refine foldl_turn (P := fun v : Units => v.slot m = u.slot m) (Q := fun v : Units => v.slot m = heldSlot c (u.slot m) ∧ hasWait v m = false)
    (fun v n hn hv => ?_) (fun v hv => ?_) (fun v n _ hv => ?_) (List.nodup_finRange 12) (mem_indices m) rfl
  · split
    · rw [(only_holdSlot c n v).slots m (Ne.symm hn)]; exact hv
    · exact hv
  · rw [if_pos hk, ← hv]
    exact holdSlot_self (by rw [hv]; exact h)
  · have kp : Keeps dark v (if slotLine c n = some k then holdSlot c n v else v) := keeps_ite keeps_holdSlot (.refl v)
    exact ⟨by rw [kp.slots m (by rw [hv.1]; exact hdark)]; exact hv.1, kp.frame.waits m hv.2⟩

/-- A slot that is not mapped to the line stays, with its entries. -/
theorem assertLine_unmapped {k : Fin 4} (hk : slotLine c m ≠ some k) :
    (assertLine c k u).slot m = u.slot m ∧ ∀ e : WaitEntry, e.slot = m → (e ∈ (assertLine c k u).waitQ ↔ e ∈ u.waitQ) := by
  refine List.foldlRecOn (motive := fun v : Units => v.slot m = u.slot m ∧ ∀ e : WaitEntry, e.slot = m → (e ∈ v.waitQ ↔ e ∈ u.waitQ)) _ _
    ⟨rfl, fun _ _ => Iff.rfl⟩ ?_
  rintro v ⟨hs, he⟩ n -
  split
  · next hn =>
    have hne : m ≠ n := fun e => hk (e ▸ hn)
    exact ⟨by rw [(only_holdSlot c n v).slots m hne, hs], fun e hem => (mem_holdSlot (by rw [hem]; exact hne)).trans (he e hem)⟩
  · exact ⟨hs, he⟩

end

end Sys2Proof.Machine
end

section
open Sys2Proof Sys2Proof.Machine

/-- Settles O32: the fold over the slots holds the mapped ones (`assertLine_mapped`) and leaves the others alone (`assertLine_unmapped`); of
these, settling reaches only the powered ones by an emergency (`settleAfter_powered`) and the waiting ones by a grant
(`settleAfter_waiting`). -/
theorem overrideHoldsEveryMappedSlot : Obligations.OverrideHoldsEveryMappedSlot := by
  intro s k d h
  let c := Shown s (.ovr k) true d
  let v := assertLine c k s.units
  have kp : Keeps dark s.units v := keeps_assertLine k
  refine ⟨_, done_onPin_settle s _ h, rfl, after_sameOutside _ _ _ rfl rfl, frame_settled kp.frame,
    fun n hn => ⟨held_shown s d true n hn, ?_, ?_⟩,
    fun m hm hp hf => ?_, fun m hm hw hr => ?_, fun m hd => ?_⟩
  · intro hp
    have hs := (assertLine_mapped (c := c) hn (.inl hp)).1
    rw [heldSlot, if_neg (powered_not_waiting hp)] at hs
    rw [after_units, settled_slot_dark (dark_settling (by rw [hs])), hs]
    exact ⟨rfl, rfl, rfl, rfl⟩
  · intro hw
    obtain ⟨hs, hq⟩ := assertLine_mapped (c := c) hn (.inr hw)
    rw [heldSlot, if_pos hw] at hs
    rw [after_units, settled_slot_dark (dark_identified (by rw [hs])), hs]
    exact ⟨rfl, settleAfter_keeps.frame.waits n hq⟩
  · have hs := (assertLine_unmapped (c := c) (u := s.units) hm).1
    obtain ⟨h1, h2⟩ := settleAfter_powered (c := c) (u := s.units) (v := v) (by rw [hs]; exact hp) hf
    rw [hs] at h1 h2
    refine ⟨h1, h2, ?_⟩
    rw [after_units, settled_slot, (budgeted_settleAfter.fixed m).2, hs]
  · obtain ⟨hs, he⟩ := assertLine_unmapped (c := c) (u := s.units) hm
    rcases settleAfter_waiting (c := c) (u := s.units) (v := v) (by rw [hs]; exact hw) (fun e hem hes => hr e ((he e hes).mp hem) hes)
      with ⟨h1, h2⟩ | h1
    · exact .inl ⟨h1, h2.trans (hasWait_congr he)⟩
    · exact .inr h1
  · rw [after_units, settled_slot_dark (by rw [kp.slots m hd]; exact hd), kp.slots m hd]
end

section
/-! PROOFS. What a changed blade entry leads to (R29, R33, R34): the re-check makes entries VALID, reports them, and promotes slots.
`Linked` says what that does to channels and ports, `Reported` what it leaves alone. -/

namespace Sys2Proof.Machine

/-- The slot has no part in the uplinks: no channel, no claim. -/
def Lone (u : Units) (m : Fin 12) : Prop := (∀ ch, heldBy m (u.chans.get ch) = false) ∧ (u.slot m).claimed = 0

/-- Wiring that takes no port out of use and leaves draining channels, the command in flight and lone slots alone. -/
structure Linked (u v : Units) : Prop where
  wired : Wired u v
  upWait : ∀ m, m ∈ v.upWait → m ∈ u.upWait
  ports : ∀ p, (u.ports.get p).state ≠ .unavailable → (v.ports.get p).state ≠ .unavailable
  draining : ∀ ch, (u.ports.get (portOf ch)).state ≠ .unavailable → (u.chans.get ch).state = .draining → v.chans.get ch = u.chans.get ch
  lone : ∀ m, Lone u m → Lone v m
  flight : ∀ f, u.xFlight = some f → v.xFlight = some f

section
variable {u v w : Units} {c : Ctx} {n m : Fin 12}

theorem Linked.refl (u : Units) : Linked u u := ⟨.refl u, fun _ h => h, fun _ h => h, fun _ _ _ => rfl, fun _ h => h, fun _ h => h⟩

theorem Linked.trans (a : Linked u v) (b : Linked v w) : Linked u w where
  wired := a.wired.trans b.wired
  upWait m h := a.upWait m (b.upWait m h)
  ports p h := b.ports p (a.ports p h)
  draining ch hp hd := by
    have e := a.draining ch hp hd
    rw [b.draining ch (a.ports _ hp) (by rw [e]; exact hd), e]
  lone m h := b.lone m (a.lone m h)
  flight f h := b.flight f (a.flight f h)

theorem Linked.foldl {α : Type} {f : Units → α → Units} (h : ∀ u a, Linked u (f u a)) (l : List α) (u : Units) : Linked u (l.foldl f u) :=
  List.foldlRecOn (motive := fun v : Units => Linked u v) l f (.refl u) (fun v hv a _ => hv.trans (h v a))

theorem Linked.ite {p : Prop} [Decidable p] (a : p → Linked u v) (b : ¬ p → Linked u w) : Linked u (if p then v else w) := by
  split
  · next h => exact a h
  · next h => exact b h

/-- A channel that is not draining changes, for no new holder. -/
theorem linked_updChan (ch : Fin 32) {f : Chan → Chan} (hd : (u.chans.get ch).state ≠ .draining)
    (hh : (f (u.chans.get ch)).held = (u.chans.get ch).held ∨ (f (u.chans.get ch)).held = none) : Linked u (updChan ch f u) where
  wired := wired_updChan ch f
  upWait _ h := h
  ports _ h := h
  draining j _ hj := by rw [updChan_chans, if_neg (by rintro rfl; exact hd hj)]
  lone m h := by
    refine ⟨fun j => ?_, h.2⟩
    rw [updChan_chans]
    split
    · next e =>
      subst e
      have hm := h.1 ch
      rcases hh with hh | hh <;> simp only [heldBy, hh] at hm ⊢
      exact hm
    · exact h.1 j
  flight _ h := h

/-- A port changes, its state alone excepted. -/
theorem linked_updPort (p : Fin 4) {f : Port → Port} (hf : ∀ x, (f x).state = x.state) : Linked u (u.updPort p f) where
  wired := wired_updPort p f
  upWait _ h := h
  ports q h := by
    have e : ((u.updPort p f).ports.get q).state = (u.ports.get q).state := (fix_updPort (P := fun _ => True) p hf).frame.portStates q
    rw [e]; exact h
  draining _ _ _ := rfl
  lone _ h := h
  flight _ h := h

theorem linked_disablePort (p : Fin 4) : Linked u (disablePort u p) := by
  rw [disablePort]
  refine .ite (fun _ => ?_) (fun _ => .refl u)
  exact Linked.trans (v := u.updPort p (fun x => { x with enable := false, power := 0 })) (linked_updPort p (fun _ => rfl))
    ⟨rfl, fun _ h => h, fun _ h => h, fun _ _ _ => rfl, fun _ h => h, fun _ h => h⟩

theorem linked_disableIdle : Linked u (disableIdle u) := Linked.foldl (fun _ p => linked_disablePort p) _ u

theorem takeChannel_ports (ch : Fin 32) (k : Fin 4) (p : Fin 4) :
    ((takeChannel c ch n k u).ports.get p).state = (u.ports.get p).state := (fix_takeChannel (P := fun _ => True) ch k).frame.portStates p

/-- A FREE channel is taken for a slot that has part in the uplinks. -/
theorem linked_takeChannel {ch : Fin 32} (k : Fin 4) (hfree : (u.chans.get ch).state = .free) (hn : ¬ Lone u n) :
    Linked u (takeChannel c ch n k u) where
  wired := wired_takeChannel ch k
  upWait := (budgeted_takeChannel k hfree).upWait
  ports p h := by rw [takeChannel_ports]; exact h
  draining j _ hj := (budgeted_takeChannel k hfree).draining j hj
  lone m h := by
    have hne : n ≠ m := fun e => hn (e ▸ h)
    refine ⟨fun j => ?_, by rw [(wired_takeChannel ch k).slot]; exact h.2⟩
    rw [takeChannel_chans]
    split
    · exact beq_false_of_ne hne
    · exact h.1 j
  flight _ h := takeChannel_flight h

theorem linked_fillSlot : Linked u (fillSlot c n u) := by
  rw [fillSlot]
  refine Linked.foldl (fun u k => .ite (fun hp => ?_) (fun _ => .refl u)) _ u
  split
  · next ch h =>
    refine linked_takeChannel k (chooseChannel_free h) (fun hl => ?_)
    simp [pendingCount, hl.2] at hp
  · exact .refl u

theorem linked_serveWait : Linked u (serveWait c u) where
  wired := wired_serveWait
  upWait _ := serveWait_upWait
  ports p h := by rw [(fix_serveWait (P := fun _ => True)).frame.portStates p]; exact h
  draining _ _ := serveWait_draining
  lone m h := by
    rw [serveWait]
    refine List.foldlRecOn (motive := fun v : Units => Lone v m) _ _ h ?_
    intro v hv n _
    have hf := (linked_fillSlot (c := c) (n := n)).lone m hv
    exact ⟨fun ch => by rw [syncWait_chans]; exact hf.1 ch, by rw [wired_syncWait.slot]; exact hf.2⟩
  flight _ := serveWait_flight

/-- A released channel drains: it is not draining before. -/
theorem linked_releaseChan (ch : Fin 32) : Linked u (releaseChan c ch u) where
  wired := wired_releaseChan ch
  upWait := (budgeted_releaseChan ch).upWait
  ports p h := by rw [(fix_releaseChan (P := fun _ => True) ch).frame.portStates p]; exact h
  draining j _ := (budgeted_releaseChan ch).draining j
  lone m h := by
    refine ⟨fun j => ?_, by rw [(wired_releaseChan ch).slot]; exact h.2⟩
    rw [releaseChan_chans]
    split <;> exact h.1 j
  flight _ h := (releaseChan_flight ch).trans h

theorem linked_upWait {l : List (Fin 12)} (hl : ∀ m ∈ l, m ∈ u.upWait) : Linked u { u with upWait := l } :=
  ⟨rfl, hl, fun _ h => h, fun _ _ _ => rfl, fun _ h => h, fun _ h => h⟩

/-- A replacement serves a slot that holds a channel (R142). -/
theorem linked_replaceChan {ch : Fin 32} (hs : (u.chans.get ch).state = .assigned) (h : replaceChan c ch u = some v) : Linked u v := by
  rw [replaceChan] at h
  split at h
  · next n k new hheld hnew =>
    cases h
    have hfree := chooseChannel_free hnew
    have hne : new ≠ ch := fun e => by rw [e, hs] at hfree; cases hfree
    refine (linked_takeChannel k hfree (fun hl => ?_)).trans (linked_updChan ch ?_ (.inr rfl))
    · have hch := hl.1 ch
      simp [heldBy, hheld] at hch
    · rw [takeChannel_chans, if_neg hne, hs]; decide
  · cases h

/-- A place of a port that was UNAVAILABLE takes new content. -/
theorem Linked.putChan (h : Linked u v) {ch : Fin 32} {x : Chan} (hp : (u.ports.get (portOf ch)).state = .unavailable) (hx : x.held = none) :
    Linked u (putChan ch x v) where
  wired := h.wired.trans (wired_putChan ch x)
  upWait := h.upWait
  ports := h.ports
  draining j hj hd := by rw [putChan_chans, if_neg (by rintro rfl; exact hj hp), h.draining j hj hd]
  lone m hm := by
    refine ⟨fun j => ?_, (h.lone m hm).2⟩
    rw [putChan_chans]
    split
    · simp [heldBy, hx]
    · exact (h.lone m hm).1 j
  flight := h.flight

theorem portOf_places {p : Fin 4} {ch : Fin 32} (h : ch ∈ portPlaces p) : portOf ch = p := by
  simp only [portPlaces, List.mem_map] at h
  obtain ⟨k, -, rfl⟩ := h
  simp only [portOf, Fin.ext_iff]
  omega

/-- A port takes a state, but does not become UNAVAILABLE. -/
theorem linked_portState {p : Fin 4} {st : PortState} (hst : st ≠ .unavailable) : Linked u (u.updPort p (fun x => { x with state := st })) where
  wired := wired_updPort p _
  upWait _ h := h
  ports q hq := by
    rw [Units.updPort, updAt_get]
    split
    · exact hst
    · exact hq
  draining _ _ _ := rfl
  lone _ h := h
  flight _ h := h

/-- A port's places come into use (R131). -/
theorem Linked.portComesIntoUse {p : Fin 4} (h : Linked u v) (hp : (u.ports.get p).state = .unavailable) :
    Linked u (portComesIntoUse p v) := by
  rw [Machine.portComesIntoUse]
  refine List.foldlRecOn (motive := fun w : Units => Linked u w) _ _ h ?_
  intro w hw ch hch
  refine .ite (fun _ => hw.putChan ?_ rfl) (fun _ => hw)
  rw [portOf_places hch]; exact hp

/-- A port comes up (R143). -/
theorem linked_portUp (p : Fin 4) : Linked u (portUp c p u) := by
  rw [portUp]
  refine Linked.trans (Linked.foldl ?_ (portPlaces p) u) linked_serveWait
  intro u ch
  split
  · next h => exact linked_updChan ch (by rw [h]; decide) (.inl rfl)
  · next h => exact linked_updChan ch (by rw [h]; decide) (.inl rfl)
  · exact .refl u

/-! ### The re-check -/

/-- Entry `i` is not DUPLICATE, or a VALID entry has its key: a re-check leaves it alone (R34). -/
def Kept (u : Units) (i : Fin 26) : Prop := (u.inv.get i).state ≠ .duplicate ∨ keyTaken u i (u.inv.get i).ident = true

/-- A promotion does not reach the slot by its own fields (R7). -/
def Unpromotable (x : Slot) : Prop := x.state ≠ .standby ∧ x.unvalidated = false

/-- What the reports and promotions of a re-check leave alone. -/
structure Reported (u v : Units) : Prop where
  seats : ∀ m, SameSeat (u.slot m) (v.slot m)
  stay : ∀ m, Kept u (bladePos m) ∨ Unpromotable (u.slot m) → v.slot m = u.slot m
  inv : ∀ i, Kept u i → v.inv.get i = u.inv.get i
  waitQ : v.waitQ = u.waitQ
  grantOrder : v.grantOrder = u.grantOrder
  capped : v.capped = u.capped
  shed : v.shed = u.shed
  linkErr : v.linkErr = u.linkErr
  sensors : v.sensors = u.sensors
  upWait : ∀ m, m ∈ v.upWait → m ∈ u.upWait
  ports : ∀ p, (u.ports.get p).state ≠ .unavailable → (v.ports.get p).state ≠ .unavailable
  draining : ∀ ch, (u.ports.get (portOf ch)).state ≠ .unavailable → (u.chans.get ch).state = .draining → v.chans.get ch = u.chans.get ch
  lone : ∀ m, Lone u m → Lone v m ∧ v.slotEvents.get m = u.slotEvents.get m
  slotBits : ∀ m b, slotFlag u m b = true → slotFlag v m b = true
  chassisBits : ∀ b, chassisFlag u b = true → chassisFlag v b = true
  flight : ∀ f, u.xFlight = some f → v.xFlight = some f

theorem keyTaken_iff {i : Fin 26} {id : Ident} : keyTaken u i id = true ↔
    ∃ j, j ≠ i ∧ (u.inv.get j).state = .valid ∧ sameKey (u.inv.get j).ident id = true := by
  simp only [keyTaken, List.any_eq_true, Bool.and_eq_true, bne_iff_ne, beq_iff_eq, and_assoc]
  exact ⟨fun ⟨j, _, h⟩ => ⟨j, h⟩, fun ⟨j, h⟩ => ⟨j, mem_indices j, h⟩⟩

theorem kept_of_valid {i : Fin 26} (h : (u.inv.get i).state = .valid) : Kept u i := .inl (by rw [h]; decide)

/-- A taken key stays taken while VALID entries stay. -/
theorem keyTaken_mono (h : ∀ i, Kept u i → v.inv.get i = u.inv.get i) {i : Fin 26} {id : Ident} (hk : keyTaken u i id = true) :
    keyTaken v i id = true := by
  obtain ⟨j, hj, hv, hs⟩ := keyTaken_iff.mp hk
  have e := h j (kept_of_valid hv)
  exact keyTaken_iff.mpr ⟨j, hj, by rw [e]; exact hv, by rw [e]; exact hs⟩

theorem kept_mono (h : ∀ i, Kept u i → v.inv.get i = u.inv.get i) {i : Fin 26} (hk : Kept u i) : Kept v i := by
  have e := h i hk
  rcases hk with hk | hk
  · exact .inl (by rw [e]; exact hk)
  · exact .inr (by rw [e]; exact keyTaken_mono h hk)

theorem SameSeat.trans {x y z : Slot} (a : SameSeat x y) (b : SameSeat y z) : SameSeat x z :=
  ⟨b.1.trans a.1, b.2.1.trans a.2.1, b.2.2.trans a.2.2⟩

theorem Reported.refl (u : Units) : Reported u u where
  seats _ := ⟨rfl, rfl, rfl⟩
  stay _ _ := rfl
  inv _ _ := rfl
  waitQ := rfl
  grantOrder := rfl
  capped := rfl
  shed := rfl
  linkErr := rfl
  sensors := rfl
  upWait _ h := h
  ports _ h := h
  draining _ _ _ := rfl
  lone _ h := ⟨h, rfl⟩
  slotBits _ _ h := h
  chassisBits _ h := h
  flight _ h := h

theorem Reported.trans (a : Reported u v) (b : Reported v w) : Reported u w where
  seats m := (a.seats m).trans (b.seats m)
  stay m h := by
    have e := a.stay m h
    exact (b.stay m (h.imp (kept_mono a.inv) (fun hx => by rw [e]; exact hx))).trans e
  inv i h := (b.inv i (kept_mono a.inv h)).trans (a.inv i h)
  waitQ := b.waitQ.trans a.waitQ
  grantOrder := b.grantOrder.trans a.grantOrder
  capped := b.capped.trans a.capped
  shed := b.shed.trans a.shed
  linkErr := b.linkErr.trans a.linkErr
  sensors := b.sensors.trans a.sensors
  upWait m h := a.upWait m (b.upWait m h)
  ports p h := b.ports p (a.ports p h)
  draining ch hp hd := by
    have e := a.draining ch hp hd
    rw [b.draining ch (a.ports _ hp) (by rw [e]; exact hd), e]
  lone m h := ⟨(b.lone m (a.lone m h).1).1, (b.lone m (a.lone m h).1).2.trans (a.lone m h).2⟩
  slotBits m x h := b.slotBits m x (a.slotBits m x h)
  chassisBits x h := b.chassisBits x (a.chassisBits x h)
  flight f h := b.flight f (a.flight f h)

theorem Reported.foldl {α : Type} {f : Units → α → Units} (h : ∀ u a, Reported u (f u a)) (l : List α) (u : Units) :
    Reported u (l.foldl f u) :=
  List.foldlRecOn (motive := fun v : Units => Reported u v) l f (.refl u) (fun v hv a _ => hv.trans (h v a))

theorem Reported.ite {p : Prop} [Decidable p] (a : p → Reported u v) (b : ¬ p → Reported u w) : Reported u (if p then v else w) := by
  split
  · next h => exact a h
  · next h => exact b h

theorem Linked.reported (h : Linked u v) : Reported u v where
  seats m := by rw [h.wired.slot]; exact ⟨rfl, rfl, rfl⟩
  stay m _ := h.wired.slot m
  inv i _ := by rw [h.wired.inv]
  waitQ := h.wired.waitQ
  grantOrder := h.wired.grantOrder
  capped := h.wired.capped
  shed := h.wired.shed
  linkErr := h.wired.linkErr
  sensors := h.wired.sensors
  upWait := h.upWait
  ports := h.ports
  draining := h.draining
  lone m hm := ⟨h.lone m hm, by rw [h.wired.slotEvents]⟩
  slotBits m b hb := by rw [slotFlag, h.wired.slotEvents]; exact hb
  chassisBits b hb := by rw [chassisFlag, h.wired.chassisEvent]; exact hb
  flight := h.flight

/-- An operation that changes nothing of what `Reported` speaks of, but for chassis event bits. -/
theorem Reported.of_chassis {e : BitVec 32} (h : ∀ b, chassisFlag u b = true → chassisFlag { u with chassisEvent := e } b = true) :
    Reported u { u with chassisEvent := e } := { Reported.refl u with chassisBits := h }

theorem reported_setChassisBit (b : ChassisBit) : Reported u (setChassisBit b u) := .of_chassis (fun _ => setChassisBit_keeps _ b u)

theorem reported_slotBit (b : SlotBit) (hn : ¬ Lone u n) : Reported u (setSlotBit n b u) :=
  { Reported.refl u with
    lone := fun _ hm => ⟨hm, updAt_get_ne _ _ _ _ (fun e => hn (e ▸ hm))⟩
    slotBits := fun m x h => setSlotBit_keeps m n x b u h }

/-! ### Reports of a VALID entry -/

theorem reported_failover {ch : Fin 32} (hs : (u.chans.get ch).state = .assigned) : Reported u (failover c ch u) := by
  rw [failover]
  split
  · next h => exact (linked_replaceChan hs h).reported
  · have h1 : Reported u (updChan ch (fun x => { x with state := .stranded }) u) :=
      (linked_updChan ch (by rw [hs]; decide) (.inl rfl)).reported
    have e : ((updChan ch (fun x => { x with state := .stranded }) u).chans.get ch).held = (u.chans.get ch).held := by
      rw [updChan_chans, if_pos rfl]
    dsimp only
    split
    · next hh =>
      refine h1.trans (reported_slotBit _ (fun hl => ?_))
      have := hl.1 ch
      simp [heldBy, hh] at this
    · exact h1

theorem reported_portDown (p : Fin 4) : Reported u (portDown c p u) := by
  rw [portDown]
  refine Reported.trans (v := List.foldl (fun u ch => if (u.chans.get ch).state = .assigned then failover c ch u else u) u (portPlaces p))
    (Reported.foldl (fun u ch => .ite (fun h => reported_failover h) (fun _ => .refl u)) _ u) ?_
  refine (Linked.trans (Linked.foldl (fun u ch => .ite (fun h => ?_) (fun _ => .refl u)) _ _) linked_disableIdle).reported
  exact linked_updChan ch (by rw [h]; decide) (.inl rfl)

/-- A port whose entry is VALID is not UNAVAILABLE (R129). -/
theorem portStateOf_valid {p : Fin 4} (h : (u.inv.get (bayPos (uplinkBay p))).state = .valid) : portStateOf c u p ≠ .unavailable := by
  rw [portStateOf, if_pos h]
  split <;> decide

theorem reported_derivePort {p : Fin 4} (h : (u.inv.get (bayPos (uplinkBay p))).state = .valid) : Reported u (derivePort c p u) := by
  have hnew := portStateOf_valid (c := c) h
  have hv := (linked_portState (u := u) (p := p) hnew)
  rw [derivePort]
  generalize portStateOf c u p = new at hnew hv
  refine .ite (fun _ => .refl u) (fun _ => ?_)
  let v := if (u.ports.get p).state = .up ∧ new = .down then setChassisBit .uplinkDown (u.updPort p (fun x => { x with state := new }))
    else u.updPort p (fun x => { x with state := new })
  have h1 : Reported u v := .ite (fun _ => hv.reported.trans (reported_setChassisBit _)) (fun _ => hv.reported)
  refine .ite (fun _ => h1) (fun _ => ?_)
  split
  · exact h1.trans (reported_portDown p)
  · exact h1.trans (linked_portUp p).reported
  · next hs _ =>
    have e : v = u.updPort p (fun x => { x with state := .up }) := if_neg (fun a => by rw [hs] at a; cases a.1)
    show Reported u (serveWait c (portComesIntoUse p v))
    rw [e]
    exact ((hv.portComesIntoUse hs).trans linked_serveWait).reported
  · next hs _ =>
    have e : v = u.updPort p (fun x => { x with state := .down }) := if_neg (fun a => by rw [hs] at a; cases a.1)
    show Reported u (portComesIntoUse p v)
    rw [e]
    exact (hv.portComesIntoUse hs).reported
  · exact absurd rfl hnew
  · exact h1

/-- Supplies, fans and zones are none of what `Reported` speaks of. -/
theorem reported_records (s : Vector Supply 4) (f : Vector Fan 6) (z : Vector Zone 3) :
    Reported u { u with supplies := s, fans := f, zones := z } := { Reported.refl u with waitQ := rfl }

theorem reported_deriveFan (k : Fin 6) : Reported u (deriveFan c k u) := by
  rw [deriveFan]
  exact reported_records u.supplies _ _

theorem reported_deriveSupply (k : Fin 4) : Reported u (deriveSupply c k u) := by
  rw [deriveSupply]
  have h1 (s : Vector Supply 4) : Reported u { u with supplies := s } := reported_records s u.fans u.zones
  exact .ite (fun _ => (h1 _).trans (reported_setChassisBit _))
    (fun _ => .ite (fun _ => (h1 _).trans (reported_setChassisBit _)) (fun _ => h1 _))

/-- The report of a VALID entry. -/
theorem reported_reportEntry {i : Fin 26} (h : (u.inv.get i).state = .valid) : Reported u (reportEntry c i u) := by
  rw [reportEntry]
  split
  · exact .refl u
  · next b hb =>
    rw [posBay] at hb
    split at hb
    · cases hb
      split
      · exact reported_deriveSupply _
      · split
        · exact reported_deriveFan _
        · refine reported_derivePort ?_
          have e : bayPos (uplinkBay ⟨i.val - 12 - 10, by omega⟩) = i := Fin.ext (by simp only [bayPos, uplinkBay] at *; omega)
          show (u.inv.get (bayPos (uplinkBay ⟨i.val - 12 - 10, _⟩))).state = .valid
          rw [e]; exact h
    · cases hb

/-! ### Promotions -/

/-- A slot whose promotion the re-check makes. -/
theorem Reported.updSlot (h : Reported u v) {f : Slot → Slot} (hk : ¬ Kept u (bladePos n)) (hx : ¬ Unpromotable (u.slot n))
    (hf : SameSeat (v.slot n) (f (v.slot n))) (hc : (v.slot n).claimed = 0 → (f (v.slot n)).claimed = 0) : Reported u (v.updSlot n f) :=
  { h with
    seats := fun m => by
      rw [updSlot_slot]; split
      · next e => subst e; exact (h.seats n).trans hf
      · exact h.seats m
    stay := fun m hm => by
      rw [updSlot_slot, if_neg (by rintro rfl; exact hm.elim hk hx)]; exact h.stay m hm
    lone := fun m hm => by
      obtain ⟨⟨hch, hcl⟩, he⟩ := h.lone m hm
      refine ⟨⟨hch, ?_⟩, he⟩
      rw [updSlot_slot]; split
      · next e => subst e; exact hc hcl
      · exact hcl }

theorem posSlot_pos {i : Fin 26} (h : posSlot i = some n) : bladePos n = i := by
  rw [posSlot] at h
  split at h
  · cases h; rfl
  · cases h

theorem Reported.clearMark (h : Reported u v) (hk : ¬ Kept u (bladePos n)) : Reported u (clearMark c n v) := by
  rw [Machine.clearMark]
  refine .ite (fun hm => ?_) (fun _ => h)
  have hx : ¬ Unpromotable (u.slot n) := fun hx => by rw [h.stay n (.inr hx), hx.2] at hm; cases hm
  let w := v.updSlot n (fun x => { x with unvalidated := false })
  let y := (activeAbove w n (laneLimit w n)).foldl (fun u ch => releaseChan c ch u) w
  let z := y.updSlot n (fun x => { x with claimed := min x.claimed (laneLimit y n) })
  have h1 : Reported u w := h.updSlot hk hx ⟨rfl, rfl, rfl⟩ (fun h => h)
  have h2 : Reported u y := h1.trans (Linked.foldl (fun _ ch => linked_releaseChan ch) _ w).reported
  have h3 : Reported u z := h2.updSlot hk hx ⟨rfl, rfl, rfl⟩ (fun h => by simp [h])
  have h4 : Reported u (if pendingCount z n = 0 then { z with upWait := z.upWait.filter (· != n) } else z) :=
    .ite (fun _ => h3.trans (linked_upWait (u := z) (fun _ hm => (List.mem_filter.mp hm).1)).reported) (fun _ => h3)
  exact h4

theorem Reported.promoted (h : Reported u v) {i : Fin 26} (hk : ¬ Kept u i) : Reported u (promoted c i v) := by
  rw [Machine.promoted]
  split
  · exact h
  · next n hi =>
    rw [← posSlot_pos hi] at hk
    refine Reported.clearMark (.ite (fun hs => ?_) (fun _ => h)) hk
    refine h.updSlot hk (fun hx => hx.1 (by rw [← h.stay n (.inr hx)]; exact hs)) ?_ (fun h => h)
    exact ⟨by rw [isSeated, isSeated, hs]; rfl, rfl, rfl⟩

/-! ### Entries -/

/-- A view of the units that reads neither inventory nor chassis event word is the same once an entry has been stored. -/
theorem storeEntry_view {α : Type} (g : Units → α) (hg : ∀ u a b c, g { u with invGen := a, inv := b, chassisEvent := c } = g u)
    (i : Fin 26) (e : Entry) (u : Units) : g (storeEntry i e u) = g u := by
  rw [storeEntry]
  split
  · rfl
  · split
    · exact hg u _ _ u.chassisEvent
    · exact hg u _ _ _

section stored
variable (i : Fin 26) (e : Entry)

@[simp] theorem storeEntry_slot : (storeEntry i e u).slot m = u.slot m := storeEntry_view (fun u => u.slot m) (fun _ _ _ _ => rfl) i e u
@[simp] theorem storeEntry_slotEvents : (storeEntry i e u).slotEvents = u.slotEvents := storeEntry_view _ (fun _ _ _ _ => rfl) i e u
@[simp] theorem storeEntry_waitQ : (storeEntry i e u).waitQ = u.waitQ := storeEntry_view _ (fun _ _ _ _ => rfl) i e u
@[simp] theorem storeEntry_grantOrder : (storeEntry i e u).grantOrder = u.grantOrder := storeEntry_view _ (fun _ _ _ _ => rfl) i e u
@[simp] theorem storeEntry_capped : (storeEntry i e u).capped = u.capped := storeEntry_view _ (fun _ _ _ _ => rfl) i e u
@[simp] theorem storeEntry_shed : (storeEntry i e u).shed = u.shed := storeEntry_view _ (fun _ _ _ _ => rfl) i e u
@[simp] theorem storeEntry_linkErr : (storeEntry i e u).linkErr = u.linkErr := storeEntry_view _ (fun _ _ _ _ => rfl) i e u
@[simp] theorem storeEntry_sensors : (storeEntry i e u).sensors = u.sensors := storeEntry_view _ (fun _ _ _ _ => rfl) i e u
@[simp] theorem storeEntry_upWait : (storeEntry i e u).upWait = u.upWait := storeEntry_view _ (fun _ _ _ _ => rfl) i e u
@[simp] theorem storeEntry_ports : (storeEntry i e u).ports = u.ports := storeEntry_view _ (fun _ _ _ _ => rfl) i e u
@[simp] theorem storeEntry_chans : (storeEntry i e u).chans = u.chans := storeEntry_view _ (fun _ _ _ _ => rfl) i e u
@[simp] theorem storeEntry_xFlight : (storeEntry i e u).xFlight = u.xFlight := storeEntry_view _ (fun _ _ _ _ => rfl) i e u

theorem storeEntry_chassisBits {b : ChassisBit} (h : chassisFlag u b = true) : chassisFlag (storeEntry i e u) b = true := by
  rw [storeEntry]
  split
  · exact h
  · split
    · exact h
    · exact setChassisBit_keeps _ _ _ h

/-- The stored entry has the new content. -/
theorem storeEntry_self : ((storeEntry i e u).inv.get i).state = e.state ∧ ((storeEntry i e u).inv.get i).reason = e.reason
    ∧ ((storeEntry i e u).inv.get i).ident = e.ident ∧ ((storeEntry i e u).inv.get i).inserts = e.inserts := by
  rw [storeEntry_inv]
  split
  · exact ⟨rfl, rfl, rfl, rfl⟩
  · next h =>
    have hs : sameEntry (u.inv.get i) e = true := by simpa using h
    simpa [sameEntry, and_assoc] using hs

theorem storeEntry_other {j : Fin 26} (h : i ≠ j) : (storeEntry i e u).inv.get j = u.inv.get j := by
  rw [storeEntry_inv, if_neg (fun a => h a.1)]

/-- Storing a key's own entry does not take or free the key for it. -/
@[simp] theorem keyTaken_storeEntry (id : Ident) : keyTaken (storeEntry i e u) i id = keyTaken u i id := by
  have key : ∀ j, j ≠ i → (storeEntry i e u).inv.get j = u.inv.get j := fun j hj => storeEntry_other i e (Ne.symm hj)
  rw [Bool.eq_iff_iff, keyTaken_iff, keyTaken_iff]
  refine exists_congr fun j => and_congr_right fun hj => ?_
  rw [key j hj]

end stored

theorem reported_storeEntry {i : Fin 26} (e : Entry) (hk : ¬ Kept u i) : Reported u (storeEntry i e u) where
  seats m := by rw [storeEntry_slot]; exact ⟨rfl, rfl, rfl⟩
  stay m _ := storeEntry_slot i e
  inv j hj := storeEntry_other i e (by rintro rfl; exact hk hj)
  waitQ := storeEntry_waitQ i e
  grantOrder := storeEntry_grantOrder i e
  capped := storeEntry_capped i e
  shed := storeEntry_shed i e
  linkErr := storeEntry_linkErr i e
  sensors := storeEntry_sensors i e
  upWait m h := by rw [storeEntry_upWait] at h; exact h
  ports p h := by rw [storeEntry_ports]; exact h
  draining ch _ _ := by rw [storeEntry_chans]
  lone m h := by
    rw [storeEntry_slotEvents]
    exact ⟨by rw [Lone, storeEntry_chans, storeEntry_slot]; exact h, rfl⟩
  slotBits m b h := by rw [slotFlag, storeEntry_slotEvents]; exact h
  chassisBits b h := storeEntry_chassisBits i e h
  flight f h := by rw [storeEntry_xFlight]; exact h

/-- The re-check over any positions (R34). -/
theorem reported_recheck (l : List (Fin 26)) : Reported u (recheck c l u) := by
  rw [recheck]
  refine Reported.foldl (fun u i => .ite (fun h => ?_) (fun _ => .refl u)) l u
  obtain ⟨hd, hk⟩ := h
  have hn : ¬ Kept u i := by
    rintro (h | h)
    · exact h hd
    · rw [h] at hk; cases hk
  refine Reported.promoted ?_ hn
  have hs : sameEntry (u.inv.get i) { u.inv.get i with state := .valid } = false := by simp [sameEntry, hd]
  rw [putEntry, hs]
  exact (reported_storeEntry _ hn).trans (reported_reportEntry (storeEntry_self i _).1)

@[simp] theorem reportEntry_blade : reportEntry c (bladePos n) u = u := by
  have h : posBay (bladePos n) = none := by simp [posBay, bladePos, n.isLt]
  rw [reportEntry, h]

/-- A changed blade entry is stored; what follows is the re-check. -/
theorem reported_changeEntry (e : Entry) : Reported (storeEntry (bladePos n) e u) (changeEntry c (bladePos n) e u) := by
  have report : ∀ v, reportChange c (bladePos n) (u.inv.get (bladePos n)) e v = v := fun v => by
    rw [reportChange]; split
    · rfl
    · exact reportEntry_blade
  rw [changeEntry, changeThen]
  refine .ite (fun _ => ?_) (fun _ => by rw [report]; exact .refl _)
  rw [report]
  exact (reported_recheck _).trans (reported_recheck _)

/-- The changed entry keeps its new content unless it is DUPLICATE with a free key. -/
theorem changeEntry_entry {e : Entry} (h : e.state ≠ .duplicate ∨ keyTaken u (bladePos n) e.ident = true) :
    (bladeEntry (changeEntry c (bladePos n) e u) n).state = e.state ∧ (bladeEntry (changeEntry c (bladePos n) e u) n).reason = e.reason
      ∧ (bladeEntry (changeEntry c (bladePos n) e u) n).ident = e.ident
      ∧ (bladeEntry (changeEntry c (bladePos n) e u) n).inserts = e.inserts := by
  obtain ⟨hs, hr, hi, hc⟩ := storeEntry_self (u := u) (bladePos n) e
  have hk : Kept (storeEntry (bladePos n) e u) (bladePos n) := by
    rw [Kept, hs, hi, keyTaken_storeEntry]; exact h
  rw [bladeEntry, (reported_changeEntry e).inv _ hk]
  exact ⟨hs, hr, hi, hc⟩

/-- And so does its slot. -/
theorem changeEntry_slot {e : Entry} (h : e.state ≠ .duplicate ∨ keyTaken u (bladePos n) e.ident = true) :
    (changeEntry c (bladePos n) e u).slot n = u.slot n := by
  obtain ⟨hs, -, hi, -⟩ := storeEntry_self (u := u) (bladePos n) e
  have hk : Kept (storeEntry (bladePos n) e u) (bladePos n) := by
    rw [Kept, hs, hi, keyTaken_storeEntry]; exact h
  rw [(reported_changeEntry e).stay n (.inl hk), storeEntry_slot]

/-- A slot that a promotion does not reach by its own fields stays. -/
theorem changeEntry_unpromotable {e : Entry} (h : Unpromotable (u.slot m)) : (changeEntry c (bladePos n) e u).slot m = u.slot m := by
  rw [(reported_changeEntry e).stay m (.inr (by rw [storeEntry_slot]; exact h)), storeEntry_slot]

end

end Sys2Proof.Machine
end

section
/-! PROOFS. A slot is seated and removed (R5, R25): what the operation does to the slot, to its channels and to its place in the lists, and
that neither the re-check (`Reported`) nor the settling of the account (`Budgeted`) undoes it. -/

namespace Sys2Proof.Machine

section
variable {u v : Units} {c : Ctx} {n m : Fin 12}

/-! ### Seats -/

/-- What a slot counts for among the seated ones (R49). -/
def seat (x : Slot) : Nat := if isSeated x then 1 else 0

theorem seatedCount_eq_sum (u : Units) : seatedCount u = ∑ m, seat (u.slot m) := (Fin.sum_univ_def _).symm

theorem seatedCount_eq (h : ∀ m, isSeated (v.slot m) = isSeated (u.slot m)) : seatedCount v = seatedCount u := by
  simp only [seatedCount, h]

theorem seated_of_ne {x : Slot} (h1 : x.state ≠ .empty) (h2 : x.state ≠ .seating) : isSeated x = true := by simp [isSeated, h1, h2]

/-- When one seat alone changes, the count changes by it. -/
theorem seatedCount_change (h : ∀ m, m ≠ n → isSeated (v.slot m) = isSeated (u.slot m)) :
    seatedCount v + seat (u.slot n) = seatedCount u + seat (v.slot n) := by
  have others : ∑ m ∈ Finset.univ.erase n, seat (v.slot m) = ∑ m ∈ Finset.univ.erase n, seat (u.slot m) :=
    Finset.sum_congr rfl (fun m hm => by rw [seat, seat, h m (Finset.ne_of_mem_erase hm)])
  rw [seatedCount_eq_sum, seatedCount_eq_sum, ← Finset.add_sum_erase _ _ (Finset.mem_univ n), ← Finset.add_sum_erase _ _ (Finset.mem_univ n),
    others]
  omega

/-- A changed blade entry changes no seat. -/
theorem changeEntry_seats (e : Entry) (m : Fin 12) : SameSeat (u.slot m) ((changeEntry c (bladePos n) e u).slot m) := by
  have h := (reported_changeEntry (c := c) (u := u) (n := n) e).seats m
  rwa [storeEntry_slot] at h

/-! ### Seating (R5) -/

/-- The units to which `seatSlot` gives the new blade entry. -/
def seatBegun (n : Fin 12) (u : Units) : Units :=
  let u := u.updSlot n (fun x =>
    { x with state := .standby, stbyEn := true, seatTimer := none, identityTake := .none, powerTake := .none, reportTake := .none,
             claimTake := .none, answerTake := .none, defers := 0, unvalidated := false })
  ({ u with slotEvents := updAt u.slotEvents n (fun _ => 0), linkErr := updAt u.linkErr (slotLink n) (fun _ => 0) }.touch
    (.slotStatus n)).touch (.slotEvent n)

theorem seatSlot_eq : seatSlot c n u = changeEntry c (bladePos n) (unreadEntry (bladeEntry u n)) (seatBegun n u) := rfl

theorem seatBegun_slot : (seatBegun n u).slot n =
    { u.slot n with state := .standby, stbyEn := true, seatTimer := none, identityTake := .none, powerTake := .none, reportTake := .none,
                    claimTake := .none, answerTake := .none, defers := 0, unvalidated := false } := updSlot_slot_self u n _

theorem seatBegun_other (h : m ≠ n) : (seatBegun n u).slot m = u.slot m := (updSlot_slot u n _ m).trans (if_neg (Ne.symm h))

theorem unreadEntry_state (e : Entry) : (unreadEntry e).state ≠ .duplicate := by simp [unreadEntry]

theorem seatSlot_slot : (seatSlot c n u).slot n = (seatBegun n u).slot n := changeEntry_slot (.inl (unreadEntry_state _))

theorem seatSlot_seats (h : m ≠ n) : isSeated ((seatSlot c n u).slot m) = isSeated (u.slot m) := by
  rw [seatSlot_eq, (changeEntry_seats _ m).1, seatBegun_other h]

theorem seatSlot_unpromotable (h : m ≠ n) (hx : Unpromotable (u.slot m)) : (seatSlot c n u).slot m = u.slot m := by
  rw [seatSlot_eq, changeEntry_unpromotable (by rw [seatBegun_other h]; exact hx), seatBegun_other h]

/-- A slot without part in the uplinks has no event of its own when it is seated. -/
theorem seatSlot_events (h : Lone u n) : (seatSlot c n u).slotEvents.get n = 0 := by
  have hl : Lone (storeEntry (bladePos n) (unreadEntry (bladeEntry u n)) (seatBegun n u)) n := by
    refine ⟨fun ch => ?_, ?_⟩
    · rw [storeEntry_chans]; exact h.1 ch
    · rw [storeEntry_slot, seatBegun_slot]; exact h.2
  rw [seatSlot_eq, ((reported_changeEntry _).lone n hl).2, storeEntry_slotEvents]
  exact updAt_get_self _ _ _

theorem seatSlot_linkErr : (seatSlot c n u).linkErr.get (slotLink n) = 0 := by
  rw [seatSlot_eq, (reported_changeEntry _).linkErr, storeEntry_linkErr]
  exact updAt_get_self _ _ _

/-! ### Channels of a slot that leaves them (R139, R140) -/

/-- An active channel that its holder has released (R139). -/
def releasedChan (c : Ctx) (x : Chan) : Chan :=
  { x with state := .draining, answer := x.state == .switching, drain := if x.state = .switching then none else startTimer c (drainTime c) }

theorem isActive_releasedChan (x : Chan) : isActive (releasedChan c x) = false := rfl

theorem releases_chans (l : List (Fin 32)) (j : Fin 32) : (l.foldl (fun u ch => releaseChan c ch u) u).chans.get j =
    if j ∈ l ∧ isActive (u.chans.get j) = true then releasedChan c (u.chans.get j) else u.chans.get j := by
  induction l generalizing u with
  | nil => simp
  | cons ch rest ih =>
    have hc : (releaseChan c ch u).chans.get j =
      if ch = j ∧ isActive (u.chans.get j) = true then releasedChan c (u.chans.get j) else u.chans.get j := releaseChan_chans ch j
    rw [List.foldl_cons, ih, hc]
    by_cases ha : isActive (u.chans.get j) = true
    · by_cases hj : ch = j
      · simp [hj, ha, isActive_releasedChan]
      · simp [hj, ha, Ne.symm hj]
    · simp [ha]

theorem lanePlace_held {k : Fin 4} {ch : Fin 32} (h : lanePlace u n k = some ch) : (u.chans.get ch).held = some (n, k) := by
  simpa using List.find?_some h

theorem mem_activeOf {k : Fin 4} {ch : Fin 32} (h : lanePlace u n k = some ch) (ha : isActive (u.chans.get ch) = true) :
    ch ∈ activeOf u n := by
  refine List.mem_filterMap.mpr ⟨k, mem_indices k, ?_⟩
  simp [h, ha]

theorem powerOff_chans : (powerOff c n u).chans = ((activeOf u n).foldl (fun u ch => releaseChan c ch u) u).chans := rfl

/-! ### Removal (R25) -/

/-- The units to which `removeSlot` gives the ABSENT blade entry. -/
def emptied (c : Ctx) (n : Fin 12) (u : Units) : Units := (powerOff c n u).updSlot n (fun x => { emptySlot x with enabled := rowEnable c n })

theorem removeSlot_seating (h : (u.slot n).state = .seating) :
    removeSlot c n u = u.updSlot n (fun x => { x with state := .empty, seatTimer := none, enabled := rowEnable c n }) := by
  rw [removeSlot, h]

theorem removeSlot_seated (h : isSeated (u.slot n) = true) : removeSlot c n u =
    setChassisBit .slotRemoved (changeEntry c (bladePos n) (absentEntry (bladeEntry (emptied c n u) n)) (emptied c n u)) := by
  rw [removeSlot]
  split
  · next e => simp [isSeated, e] at h
  · next e => simp [isSeated, e] at h
  · rfl

theorem emptied_slot : (emptied c n u).slot n =
    { emptySlot (darkSlot { u.slot n with claimed := 0, group := .any }) with enabled := rowEnable c n } := by
  rw [emptied, updSlot_slot_self, powerOff_slot]

theorem only_emptied : OnlySlot n u (emptied c n u) := only_powerOff.trans (only_updSlot _)

theorem absentEntry_state (e : Entry) : (absentEntry e).state ≠ .duplicate := by simp [absentEntry]

theorem removeSlot_slot (h : isSeated (u.slot n) = true) : (removeSlot c n u).slot n = (emptied c n u).slot n := by
  rw [removeSlot_seated h, setChassisBit_slot]
  exact changeEntry_slot (.inl (absentEntry_state _))

theorem emptied_waitQ : (emptied c n u).waitQ = (removeWait n u).waitQ := by rw [emptied, updSlot_waitQ, powerOff_waitQ]

theorem powerOff_grantOrder : (powerOff c n u).grantOrder = (releaseSlot c n u).grantOrder.filter (· != n) := rfl
theorem powerOff_capped : (powerOff c n u).capped = (releaseSlot c n u).capped.filter (· != n) := rfl
theorem powerOff_shed : (powerOff c n u).shed = (releaseSlot c n u).shed.filter (· != n) := rfl
theorem powerOff_upWait : (powerOff c n u).upWait = (releaseSlot c n u).upWait := rfl
theorem releaseSlot_upWait :
    (releaseSlot c n u).upWait = ((activeOf u n).foldl (fun u ch => releaseChan c ch u) u).upWait.filter (· != n) := rfl

theorem not_mem_filter_ne (l : List (Fin 12)) : n ∉ l.filter (· != n) := fun h => by simpa using (List.mem_filter.mp h).2

/-- The slot is on no list once its power is off. -/
theorem emptied_lists :
    n ∉ (emptied c n u).grantOrder ∧ n ∉ (emptied c n u).capped ∧ n ∉ (emptied c n u).shed ∧ n ∉ (emptied c n u).upWait := by
  rw [emptied, updSlot_grantOrder, updSlot_capped, updSlot_shed, updSlot_upWait, powerOff_grantOrder, powerOff_capped, powerOff_shed,
    powerOff_upWait, releaseSlot_upWait]
  exact ⟨not_mem_filter_ne _, not_mem_filter_ne _, not_mem_filter_ne _, not_mem_filter_ne _⟩

section removed
variable (h : isSeated (u.slot n) = true)
include h

theorem removeSlot_reported : ∃ w, Reported (storeEntry (bladePos n) (absentEntry (bladeEntry (emptied c n u) n)) (emptied c n u)) w
    ∧ removeSlot c n u = setChassisBit .slotRemoved w := ⟨_, reported_changeEntry _, removeSlot_seated h⟩

theorem removeSlot_waitQ : (removeSlot c n u).waitQ = (removeWait n u).waitQ := by
  obtain ⟨w, hw, e⟩ := removeSlot_reported (c := c) h
  rw [e]
  exact (hw.waitQ.trans (storeEntry_waitQ ..)).trans emptied_waitQ

theorem removeSlot_lists : n ∉ (removeSlot c n u).grantOrder ∧ n ∉ (removeSlot c n u).capped ∧ n ∉ (removeSlot c n u).shed
    ∧ n ∉ (removeSlot c n u).upWait := by
  obtain ⟨w, hw, e⟩ := removeSlot_reported (c := c) h
  obtain ⟨h1, h2, h3, h4⟩ := emptied_lists (c := c) (u := u) (n := n)
  rw [e]
  refine ⟨?_, ?_, ?_, fun hm => h4 ?_⟩
  · show n ∉ w.grantOrder
    rw [hw.grantOrder, storeEntry_grantOrder]; exact h1
  · show n ∉ w.capped
    rw [hw.capped, storeEntry_capped]; exact h2
  · show n ∉ w.shed
    rw [hw.shed, storeEntry_shed]; exact h3
  · have := hw.upWait n hm
    rwa [storeEntry_upWait] at this

/-- The active channels of a removed slot drain (R140). -/
theorem removeSlot_chan {k : Fin 4} {ch : Fin 32} (hl : lanePlace u n k = some ch) (ha : isActive (u.chans.get ch) = true)
    (hp : (u.ports.get (portOf ch)).state ≠ .unavailable) : (removeSlot c n u).chans.get ch = releasedChan c (u.chans.get ch) := by
  obtain ⟨w, hw, e⟩ := removeSlot_reported (c := c) h
  have he : (emptied c n u).chans.get ch = releasedChan c (u.chans.get ch) := by
    rw [emptied, updSlot_chans, powerOff_chans, releases_chans, if_pos ⟨mem_activeOf hl ha, ha⟩]
  have hports : ((emptied c n u).ports.get (portOf ch)).state = (u.ports.get (portOf ch)).state := only_emptied.frame.portStates _
  have hd := hw.draining ch (by rw [storeEntry_ports, hports]; exact hp) (by rw [storeEntry_chans, he]; rfl)
  rw [e, show (setChassisBit .slotRemoved w).chans = w.chans from rfl, hd, storeEntry_chans, he]

theorem removeSlot_seats (hm : m ≠ n) : isSeated ((removeSlot c n u).slot m) = isSeated (u.slot m) := by
  rw [removeSlot_seated h, setChassisBit_slot, (changeEntry_seats _ m).1, only_emptied.slots m hm]

theorem removeSlot_unpromotable (hm : m ≠ n) (hx : Unpromotable (u.slot m)) : (removeSlot c n u).slot m = u.slot m := by
  rw [removeSlot_seated h, setChassisBit_slot, changeEntry_unpromotable (by rw [only_emptied.slots m hm]; exact hx), only_emptied.slots m hm]

theorem removeSlot_entry : (bladeEntry (removeSlot c n u) n).state = .absent := by
  rw [removeSlot_seated h]
  exact (changeEntry_entry (c := c) (.inl (absentEntry_state _))).1

theorem removeSlot_sensors : (removeSlot c n u).sensors = u.sensors := by
  obtain ⟨w, hw, e⟩ := removeSlot_reported (c := c) h
  rw [e]
  exact (hw.sensors.trans (storeEntry_sensors ..)).trans only_emptied.frame.sensors

end removed

end

end Sys2Proof.Machine
end

section
open Sys2Proof Sys2Proof.Machine

/-- Settles O35: the slot is seated (`seatSlot_slot`), its entry is not DUPLICATE, so no re-check promotes it, and it has no power, so the
settling of the account leaves it alone. -/
theorem seatingEndsInStandby : Obligations.SeatingEndsInStandby := by
  intro s n d h hs
  let c := atDeadline s.ctx d
  let v := seatSlot c n s.units
  have hb : Budgeted v (settleAfter c s.units v) := budgeted_settleAfter
  have hslot : v.slot n = _ := seatSlot_slot.trans seatBegun_slot
  have hdark : dark (v.slot n) = true := by rw [hslot]; rfl
  obtain ⟨hstate, hreason, -, hinserts⟩ := changeEntry_entry (c := c) (n := n) (u := seatBegun n s.units)
    (e := unreadEntry (bladeEntry s.units n)) (.inl (unreadEntry_state _))
  have hentry : bladeEntry (settleAfter c s.units v) n = bladeEntry v n := by rw [bladeEntry, hb.keeps.frame.inv]; rfl
  refine ⟨_, done_atTimer_settle s _ h, rfl, after_sameOutside _ _ _ rfl rfl, ?_⟩
  have hfin : (settleAfter (atDeadline s.ctx d) s.units (seatSlot (atDeadline s.ctx d) n s.units)).settled.slot n = _ :=
    (settled_slot_dark hdark).trans hslot
  simp only [after_units]
  rw [hfin]
  refine ⟨rfl, rfl, rfl, rfl, rfl, rfl, rfl, rfl, rfl, rfl, rfl, rfl, ?_, fun hch hcl => ?_, ?_, ?_, ?_, ?_, fun m hm hd h1 h2 => ?_⟩
  · have seats : ∀ m, m ≠ n → isSeated (v.slot m) = isSeated (s.units.slot m) := fun m hm => by
      rw [seatSlot_seats hm]
    have count := seatedCount_change seats
    have h0 : seat (s.units.slot n) = 0 := by simp [seat, isSeated, hs]
    have h1 : seat (v.slot n) = 1 := by rw [hslot]; rfl
    have same : seatedCount (settleAfter c s.units v).settled = seatedCount v := seatedCount_eq hb.seated
    rw [same]
    omega
  · exact (hb.events n hdark).trans (seatSlot_events ⟨hch, hcl⟩)
  · show (bladeEntry (settleAfter c s.units v) n).state = _
    rw [hentry]; exact hstate
  · show (bladeEntry (settleAfter c s.units v) n).reason = _
    rw [hentry]; exact hreason
  · show (bladeEntry (settleAfter c s.units v) n).inserts = _
    rw [hentry]; exact hinserts
  · show (settleAfter c s.units v).linkErr.get _ = _
    rw [hb.keeps.frame.linkErr]; exact seatSlot_linkErr
  · have e : v.slot m = s.units.slot m := seatSlot_unpromotable hm ⟨h1, h2⟩
    rw [settled_slot_dark (by rw [e]; exact hd), e]

/-- Settles O30: the slot's own part (`removeSlot_seating`, `removeSlot_slot`), its channels (`removeSlot_chan`) and lists
(`removeSlot_lists`); the slot is dark, so the settling of the account keeps all of it (`Budgeted`). -/
theorem removalEndsEverythingOfTheSlot : Obligations.RemovalEndsEverythingOfTheSlot := by
  intro s n d hw hl hne
  let c := Shown s (.presL n) false d
  let v := removeSlot c n s.units
  have hrun : exec (.presLLoss n) s =
      .next (finish s { discardTakes n s with ctx := c, units := settleAfter c s.units v }) := by
    show done s (onPin _ _ _ s) = _
    rw [onPin_waits hw, if_neg hne]
    exact (congrArg (done s) (if_pos hl)).trans rfl
  have hb : Budgeted v (settleAfter c s.units v) := budgeted_settleAfter
  obtain ⟨hstate, htimer, henabled⟩ :
      (v.slot n).state = .empty ∧ (v.slot n).seatTimer = none ∧ (v.slot n).enabled = rowEnable s.ctx n := by
    by_cases hs : (s.units.slot n).state = .seating
    · have e : v.slot n = _ := (congrArg (Units.slot · n) (removeSlot_seating hs)).trans (updSlot_slot_self _ _ _)
      rw [e]; exact ⟨rfl, rfl, rfl⟩
    · have e : v.slot n = _ := (removeSlot_slot (seated_of_ne hne hs)).trans emptied_slot
      rw [e]; exact ⟨rfl, rfl, rfl⟩
  have hdark : dark (v.slot n) = true := by simp [dark, quiet, hstate]
  have hslot : (settleAfter c s.units v).slot n = v.slot n := settleAfter_dark hdark
  have hlinks := discardTakes_links n s
  refine ⟨_, hrun, rfl, hslot ▸ hstate, hslot ▸ htimer, fun hs => ?_, hslot ▸ henabled, fun ht => ?_, fun tk rest ht => ?_,
    fun l hl => ?_, fun m hm hd h1 h2 => ?_, ?_, rfl, rfl, rfl, rfl⟩
  · have hseat := seated_of_ne hne hs
    have e : v.slot n = _ := (removeSlot_slot hseat).trans emptied_slot
    have hfin : (finish s { discardTakes n s with ctx := c, units := settleAfter c s.units v }).units.slot n = _ := hslot.trans e
    obtain ⟨hg, hc, hsh, hup⟩ := removeSlot_lists (c := c) hseat
    simp only [hfin]
    refine ⟨rfl, rfl, rfl, rfl, rfl, rfl, rfl, rfl, rfl, ?_, ?_, ?_, ?_, ?_, ?_, ?_, rfl, rfl, rfl, rfl, rfl, rfl, rfl, rfl, rfl,
      drawAverage_reset rfl, rfl, ?_, ?_⟩
    · have hinv : bladeEntry (settleAfter c s.units v) n = bladeEntry v n := by rw [bladeEntry, hb.keeps.frame.inv]; rfl
      exact (congrArg Entry.state hinv).trans (removeSlot_entry hseat)
    · refine hb.keeps.frame.chassisBits .slotRemoved ?_
      rw [show v = _ from removeSlot_seated hseat]
      exact setChassisBit_flag _ _
    · refine hb.keeps.frame.waits n ?_
      rw [hasWait, show v.waitQ = _ from removeSlot_waitQ hseat]
      exact hasWait_removeWait n _
    · exact fun a => hg (hb.grantOrder n hdark a)
    · exact fun a => hc (hb.capped n hdark a)
    · exact fun a => hsh (hb.shed n hdark a)
    · exact fun a => hup (hb.upWait n a)
    · have count := seatedCount_change (u := s.units) (v := v) (n := n) (fun m hm => removeSlot_seats hseat hm)
      have h0 : seat (v.slot n) = 0 := by simp [seat, isSeated, hstate]
      have h1 : seat (s.units.slot n) = 1 := if_pos hseat
      have same : seatedCount (settleAfter c s.units v) = seatedCount v := seatedCount_eq hb.seated
      show seatedCount (settleAfter c s.units v) + 1 = _
      omega
    · intro k ch hk hp
      have drained : isActive (s.units.chans.get ch) = true →
          (settleAfter c s.units v).chans.get ch = releasedChan c (s.units.chans.get ch) := fun ha => by
        have e := removeSlot_chan (c := c) hseat hk ha hp
        rw [hb.draining ch (by rw [show v.chans.get ch = _ from e]; rfl)]; exact e
      refine ⟨fun ha => ?_, fun hsw => ?_, fun has => ?_⟩
      · exact ⟨(congrArg Chan.held (drained ha)).trans (lanePlace_held hk), congrArg Chan.state (drained ha)⟩
      · exact (congrArg Chan.answer (drained (by simp [isActive, hsw]))).trans (by simp [releasedChan, hsw])
      · have hne : (s.units.chans.get ch).state ≠ .switching := by rintro h; rw [h] at has; rcases has with a | a <;> cases a
        exact (congrArg Chan.drain (drained (by rcases has with a | a <;> simp [isActive, a]))).trans (if_neg hne)
  · show ((discardTakes n s).links.get _).takes = _
    rw [hlinks, if_pos rfl, ht]; rfl
  · show ((discardTakes n s).links.get _).takes = _
    rw [hlinks, if_pos rfl, ht]; rfl
  · exact (hlinks l).trans (if_neg hl)
  · have e : v.slot m = s.units.slot m := by
      by_cases hs : (s.units.slot n).state = .seating
      · exact (congrArg (Units.slot · m) (removeSlot_seating hs)).trans ((updSlot_slot _ _ _ _).trans (if_neg (Ne.symm hm)))
      · exact removeSlot_unpromotable (seated_of_ne hne hs) hm ⟨h1, h2⟩
    exact (settleAfter_dark (by rw [e]; exact hd)).trans e
  · refine hb.keeps.frame.sensors.trans ?_
    by_cases hs : (s.units.slot n).state = .seating
    · exact (congrArg Units.sensors (removeSlot_seating (c := c) hs)).trans rfl
    · exact removeSlot_sensors (seated_of_ne hne hs)
end

section
/-! PROOFS. The records that a blade writes: identity (R6, R32, R33), uplink claim (R132 to R134) and quiesce answer (R19, R20). -/

namespace Sys2Proof.Machine

section
variable {u v : Units} {c : Ctx} {n m : Fin 12} {bs : List Byte}

/-! ### Identity records -/

theorem validateBlade_ok {id : Ident} (h : validateBlade bs = .ok id) :
    ∃ maxP minP trip cls lanes, id.vals = .blade maxP minP trip cls lanes
      ∧ 50 ≤ maxP ∧ maxP ≤ 1000 ∧ 20 ≤ minP ∧ minP ≤ maxP ∧ 60 ≤ trip ∧ trip ≤ 120 ∧ cls ≤ 3 ∧ lanes ≤ 4 := by
  simp only [validateBlade] at h
  split at h
  · cases h
  split at h
  · cases h
  split at h
  · cases h
  split at h
  · cases h
  next hmax =>
  split at h
  · cases h
  next hmin =>
  split at h
  · cases h
  next htrip =>
  split at h
  · cases h
  next hcls =>
  split at h
  · cases h
  next hlanes =>
  simp only [inRange, Bool.not_eq_true, Bool.not_eq_false', decide_eq_true_eq, Bool.and_eq_true] at hmax hmin htrip
  cases h
  exact ⟨_, _, _, _, _, rfl, hmax.1, hmax.2, hmin.1, hmin.2, htrip.1, htrip.2, by omega, by omega⟩

/-- A validated entry is DUPLICATE only while its key is taken, so no re-check reaches it (R33, R34). -/
theorem validatedEntry_kept (r : Validation) : (validatedEntry u (bladePos n) r).state ≠ .duplicate
    ∨ keyTaken u (bladePos n) (validatedEntry u (bladePos n) r).ident = true := by
  cases r with
  | error why => exact .inl (fun h => by cases h)
  | ok id =>
    by_cases hk : keyTaken u (bladePos n) id = true
    · exact .inr hk
    · refine .inl ?_
      simp [validatedEntry, hk]

theorem applyValidation_entry (r : Validation) :
    (bladeEntry (applyValidation c (bladePos n) r u) n).state = (validatedEntry u (bladePos n) r).state
      ∧ (bladeEntry (applyValidation c (bladePos n) r u) n).reason = (validatedEntry u (bladePos n) r).reason
      ∧ (bladeEntry (applyValidation c (bladePos n) r u) n).ident = (validatedEntry u (bladePos n) r).ident
      ∧ (bladeEntry (applyValidation c (bladePos n) r u) n).inserts = (validatedEntry u (bladePos n) r).inserts :=
  changeEntry_entry (validatedEntry_kept r)

/-- Entries that are not DUPLICATE are not changed by another position's validation. -/
theorem applyValidation_inv (r : Validation) {i : Fin 26} (hi : i ≠ bladePos n) (hd : (u.inv.get i).state ≠ .duplicate) :
    (applyValidation c (bladePos n) r u).inv.get i = u.inv.get i := by
  have e := storeEntry_other (u := u) (bladePos n) (validatedEntry u (bladePos n) r) (Ne.symm hi)
  rw [applyValidation, (reported_changeEntry _).inv i (.inl (by rw [e]; exact hd)), e]

/-- The slot's state and outcome by the entry (R6, R17). -/
theorem identityResult_other (h : m ≠ n) : (identityResult n u).2.slot m = u.slot m := by
  rw [identityResult]
  split <;> exact (updSlot_slot _ _ _ _).trans (if_neg (Ne.symm h))

theorem identityResult_inv : (identityResult n u).2.inv = u.inv := by
  rw [identityResult]
  split <;> rfl

theorem identityResult_valid (h : (bladeEntry u n).state = .valid) :
    (identityResult n u).1 = .accepted ∧ ((identityResult n u).2.slot n).state = .identified := by
  rw [identityResult, h]; exact ⟨rfl, by rw [updSlot_slot_self]⟩

theorem identityResult_duplicate (h : (bladeEntry u n).state = .duplicate) :
    (identityResult n u).1 = .duplicate ∧ ((identityResult n u).2.slot n).state = .standby := by
  rw [identityResult, h]; exact ⟨rfl, by rw [updSlot_slot_self]⟩

theorem identityResult_invalid (h : (bladeEntry u n).state = .invalid) :
    (identityResult n u).1 = .invalid ∧ ((identityResult n u).2.slot n).state = .standby := by
  rw [identityResult, h]; exact ⟨rfl, by rw [updSlot_slot_self]⟩

/-! ### Quiesce answers -/

theorem cutToSettling_slotEvents : (cutToSettling c n u).slotEvents = u.slotEvents := by
  rw [cutToSettling]
  split
  · exact (wired_releases (c := c) (activeOf u n)).slotEvents
  · rfl

/-! ### Active channels -/

/-- The slot's active channels. -/
def activeSet (u : Units) (n : Fin 12) : Finset (Fin 32) :=
  Finset.univ.filter (fun ch => isActive (u.chans.get ch) = true ∧ heldBy n (u.chans.get ch) = true)

theorem mem_activeSet {ch : Fin 32} : ch ∈ activeSet u n ↔ isActive (u.chans.get ch) = true ∧ heldBy n (u.chans.get ch) = true := by
  simp [activeSet]

theorem activeCount_eq_card : activeCount u n = (activeSet u n).card := by
  rw [activeCount, ← List.toFinset_card_of_nodup ((List.nodup_finRange 32).filter _)]
  refine congrArg Finset.card (Finset.ext fun ch => ?_)
  rw [List.mem_toFinset, List.mem_filter, mem_activeSet, Bool.and_eq_true]
  exact and_iff_right (mem_indices ch)

theorem activeSet_congr (h : v.chans = u.chans) : activeSet v n = activeSet u n := by rw [activeSet, activeSet, h]

theorem heldBy_iff {x : Chan} : heldBy n x = true ↔ ∃ k, x.held = some (n, k) := by
  rw [heldBy]
  split
  · next m k h => simp [h]
  · next h => simp [h]

/-- The lane of a channel. -/
def laneOf (x : Chan) : Nat := match x.held with
  | some (_, k) => k.val
  | none => 0

theorem laneOf_held {x : Chan} {k : Fin 4} (h : x.held = some (n, k)) : laneOf x = k.val := by rw [laneOf, h]

/-- The active channels stand in the order of their lanes. -/
theorem activeOf_sorted : (activeOf u n).Pairwise (fun a b => laneOf (u.chans.get a) < laneOf (u.chans.get b)) := by
  rw [activeOf, List.pairwise_filterMap]
  refine (List.pairwise_lt_finRange 4).imp ?_
  intro k k' hlt a ha b hb
  have lane : ∀ {k : Fin 4} {ch : Fin 32},
      ((lanePlace u n k).bind fun ch => if isActive (u.chans.get ch) = true then some ch else none) = some ch →
      laneOf (u.chans.get ch) = k.val := by
    intro k ch h
    obtain ⟨j, hj, hif⟩ := Option.bind_eq_some_iff.mp h
    split at hif
    · cases hif; exact laneOf_held (lanePlace_held hj)
    · cases hif
  rw [lane ha, lane hb]
  exact hlt

theorem activeOf_nodup : (activeOf u n).Nodup := activeOf_sorted.imp (fun h e => by rw [e] at h; exact lt_irrefl _ h)

/-- No lane place holds two channels. -/
def OnePerPlace (u : Units) : Prop := ∀ ch ch' p, (u.chans.get ch).held = some p → (u.chans.get ch').held = some p → ch = ch'

theorem mem_activeOf_iff (hu : OnePerPlace u) {ch : Fin 32} : ch ∈ activeOf u n ↔ ch ∈ activeSet u n := by
  rw [mem_activeSet]
  constructor
  · intro h
    obtain ⟨k, -, h⟩ := List.mem_filterMap.mp h
    obtain ⟨j, hj, hif⟩ := Option.bind_eq_some_iff.mp h
    split at hif
    · next ha => cases hif; exact ⟨ha, heldBy_iff.mpr ⟨k, lanePlace_held hj⟩⟩
    · cases hif
  · rintro ⟨ha, hh⟩
    obtain ⟨k, hk⟩ := heldBy_iff.mp hh
    cases hp : lanePlace u n k with
    | none =>
      have := List.find?_eq_none.mp hp ch (mem_indices ch)
      simp [hk] at this
    | some j =>
      have e : ch = j := hu ch j _ hk (lanePlace_held hp)
      exact mem_activeOf (e ▸ hp) ha

theorem activeOf_length (hu : OnePerPlace u) : (activeOf u n).length = activeCount u n := by
  rw [activeCount_eq_card, ← List.toFinset_card_of_nodup activeOf_nodup]
  exact congrArg Finset.card (Finset.ext fun ch => by rw [List.mem_toFinset, mem_activeOf_iff hu])

/-- Released channels are no longer active; the others stay as they were. -/
theorem activeSet_releases (l : List (Fin 32)) :
    activeSet (l.foldl (fun u ch => releaseChan c ch u) u) n = activeSet u n \ l.toFinset := by
  ext ch
  rw [Finset.mem_sdiff, mem_activeSet, mem_activeSet, releases_chans, List.mem_toFinset]
  by_cases h : ch ∈ l ∧ isActive (u.chans.get ch) = true
  · simp [h, isActive_releasedChan]
  · rw [if_neg h]
    constructor
    · exact fun a => ⟨a, fun hl => h ⟨hl, a.1⟩⟩
    · exact fun a => a.1

theorem activeSet_takeChannel {ch : Fin 32} (k : Fin 4) : activeSet (takeChannel c ch n k u) n = insert ch (activeSet u n) := by
  ext j
  rw [Finset.mem_insert, mem_activeSet, mem_activeSet, takeChannel_chans]
  by_cases h : ch = j
  · simp [h, isActive, heldBy]
  · simp [h, Ne.symm h]

/-- Filling adds active channels, up to the claim (R134). -/
theorem fillSlot_active : activeSet u n ⊆ activeSet (fillSlot c n u) n
    ∧ (activeSet (fillSlot c n u) n).card ≤ max (activeSet u n).card (u.slot n).claimed := by
  have key : Wired u (fillSlot c n u) ∧ activeSet u n ⊆ activeSet (fillSlot c n u) n
      ∧ (activeSet (fillSlot c n u) n).card ≤ max (activeSet u n).card (u.slot n).claimed := by
    rw [fillSlot]
    refine List.foldlRecOn (motive := fun v : Units => Wired u v ∧ activeSet u n ⊆ activeSet v n
      ∧ (activeSet v n).card ≤ max (activeSet u n).card (u.slot n).claimed) _ _ ⟨.refl u, subset_rfl, le_max_left _ _⟩ ?_
    rintro v ⟨hw, hsub, hcard⟩ k -
    split
    · next hp =>
      split
      · refine ⟨hw.trans (wired_takeChannel _ k), ?_, ?_⟩
        · rw [activeSet_takeChannel]; exact hsub.trans (Finset.subset_insert _ _)
        · have hpend : 0 < pendingCount v n := by simp only [Bool.and_eq_true, decide_eq_true_eq] at hp; exact hp.1.1
          rw [pendingCount, activeCount_eq_card, hw.slot] at hpend
          rw [activeSet_takeChannel]
          exact (Finset.card_insert_le _ _).trans (le_max_of_le_right (by omega))
      · exact ⟨hw, hsub, hcard⟩
    · exact ⟨hw, hsub, hcard⟩
  exact key.2

/-! ### Claims (R133, R134) -/

theorem groupOf_none {k : Nat} : groupOf k = none ↔ 2 < k := by
  match k with
  | 0 => simp [groupOf]
  | 1 => simp [groupOf]
  | 2 => simp [groupOf]
  | k + 3 => simp [groupOf]

/-- The channels that a claim of `count` releases: those of the highest places (R134). -/
def surplus (u : Units) (n : Fin 12) (count : Nat) : List (Fin 32) :=
  ((activeOf u n).reverse).take ((activeOf u n).length - count)

/-- The units of a claim once its surplus is released. -/
def claimCut (c : Ctx) (n : Fin 12) (count : Nat) (g : Group) (u : Units) : Units :=
  (surplus u n count).foldl (fun u ch => releaseChan c ch u) (u.updSlot n (fun x => { x with claimed := count, group := g }))

variable {count : Nat} {g : Group}

theorem applyClaim_eq : applyClaim c n count g u = syncWait n (fillSlot c n (claimCut c n count g u)) := rfl

theorem surplus_sublist : (surplus u n count).Sublist (activeOf u n).reverse := List.take_sublist _ _

theorem surplus_length : (surplus u n count).length = (activeOf u n).length - count := by
  rw [surplus, List.length_take, List.length_reverse]
  omega

theorem surplus_nodup : (surplus u n count).Nodup := surplus_sublist.nodup (List.nodup_reverse.mpr activeOf_nodup)

/-- The surplus is taken from the highest lanes: with a channel it holds every active one of a higher lane. -/
theorem surplus_upper {ch ch' : Fin 32} (h : ch ∈ surplus u n count) (h' : ch' ∈ activeOf u n)
    (hlt : laneOf (u.chans.get ch) < laneOf (u.chans.get ch')) : ch' ∈ surplus u n count := by
  have split : (activeOf u n).reverse = surplus u n count ++ (activeOf u n).reverse.drop ((activeOf u n).length - count) :=
    (List.take_append_drop _ _).symm
  have sorted : (activeOf u n).reverse.Pairwise (fun a b => laneOf (u.chans.get b) < laneOf (u.chans.get a)) :=
    List.pairwise_reverse.mpr activeOf_sorted
  rw [split, List.pairwise_append] at sorted
  rw [← List.mem_reverse, split, List.mem_append] at h'
  refine h'.resolve_right (fun hd => ?_)
  exact absurd (sorted.2.2 ch h ch' hd) (by omega)

theorem claimCut_slot : (claimCut c n count g u).slot m = if n = m then { u.slot m with claimed := count, group := g } else u.slot m := by
  rw [claimCut, (wired_releases _).slot, updSlot_slot]

theorem claimCut_active : activeSet (claimCut c n count g u) n = activeSet u n \ (surplus u n count).toFinset := by
  rw [claimCut, activeSet_releases, activeSet_congr (updSlot_chans ..)]

/-- A released channel drains. -/
theorem claimCut_surplus {ch : Fin 32} (h : ch ∈ surplus u n count) (ha : isActive (u.chans.get ch) = true) :
    ((claimCut c n count g u).chans.get ch).state = .draining := by
  rw [claimCut, releases_chans, if_pos ⟨h, ha⟩]
  rfl

theorem applyClaim_slot (m : Fin 12) :
    (applyClaim c n count g u).slot m = if n = m then { u.slot m with claimed := count, group := g } else u.slot m := by
  rw [applyClaim_eq, wired_syncWait.slot, wired_fillSlot.slot, claimCut_slot]

theorem applyClaim_chans : (applyClaim c n count g u).chans = (fillSlot c n (claimCut c n count g u)).chans := syncWait_chans

/-- The slot waits exactly while channels are pending (R136). -/
theorem syncWait_iff : n ∈ (syncWait n u).upWait ↔ 0 < pendingCount (syncWait n u) n := by
  have hp : pendingCount (syncWait n u) n = pendingCount u n := by
    rw [pendingCount, pendingCount, wired_syncWait.slot, activeCount, activeCount, syncWait_chans]
  rw [hp, syncWait]
  split
  · next h => rw [h]; simp
  · next h =>
    split
    · next hc => exact ⟨fun _ => Nat.pos_of_ne_zero h, fun _ => by simpa using hc⟩
    · exact ⟨fun _ => Nat.pos_of_ne_zero h, fun _ => by simp⟩

theorem claimCut_count (hu : OnePerPlace u) : (activeSet (claimCut c n count g u) n).card = min (activeCount u n) count := by
  have hsub : (surplus u n count).toFinset ⊆ activeSet u n := fun ch h => by
    rw [List.mem_toFinset] at h
    exact (mem_activeOf_iff hu).mp (List.mem_reverse.mp (surplus_sublist.subset h))
  rw [claimCut_active, Finset.card_sdiff_of_subset hsub, List.toFinset_card_of_nodup surplus_nodup, surplus_length, activeOf_length hu,
    ← activeCount_eq_card]
  omega

/-- The number of active channels after a claim (R134). -/
theorem applyClaim_count (hu : OnePerPlace u) :
    min (activeCount u n) count ≤ activeCount (applyClaim c n count g u) n ∧ activeCount (applyClaim c n count g u) n ≤ count := by
  obtain ⟨hsub, hcard⟩ := fillSlot_active (c := c) (n := n) (u := claimCut c n count g u)
  have hclaim : ((claimCut c n count g u).slot n).claimed = count := by rw [claimCut_slot, if_pos rfl]
  rw [claimCut_count hu, hclaim] at hcard
  rw [activeCount_eq_card (u := applyClaim c n count g u), activeSet_congr applyClaim_chans]
  refine ⟨(claimCut_count hu).symm.le.trans (Finset.card_le_card hsub), hcard.trans (by omega)⟩

/-- Channels that stay active do so from the lowest place up (R134). -/
theorem applyClaim_order (hu : OnePerPlace u) {ch ch' : Fin 32} {k k' : Fin 4} (h : (u.chans.get ch).held = some (n, k))
    (h' : (u.chans.get ch').held = some (n, k')) (hlt : k < k') (ha : isActive (u.chans.get ch) = true)
    (ha' : isActive (u.chans.get ch') = true) (hr : isActive ((applyClaim c n count g u).chans.get ch') = true) :
    isActive ((applyClaim c n count g u).chans.get ch) = true := by
  rw [applyClaim_chans] at hr ⊢
  have mem' : ch' ∈ activeOf u n := (mem_activeOf_iff hu).mpr (mem_activeSet.mpr ⟨ha', heldBy_iff.mpr ⟨k', h'⟩⟩)
  have stays : ch' ∉ surplus u n count := fun hs => by
    have hd := claimCut_surplus (c := c) (g := g) hs ha'
    rw [budgeted_fillSlot.draining ch' hd, isActive, hd] at hr
    cases hr
  have lower : ch ∉ surplus u n count := fun hs => stays (surplus_upper hs mem' (by rw [laneOf_held h, laneOf_held h']; exact hlt))
  refine (mem_activeSet.mp (fillSlot_active.1 ?_)).1
  rw [claimCut_active, Finset.mem_sdiff, List.mem_toFinset, mem_activeSet]
  exact ⟨⟨ha, heldBy_iff.mpr ⟨k, h⟩⟩, lower⟩

/-- A claim that meets every test (R133). -/
theorem takeClaim_on (hg : groupOf (byteAt bs 1) = some g) (hc : byteAt bs 0 ≤ 4) (hs : (u.slot n).state = .on) :
    takeClaim c n bs u =
      if (u.slot n).unvalidated = true ∧ activeCount u n < min (byteAt bs 0) (laneLimit u n) then (.refusedIdentity, u)
      else (if byteAt bs 0 ≤ laneLimit u n then .accepted else .clamped, applyClaim c n (min (byteAt bs 0) (laneLimit u n)) g u) := by
  simp only [takeClaim, hg, if_neg (Nat.not_lt.mpr hc), hs, ne_eq, not_true_eq_false, if_false, Bool.and_eq_true, decide_eq_true_eq,
    min_eq_left_iff]

end

end Sys2Proof.Machine
end

section
open Sys2Proof Sys2Proof.Machine

/-- Settles O56, record by record: the entry that a validation gives is not reached by a re-check (`validatedEntry_kept`); the surplus of a
claim has the highest lanes (`surplus_upper`) and filling stops at the claim (`fillSlot_active`). -/
theorem bladeRecordsFollowTheirRules : Obligations.BladeRecordsFollowTheirRules := by
  refine ⟨fun bs id h => validateBlade_ok h, fun c n bs u => ⟨fun h1 h2 => if_neg (by simp [h1, h2]), fun hs => ?_⟩,
    fun c n bs u => ⟨fun h => ?_, fun hc hg hs => ?_, fun hc hg hs => ?_⟩, fun c n bs u => ?_⟩
  · let v := applyValidation c (bladePos n) (validateBlade bs) u
    have e : takeIdentity c n bs u = identityResult n v := if_pos hs
    obtain ⟨hstate, hreason, hident, -⟩ := applyValidation_entry (c := c) (n := n) (u := u) (validateBlade bs)
    have hentry : bladeEntry (identityResult n v).2 n = bladeEntry v n := by rw [bladeEntry, identityResult_inv]; rfl
    simp only [e]
    refine ⟨?_, fun m hm hd h1 h2 => ?_, fun i hi hd => ?_⟩
    · rw [hentry]
      cases hv : validateBlade bs with
      | error why =>
        have hinv : (bladeEntry v n).state = .invalid := by rw [hstate, hv]; rfl
        obtain ⟨h1, h2⟩ := identityResult_invalid hinv
        exact ⟨h1, h2, hinv, by rw [hreason, hv]; rfl⟩
      | ok id =>
        refine ⟨by rw [hident, hv]; rfl, by rw [hreason, hv]; rfl, ?_⟩
        have hst : (bladeEntry v n).state = if keyTaken u (bladePos n) id then .duplicate else .valid := by rw [hstate, hv]; rfl
        split
        · next hk =>
          rw [if_pos hk] at hst
          obtain ⟨h1, h2⟩ := identityResult_duplicate hst
          exact ⟨h1, h2, hst⟩
        · next hk =>
          rw [if_neg hk] at hst
          obtain ⟨h1, h2⟩ := identityResult_valid hst
          exact ⟨h1, h2, hst⟩
    · exact (identityResult_other hm).trans (changeEntry_unpromotable ⟨h1, h2⟩)
    · rw [identityResult_inv]; exact applyValidation_inv _ hi hd
  · rcases h with h | h
    · simp only [takeClaim]
      split
      · rfl
      · exact if_pos h
    · simp only [takeClaim, groupOf_none.mpr h]
  · obtain ⟨g, hg'⟩ := Option.ne_none_iff_exists'.mp (fun e => by have := groupOf_none.mp e; omega : groupOf (byteAt bs 1) ≠ none)
    simp only [takeClaim, hg', if_neg (Nat.not_lt.mpr hc), if_pos hs]
  · obtain ⟨g, hg'⟩ := Option.ne_none_iff_exists'.mp (fun e => by have := groupOf_none.mp e; omega : groupOf (byteAt bs 1) ≠ none)
    have e := takeClaim_on (c := c) hg' hc hs
    split
    · next hr => rw [e, if_pos hr]
    · next hr =>
      rw [if_neg hr] at e
      simp only [e]
      have hn := applyClaim_slot (c := c) (u := u) (n := n) (count := min (byteAt bs 0) (laneLimit u n)) (g := g)
      refine ⟨trivial, by rw [hn, if_pos rfl], by rw [hn, if_pos rfl]; exact hg', fun m hm => by rw [hn, if_neg (Ne.symm hm)], syncWait_iff,
        fun hu => ?_⟩
      obtain ⟨hlow, hhigh⟩ := applyClaim_count (c := c) (n := n) (count := min (byteAt bs 0) (laneLimit u n)) (g := g) hu
      exact ⟨hhigh, fun h => by omega, fun h => by omega, fun ch ch' k k' => applyClaim_order hu⟩
  · dsimp only
    split
    · next hk => exact if_pos (by rcases hk with hk | hk <;> simp [inRange] <;> omega)
    · next hk =>
      have hr : (!inRange 1 2 (byteAt bs 1)) = false := by simp [inRange]; omega
      split
      · next hx => simp only [takeAnswer, hr, Bool.false_eq_true, if_false]; exact if_pos hx
      · next hx =>
        have hq : (u.slot n).state = .quiescing := by by_contra e; exact hx (.inl e)
        have hpow : powered (u.slot n) = true := powered_iff.mpr (.inr (.inr hq))
        split
        · next h1 =>
          have e : takeAnswer c n bs u = (.accepted, cutToSettling c n u) := by
            simp only [takeAnswer, hr, Bool.false_eq_true, if_false, if_neg hx, if_pos h1]
          have hs := cutToSettling_slot c n u hpow
          rw [e]
          simp only [hs]
          exact ⟨trivial, trivial, rfl, rfl, rfl, by rw [slotFlag, cutToSettling_slotEvents, slotFlag],
            fun m hm => only_cutToSettling.slots m hm⟩
        · next h1 =>
          have hd : deferAllowed c n (u.slot n) = true ↔
              ((u.slot n).qReason = some .managerOff ∨ (u.slot n).qReason = some .eject) ∧ (u.slot n).defers < maxDefers c n := by
            simp [deferAllowed]
          have e : takeAnswer c n bs u = if deferAllowed c n (u.slot n) then (.accepted, u.updSlot n (extendQuiesce c n))
              else (.refusedDefer, u) := by
            simp only [takeAnswer, hr, Bool.false_eq_true, if_false, if_neg hx, if_neg h1]
          rw [e]
          split
          · next h2 =>
            rw [if_pos (hd.mpr h2)]
            refine ⟨rfl, fun d ht => updSlot_congr ?_⟩
            simp [extendQuiesce, ht, unitsLeft]
          · next h2 => exact if_neg (fun a => h2 (hd.mp a))
end

section
/-! PROOFS. Building at start-up (R42 to R44, R129): the records are derived again from inputs and entries, with all that a port's change of
state brings. `Derived` says what of slots, entries and event words that leaves alone. -/

namespace Sys2Proof.Machine

/-- Slots stay but for their claims, entries stay, and event bits stay set. -/
structure Derived (u v : Units) : Prop where
  slots : ∀ m, ∃ k, v.slot m = { u.slot m with claimed := k }
  inv : v.inv = u.inv
  slotBits : ∀ m b, slotFlag u m b = true → slotFlag v m b = true
  chassisBits : ∀ b, chassisFlag u b = true → chassisFlag v b = true

section
variable {u v w : Units} {c : Ctx} {n : Fin 12}

theorem Derived.refl (u : Units) : Derived u u := ⟨fun m => ⟨(u.slot m).claimed, rfl⟩, rfl, fun _ _ h => h, fun _ h => h⟩

theorem Derived.trans (a : Derived u v) (b : Derived v w) : Derived u w where
  slots m := by
    obtain ⟨k, hk⟩ := a.slots m
    obtain ⟨j, hj⟩ := b.slots m
    exact ⟨j, by rw [hj, hk]⟩
  inv := b.inv.trans a.inv
  slotBits m x h := b.slotBits m x (a.slotBits m x h)
  chassisBits x h := b.chassisBits x (a.chassisBits x h)

theorem Derived.foldl {α : Type} {f : Units → α → Units} (h : ∀ u a, Derived u (f u a)) (l : List α) (u : Units) : Derived u (l.foldl f u) :=
  List.foldlRecOn (motive := fun v : Units => Derived u v) l f (.refl u) (fun v hv a _ => hv.trans (h v a))

theorem Derived.ite {p : Prop} [Decidable p] (a : Derived u v) (b : Derived u w) : Derived u (if p then v else w) := by split <;> assumption

theorem Wired.derived (h : Wired u v) : Derived u v :=
  ⟨fun m => ⟨(u.slot m).claimed, h.slot m⟩, h.inv, fun m b hb => by rw [slotFlag, h.slotEvents]; exact hb,
    fun b hb => by rw [chassisFlag, h.chassisEvent]; exact hb⟩

/-- An operation on none of the fields of `Derived`. -/
theorem Derived.of_eq (hs : v.slots = u.slots) (hi : v.inv = u.inv) (he : v.slotEvents = u.slotEvents) (hc : v.chassisEvent = u.chassisEvent) :
    Derived u v :=
  ⟨fun m => ⟨(u.slot m).claimed, by rw [Units.slot, hs]; rfl⟩, hi, fun m b h => by rw [slotFlag, he]; exact h,
    fun b h => by rw [chassisFlag, hc]; exact h⟩

theorem derived_setSlotBit (b : SlotBit) : Derived u (setSlotBit n b u) :=
  { Derived.refl u with slotBits := fun m x h => setSlotBit_keeps m n x b u h }

theorem derived_setChassisBit (b : ChassisBit) : Derived u (setChassisBit b u) :=
  { Derived.refl u with chassisBits := fun x h => setChassisBit_keeps x b u h }

theorem derived_updSlot {f : Slot → Slot} (hf : ∀ x, ∃ k, f x = { x with claimed := k }) : Derived u (u.updSlot n f) :=
  { Derived.refl u with
    slots := fun m => by
      rw [updSlot_slot]
      split
      · exact hf _
      · exact ⟨(u.slot m).claimed, rfl⟩ }

/-! ### Ports -/

theorem wired_replaceChan {ch : Fin 32} (h : replaceChan c ch u = some v) : Wired u v := by
  rw [replaceChan] at h
  split at h
  · cases h; exact (wired_takeChannel _ _).trans (wired_updChan _ _)
  · cases h

theorem derived_failover (ch : Fin 32) : Derived u (failover c ch u) := by
  rw [failover]
  split
  · next h => exact (wired_replaceChan h).derived
  · dsimp only
    split
    · exact (wired_updChan ch _).derived.trans (derived_setSlotBit _)
    · exact (wired_updChan ch _).derived

theorem derived_holderLost : Derived u (holderLost n u) := .ite (derived_updSlot fun x => ⟨x.claimed - 1, rfl⟩) (.refl u)

theorem derived_leavePlace (ch : Fin 32) : Derived u (leavePlace c ch u) := by
  have drop : Derived u (match (u.chans.get ch).held with
      | some (n, _) =>
        let v := holderLost n (setSlotBit n .uplinkStranded (updChan ch (vacate .unavailable) u))
        if (v.slot n).state = .on then syncWait n v else v
      | none => u) := by
    split
    · next n _ _ =>
      have h : Derived u (holderLost n (setSlotBit n .uplinkStranded (updChan ch (vacate .unavailable) u))) :=
        ((wired_updChan ch _).derived.trans (derived_setSlotBit _)).trans derived_holderLost
      exact .ite (h.trans wired_syncWait.derived) h
    · exact .refl u
  rw [leavePlace]
  dsimp only
  split
  iterate 2
    split
    · next h => exact (wired_replaceChan h).derived
    · exact drop
  · exact drop
  · exact (wired_updChan ch _).derived
  · exact .refl u

theorem wired_commands (l : List XCmd) (f : Option XFlight) : Wired u { u with xq := l, xFlight := f } := rfl

theorem derived_portLeavesUse (p : Fin 4) : Derived u (portLeavesUse c p u) := by
  rw [portLeavesUse]
  exact (wired_commands _ _).derived.trans ((Derived.foldl (fun _ ch => derived_leavePlace ch) _ _).trans
    (Wired.foldl (fun _ ch => wired_putChan ch _) _ _).derived)

theorem derived_portDown (p : Fin 4) : Derived u (portDown c p u) := by
  rw [portDown]
  exact (Derived.foldl (fun _ ch => .ite (derived_failover ch) (.refl _)) _ _).trans
    ((Wired.foldl (fun _ ch => .ite (wired_updChan ch _) (.refl _)) _ _).trans wired_disableIdle).derived

theorem derived_derivePort (p : Fin 4) : Derived u (derivePort c p u) := by
  rw [derivePort]
  generalize portStateOf c u p = new
  refine .ite (.refl u) ?_
  let v := if (u.ports.get p).state = .up ∧ new = .down then setChassisBit .uplinkDown (u.updPort p (fun x => { x with state := new }))
    else u.updPort p (fun x => { x with state := new })
  have h1 : Derived u v := .ite ((wired_updPort p _).derived.trans (derived_setChassisBit _)) (wired_updPort p _).derived
  refine .ite h1 (h1.trans ?_)
  show Derived v _
  split
  · exact derived_portDown p
  · exact (linked_portUp p).wired.derived
  · exact ((wired_portComesIntoUse p).trans wired_serveWait).derived
  · exact (wired_portComesIntoUse p).derived
  · have h2 : Derived v (disableIdle (portLeavesUse c p v)) := (derived_portLeavesUse p).trans wired_disableIdle.derived
    exact .ite (h2.trans wired_serveWait.derived) h2
  · exact .refl v

/-! ### Supplies, fans and entries -/

theorem derived_deriveSupply (k : Fin 4) : Derived u (deriveSupply c k u) := by
  rw [deriveSupply]
  have h1 (s : Vector Supply 4) : Derived u { u with supplies := s } := .of_eq rfl rfl rfl rfl
  exact .ite ((h1 _).trans (derived_setChassisBit _)) (.ite ((h1 _).trans (derived_setChassisBit _)) (h1 _))

theorem derived_deriveFan (k : Fin 6) : Derived u (deriveFan c k u) := .of_eq rfl rfl rfl rfl

theorem derived_reportEntry (i : Fin 26) : Derived u (reportEntry c i u) := by
  rw [reportEntry]
  split
  · exact .refl u
  · split
    · exact derived_deriveSupply _
    · split
      · exact derived_deriveFan _
      · exact derived_derivePort _

theorem derived_deriveAll : Derived u (deriveAll c u) := by
  rw [deriveAll]
  exact ((Derived.foldl (fun _ k => derived_deriveSupply k) _ _).trans (Derived.foldl (fun _ k => derived_deriveFan k) _ _)).trans
    (Derived.foldl (fun _ p => derived_derivePort p) _ _)

/-! ### The inventory -/

/-- `Derived`, but for the entries. -/
structure Built (u v : Units) : Prop where
  slots : ∀ m, ∃ k, v.slot m = { u.slot m with claimed := k }
  slotBits : ∀ m b, slotFlag u m b = true → slotFlag v m b = true
  chassisBits : ∀ b, chassisFlag u b = true → chassisFlag v b = true

theorem Derived.built (h : Derived u v) : Built u v := ⟨h.slots, h.slotBits, h.chassisBits⟩

theorem Built.trans (a : Built u v) (b : Built v w) : Built u w where
  slots m := by
    obtain ⟨k, hk⟩ := a.slots m
    obtain ⟨j, hj⟩ := b.slots m
    exact ⟨j, by rw [hj, hk]⟩
  slotBits m x h := b.slotBits m x (a.slotBits m x h)
  chassisBits x h := b.chassisBits x (a.chassisBits x h)

theorem Built.refl (u : Units) : Built u u := (Derived.refl u).built

theorem Built.foldl {α : Type} {f : Units → α → Units} (h : ∀ u a, Built u (f u a)) (l : List α) (u : Units) : Built u (l.foldl f u) :=
  List.foldlRecOn (motive := fun v : Units => Built u v) l f (.refl u) (fun v hv a _ => hv.trans (h v a))

theorem Built.ite {p : Prop} [Decidable p] (a : Built u v) (b : Built u w) : Built u (if p then v else w) := by split <;> assumption

theorem derived_startBus : Derived u (startBus u) := by
  rw [startBus]
  split <;> exact .of_eq rfl rfl rfl rfl

theorem derived_queueBus (item : BusItem) : Derived u (queueBus item u) := by
  have h1 (l : List BusItem) : Derived u { u with busQueue := l } := .of_eq rfl rfl rfl rfl
  rw [queueBus]
  exact Derived.trans (v := if u.busQueue.contains item = true then u else { u with busQueue := u.busQueue ++ [item] })
    (.ite (.refl u) (h1 _)) derived_startBus

theorem built_storeEntry (i : Fin 26) (e : Entry) : Built u (storeEntry i e u) where
  slots m := ⟨(u.slot m).claimed, storeEntry_slot i e⟩
  slotBits m b h := by rw [slotFlag, storeEntry_slotEvents]; exact h
  chassisBits b h := storeEntry_chassisBits i e h

theorem built_putEntry (i : Fin 26) (e : Entry) : Built u (putEntry c i e u) := by
  rw [putEntry]
  exact .ite (.refl u) ((built_storeEntry i e).trans (derived_reportEntry i).built)

theorem built_buildCold (b : Fin 14) : Built u (buildCold c b u) := by
  rw [buildCold]
  exact .ite ((built_putEntry _ _).trans (derived_queueBus _).built) (.refl u)

theorem built_buildWarm (b : Fin 14) (st : EntryState) (id : Ident) (ok : Bool) : Built u (buildWarm c b st id ok u) := by
  rw [buildWarm]
  exact .ite ((built_putEntry _ _).trans (derived_queueBus _).built) (.refl u)

theorem built_buildInventory (image : Fin 26 → List Byte) (warm : Bool) : Built u (buildInventory image warm c u) := by
  rw [buildInventory]
  exact Built.foldl (fun u b => .ite (built_buildWarm b _ _ _) (built_buildCold b)) _ u

/-- The cold build of a bay changes its own entry alone. -/
theorem buildCold_inv (b : Fin 14) (i : Fin 26) : (buildCold c b u).inv.get i =
    if bayLevel c b = true ∧ bayPos b = i ∧ sameEntry (u.inv.get i) (unreadEntry (u.inv.get i)) = false then
      { unreadEntry (u.inv.get i) with lastGen := u.invGen + 1 } else u.inv.get i := by
  rw [buildCold]
  split
  · next hb =>
    rw [(derived_queueBus _).inv, putEntry]
    split
    · next hs => rw [if_neg (by rintro ⟨-, rfl, h⟩; rw [hs] at h; cases h)]
    · next hs =>
      rw [(derived_reportEntry _).inv, storeEntry_inv]
      by_cases hi : bayPos b = i
      · subst hi; simp [hb, hs]
      · simp [hi]
  · next hb => rw [if_neg (fun a => hb a.1)]

theorem bayPos_injective {a b : Fin 14} (h : bayPos a = bayPos b) : a = b := by
  simpa [bayPos, Fin.ext_iff] using h

/-- At a cold start a present module is UNREAD with its insertion counted, and the others keep their entries (R42). -/
theorem buildInventory_cold {image : Fin 26 → List Byte} (b : Fin 14) (h : (u.inv.get (bayPos b)).state = .absent) :
    let e := (buildInventory image false c u).inv.get (bayPos b)
    if bayLevel c b = true then e.state = .unread ∧ e.inserts = oneMore (u.inv.get (bayPos b)).inserts else e.state = .absent := by
  have others : ∀ (v : Units) a, a ≠ b → (buildCold c a v).inv.get (bayPos b) = v.inv.get (bayPos b) := fun v a ha => by
    rw [buildCold_inv, if_neg (fun h => ha (bayPos_injective h.2.1))]
  refine foldl_turn (P := fun v : Units => v.inv.get (bayPos b) = u.inv.get (bayPos b)) (Q := fun v : Units =>
    if bayLevel c b = true then (v.inv.get (bayPos b)).state = .unread ∧ (v.inv.get (bayPos b)).inserts = oneMore (u.inv.get (bayPos b)).inserts
    else (v.inv.get (bayPos b)).state = .absent)
    (fun v a ha hv => (others v a ha).trans hv) (fun v hv => ?_) (fun v a ha hv => ?_) (List.nodup_finRange 14) (mem_indices b) rfl
  · show if bayLevel c b = true then ((buildCold c b v).inv.get (bayPos b)).state = _ ∧ ((buildCold c b v).inv.get (bayPos b)).inserts = _
      else ((buildCold c b v).inv.get (bayPos b)).state = _
    rw [buildCold_inv, hv]
    split
    · next hb =>
      rw [if_pos ⟨hb, rfl, by simp [sameEntry, unreadEntry, h]⟩]
      exact ⟨rfl, rfl⟩
    · next hb => rw [if_neg (fun a => hb a.1)]; exact h
  · show if bayLevel c b = true then ((buildCold c a v).inv.get (bayPos b)).state = _ ∧ ((buildCold c a v).inv.get (bayPos b)).inserts = _
      else ((buildCold c a v).inv.get (bayPos b)).state = _
    rw [others v a ha]; exact hv

end

end Sys2Proof.Machine
end

section
/-! PROOFS. The end of start-up (R177): records taken, slots placed or settled one by one, STARTUP left. -/

namespace Sys2Proof.Machine

section
variable {u v w : Units} {c : Ctx} {n : Fin 12}

/-! ### Leaving STARTUP -/

theorem getFilter_samplePins (q : Pins) (p : Pin) : getFilter (samplePins q) p = sampleFilter (getFilter q p) := by
  cases p <;> exact updAll_get _ _ _

theorem startUnitTimers_slot (m : Fin 12) : (startUnitTimers c u).slot m = startSlotTimers c (u.slot m) := updAll_get _ _ _

/-- The context once STARTUP is left. -/
def leftCtx (c : Ctx) : Ctx :=
  let c := { c with sup := { c.sup with
    phase := .done, images := [], mode := if c.sup.memOk then .normal else .failsafe, hbTimer := timerOf c (hbTimeout c) } }
  { c with cfg := { c.cfg with auditTimer := if c.sup.memOk then timerOf c (auditPeriod c) else none } }

/-- With memory, STARTUP is left for NORMAL: timers start, the account is settled, and every port sends its open packet (R161). -/
theorem leaveStartup_normal {s : State} (h : s.ctx.sup.memOk = true) : leaveStartup s =
    openPorts { s with ctx := leftCtx s.ctx, units := settle (leftCtx s.ctx) (startUnitTimers (leftCtx s.ctx) s.units) } := by
  rw [leaveStartup]
  exact congrArg openPorts (if_pos h)

theorem leftCtx_mode (h : c.sup.memOk = true) : (leftCtx c).sup.mode = .normal := if_pos h

@[simp] theorem finish_slot (pre post : State) : (finish pre post).units.slot n = post.units.slot n := rfl
@[simp] theorem openPorts_units (s : State) : (openPorts s).units = s.units := rfl

/-- Each link is open, and its packet is the open packet of the state at the end of the step. -/
theorem openPorts_link (s pre : State) (l : Fin 13) : ((finish pre (openPorts s)).links.get l).isOpen = true
    ∧ (finish pre (openPorts s)).tx.get l
      = respPacket 0 .opened (statusByte (finish pre (openPorts s)).ctx (finish pre (openPorts s)).units l) [] := by
  have hl : (openPorts s).links = updAll s.links (fun x => { x with isOpen := true }) := rfl
  have ht : (openPorts s).tx = Vector.ofFn (openPacket s.ctx s.units) := rfl
  rw [finish_links, finish_tx, hl, ht, updAll_get, ofFn_get]
  exact ⟨rfl, rfl⟩

/-! ### Records taken -/

theorem setRestart_derived : Derived u (setRestart u) := by
  rw [setRestart]
  exact (derived_setChassisBit _).trans (Derived.foldl (fun _ _ => derived_setSlotBit _) _ _)

theorem setRestart_chassis : chassisFlag (setRestart u) .restart = true := by
  have h : Derived (setChassisBit .restart u) (setRestart u) := Derived.foldl (fun _ _ => derived_setSlotBit _) _ _
  exact h.chassisBits _ (setChassisBit_flag _ _)

theorem setRestart_slot (n : Fin 12) : slotFlag (setRestart u) n .restart = true := by
  rw [setRestart]
  refine foldl_turn (f := fun (u : Units) n => setSlotBit n .restart u) (P := fun _ => True) (Q := fun v => slotFlag v n .restart = true)
    (fun _ _ _ _ => trivial) (fun v _ => setSlotBit_flag n _ v) (fun v m _ h => setSlotBit_keeps n m _ _ v h) ?_ (mem_indices n) trivial
  exact List.nodup_finRange 12

theorem touchOwned_derived : Derived u (touchOwned u) := .of_eq rfl rfl rfl rfl

/-- The units at the beginning of step 4: the records taken, and RESTART set. -/
def takenUnits (s : State) : Units := touchOwned (setRestart (takeStored s s.ctx s.units))

theorem takenUnits_derived (s : State) : Derived (takeStored s s.ctx s.units) (takenUnits s) := setRestart_derived.trans touchOwned_derived

theorem takenUnits_restart (s : State) : chassisFlag (takenUnits s) .restart = true ∧ ∀ n, slotFlag (takenUnits s) n .restart = true :=
  ⟨touchOwned_derived.chassisBits _ setRestart_chassis, fun n => touchOwned_derived.slotBits n _ (setRestart_slot n)⟩

/-- The context from step 4 on: what supervision takes from memory, and the inputs sampled. -/
def sampledCtx (s : State) : Ctx := { takeStoredCtx s s.ctx with pins := samplePins (takeStoredCtx s s.ctx).pins }

/-- The units at the end of step 5: inventory and records built. -/
def builtUnits (s : State) (warm : Bool) : Units :=
  deriveAll (sampledCtx s) (buildInventory (fun i => stored s (.inventory i)) warm (sampledCtx s) (takenUnits s))

theorem builtUnits_built (s : State) (warm : Bool) : Built (takenUnits s) (builtUnits s warm) :=
  (built_buildInventory _ _).trans derived_deriveAll.built

/-! ### Cold start -/

@[simp] theorem sendClear_slot (m : Fin 12) : (sendClear c u).slot m = u.slot m := rfl

@[simp] theorem sendClear_slotFlag (m : Fin 12) (b : SlotBit) : slotFlag (sendClear c u) m b = slotFlag u m b := rfl
@[simp] theorem sendClear_chassisFlag (b : ChassisBit) : chassisFlag (sendClear c u) b = chassisFlag u b := rfl
@[simp] theorem sendClear_inv : (sendClear c u).inv = u.inv := rfl
theorem sendClear_flight :
    (sendClear c u).xFlight = some { cmd := .clear, deadline := c.now + Config.crossbarTimeout, ignored := false } := rfl

/-- The slot that `placeSlots` leaves (R2, R3). -/
def placedSlot (c : Ctx) (n : Fin 12) (x : Slot) : Slot :=
  if (rowEnable c n && presLLevel c n) = true then
    { x with enabled := rowEnable c n, state := .seating, seatTimer := if leverClosed c n then startTimer c Config.seating else none }
  else { x with enabled := rowEnable c n }

theorem placeSlots_slot (n : Fin 12) : (placeSlots c u).slot n = placedSlot c n (u.slot n) := by
  have step : ∀ (v : Units) (m : Fin 12), let y := v.updSlot m (fun x => { x with enabled := rowEnable c m })
      (if (rowEnable c m && presLLevel c m) = true then enterSeating c m y else y).slot n =
        if m = n then placedSlot c n (v.slot n) else v.slot n := by
    intro v m
    by_cases h : m = n
    · subst h
      dsimp only
      rw [if_pos rfl, placedSlot]
      split
      · rw [enterSeating, updSlot_slot_self, updSlot_slot_self]
      · rw [updSlot_slot_self]
    · dsimp only
      rw [if_neg h]
      split
      · rw [enterSeating, updSlot_slot, if_neg h, updSlot_slot, if_neg h]
      · rw [updSlot_slot, if_neg h]
  refine foldl_turn (P := fun v : Units => v.slot n = u.slot n) (Q := fun v : Units => v.slot n = placedSlot c n (u.slot n))
    (fun v m hm hv => ?_) (fun v hv => ?_) (fun v m hm hv => ?_) (List.nodup_finRange 12) (mem_indices n) rfl
  · exact ((step v m).trans (if_neg hm)).trans hv
  · rw [← hv]; exact (step v n).trans (if_pos rfl)
  · exact ((step v m).trans (if_neg hm)).trans hv

theorem placeSlots_rest : placeSlots c u = { u with slots := (placeSlots c u).slots } := by
  refine List.foldlRecOn (motive := fun v : Units => v = { u with slots := v.slots }) _ _ rfl ?_
  intro v hv m _
  split <;> · rw [hv]; rfl

/-- The units once STARTUP is left: the account is settled in `c`, timers start, and it is settled again in `c'`. -/
def leftUnits (c c' : Ctx) (u : Units) : Units := settle c' (startUnitTimers c' (settle c u))

theorem leftUnits_frame {c' : Ctx} : (leftUnits c c' u).inv = u.inv ∧ (∀ m b, slotFlag u m b = true → slotFlag (leftUnits c c' u) m b = true)
    ∧ (∀ b, chassisFlag u b = true → chassisFlag (leftUnits c c' u) b = true)
    ∧ ∀ f, u.xFlight = some f → (leftUnits c c' u).xFlight = some f := by
  have h1 : Budgeted u (settle c u) := budgeted_settle
  have h2 : Budgeted (startUnitTimers c' (settle c u)) (leftUnits c c' u) := budgeted_settle
  exact ⟨h2.keeps.frame.inv.trans h1.keeps.frame.inv, fun m b h => h2.keeps.frame.slotBits m b (h1.keeps.frame.slotBits m b h),
    fun b h => h2.keeps.frame.chassisBits b (h1.keeps.frame.chassisBits b h), fun f h => h2.flight f (h1.flight f h)⟩

theorem leftUnits_dark {c' : Ctx} (h : dark (u.slot n) = true) : (leftUnits c c' u).slot n = startSlotTimers c' (u.slot n) := by
  have h1 : (settle c u).slot n = u.slot n := settle_keeps.slots n h
  have h2 : (startUnitTimers c' (settle c u)).slot n = startSlotTimers c' (u.slot n) := by rw [startUnitTimers_slot, h1]
  exact (settle_keeps.slots n (by rw [h2]; exact h)).trans h2

/-- Step 3 of a cold start leads to its end (R177). -/
theorem recordsRead_cold {s : State} (hc : s.ctx.sup.cold = true) : recordsRead s = finishCold { s with
    ctx := sampledCtx s, units := builtUnits s false, pwm := restGens (builtUnits s false) s.pwm } := by
  have h : (takeStoredCtx s s.ctx).sup.cold = true := hc
  simp only [recordsRead, buildAll, State.act, h, Bool.not_true, Bool.false_and, Bool.false_eq_true, if_false, builtUnits, sampledCtx, takenUnits]

/-- Step 3 of a warm restart with memory leads to adoption (R27, R177). -/
theorem recordsRead_warm {s : State} (hc : s.ctx.sup.cold = false) (hm : s.ctx.sup.memOk = true) :
    recordsRead s = adoptFrom 12 0 ({ s with
      ctx := sampledCtx s, units := builtUnits s true, pwm := restGens (builtUnits s true) s.pwm }.setSup
        (fun x => { x with phase := .adopt 0 })) := by
  have h : (takeStoredCtx s s.ctx).sup.cold = false := hc
  have h' : (takeStoredCtx s s.ctx).sup.memOk = true := hm
  simp only [recordsRead, buildAll, State.act, State.setSup, h, h', Bool.not_false, Bool.true_and, if_true, builtUnits, sampledCtx, takenUnits]

/-- The context in which a cold start places its slots. -/
def coldCtx (s : State) : Ctx := { sampledCtx s with sup := { (sampledCtx s).sup with built := true } }

/-- The units of a cold start with their slots placed and the CLEAR sent. -/
def coldUnits (s : State) : Units := placeSlots (coldCtx s) (sendClear (coldCtx s) (builtUnits s false))

/-- A cold start at its end, but for the open packets. -/
def coldEnd (s : State) : State := { s with
  ctx := leftCtx (coldCtx s), units := leftUnits (coldCtx s) (leftCtx (coldCtx s)) (coldUnits s), pwm := restGens (builtUnits s false) s.pwm }

theorem recordsRead_coldEnd {s : State} (hc : s.ctx.sup.cold = true) (hm : s.ctx.sup.memOk = true) : recordsRead s = openPorts (coldEnd s) := by
  rw [recordsRead_cold hc, finishCold, leaveStartup_normal]
  · simp only [State.act, State.setSup, coldEnd, coldUnits, coldCtx, leftUnits]
  · exact hm

theorem takeStored_slot_cold {s : State} (hc : c.sup.cold = true) (m : Fin 12) : (takeStored s c u).slot m = u.slot m := by
  simp [takeStored, Units.slot, hc]

theorem takeStored_slot_warm {s : State} (hc : c.sup.cold = false) (m : Fin 12) :
    (takeStored s c u).slot m = restoreSlot (stored s (.slotStatus m)) (u.slot m) := by
  simp [takeStored, Units.slot, hc]

theorem takeStored_inv {s : State} (i : Fin 26) :
    (takeStored s c u).inv.get i = { u.inv.get i with inserts := storedInserts i (stored s (.inventory i)) } := ofFn_get _ _

/-- A slot at the end of step 5 is as it was taken, but for its claim. -/
theorem builtUnits_slot (s : State) (warm : Bool) (m : Fin 12) :
    ∃ k, (builtUnits s warm).slot m = { (takeStored s s.ctx s.units).slot m with claimed := k } := by
  obtain ⟨j, hj⟩ := (takenUnits_derived s).slots m
  obtain ⟨k, hk⟩ := (builtUnits_built s warm).slots m
  exact ⟨k, by rw [hk, hj]⟩

theorem builtUnits_restart (s : State) (warm : Bool) :
    chassisFlag (builtUnits s warm) .restart = true ∧ ∀ n, slotFlag (builtUnits s warm) n .restart = true :=
  ⟨(builtUnits_built s warm).chassisBits _ (takenUnits_restart s).1, fun n => (builtUnits_built s warm).slotBits n _ ((takenUnits_restart s).2 n)⟩

/-- The entry of a bay at the end of step 5 of a cold start (R42). -/
theorem builtUnits_bay {s : State} (b : Fin 14) (h : (s.units.inv.get (bayPos b)).state = .absent) :
    let e := (builtUnits s false).inv.get (bayPos b)
    if bayLevel (sampledCtx s) b = true then
      e.state = .unread ∧ e.inserts = oneMore (storedInserts (bayPos b) (stored s (.inventory (bayPos b))))
    else e.state = .absent := by
  have hinv : (takenUnits s).inv.get (bayPos b) =
      { s.units.inv.get (bayPos b) with inserts := storedInserts (bayPos b) (stored s (.inventory (bayPos b))) } := by
    rw [(takenUnits_derived s).inv, takeStored_inv]
  have e := buildInventory_cold (c := sampledCtx s) (image := fun i => stored s (.inventory i)) (u := takenUnits s) b (by rw [hinv]; exact h)
  rw [hinv] at e
  rw [builtUnits, derived_deriveAll.inv]
  exact e

theorem coldUnits_view {α : Type} (g : Units → α) (hg : ∀ (u : Units) (x : Vector Slot 12), g { u with slots := x } = g u) (s : State) :
    g (coldUnits s) = g (sendClear (coldCtx s) (builtUnits s false)) := by
  rw [coldUnits, placeSlots_rest]
  exact hg _ _

theorem coldUnits_slot {s : State} (hc : s.ctx.sup.cold = true) (m : Fin 12) :
    ∃ k, (coldUnits s).slot m = placedSlot (coldCtx s) m { s.units.slot m with claimed := k } := by
  obtain ⟨k, hk⟩ := builtUnits_slot s false m
  rw [takeStored_slot_cold hc] at hk
  exact ⟨k, by rw [coldUnits, placeSlots_slot, sendClear_slot, hk]⟩

theorem rowEnable_sampled (s : State) (m : Fin 12) : rowEnable (sampledCtx s) m = rowEnable s.ctx m := by
  have h : (takeStoredCtx s s.ctx).cfg.rows = s.ctx.cfg.rows := by
    rw [takeStoredCtx]
    dsimp only
    split <;> rfl
  simp only [rowEnable, slotRow, sampledCtx, h]

theorem sampled_level (q : Vector Filter 12) (m : Fin 12) : ((updAll q sampleFilter).get m).level = (q.get m).raw :=
  congrArg Filter.level (updAll_get _ _ _)

/-- The slot that a cold start leaves of a slot without power. -/
theorem coldEnd_slot {s : State} (hc : s.ctx.sup.cold = true) (hs : s.units.slot n = Slot.reset) : ∃ k,
    (coldEnd s).units.slot n = startSlotTimers (leftCtx (coldCtx s)) (placedSlot (coldCtx s) n { Slot.reset with claimed := k }) := by
  obtain ⟨k, hk⟩ := coldUnits_slot hc n
  rw [hs] at hk
  have hdark : dark ((coldUnits s).slot n) = true := by
    rw [hk, placedSlot]
    split <;> rfl
  refine ⟨k, ?_⟩
  rw [← hk]
  exact leftUnits_dark hdark

theorem coldEnd_restart (s : State) :
    chassisFlag (coldEnd s).units .restart = true ∧ ∀ n, slotFlag (coldEnd s).units n .restart = true := by
  obtain ⟨-, hslot, hchassis, -⟩ := leftUnits_frame (c := coldCtx s) (c' := leftCtx (coldCtx s)) (u := coldUnits s)
  refine ⟨hchassis .restart ?_, fun n => hslot n .restart ?_⟩
  · rw [coldUnits_view (chassisFlag · .restart) (fun _ _ => rfl), sendClear_chassisFlag]; exact (builtUnits_restart s false).1
  · rw [coldUnits_view (slotFlag · n .restart) (fun _ _ => rfl), sendClear_slotFlag]; exact (builtUnits_restart s false).2 n

theorem coldEnd_inv (s : State) : (coldEnd s).units.inv = (builtUnits s false).inv := by
  have h : (coldEnd s).units.inv = (coldUnits s).inv := leftUnits_frame.1
  rw [h, coldUnits_view Units.inv (fun _ _ => rfl), sendClear_inv]

theorem coldEnd_flight (s : State) :
    (coldEnd s).units.xFlight = some { cmd := .clear, deadline := s.ctx.now + Config.crossbarTimeout, ignored := false } := by
  obtain ⟨-, -, -, hflight⟩ := leftUnits_frame (c := coldCtx s) (c' := leftCtx (coldCtx s)) (u := coldUnits s)
  refine hflight _ ?_
  rw [coldUnits_view Units.xFlight (fun _ _ => rfl), sendClear_flight]
  rfl

/-- What the reads of step 3 end with (R177). -/
theorem exec_records {s : State} {a len : Nat} {rest : List IRead} (hp : s.port = some .internal) (hr : s.reads = .records a len true :: rest) :
    exec .internalReadComplete s = .next (finish s (recordsRead { s with reads := rest, port := none })) := by
  show done s (completeInternal s) = _
  rw [completeInternal, hp, hr]
  rfl

/-- What an adoption read ends with (R27). -/
theorem exec_adopt {s : State} {rest : List IRead} (hp : s.port = some .internal) (hr : s.reads = .adopt n :: rest) :
    exec .internalReadComplete s = .next (finish s (adoptRead n { s with reads := rest, port := none })) := by
  show done s (completeInternal s) = _
  rw [completeInternal, hp, hr]
  rfl

/-! ### Slots settled one by one -/

/-- Slots `a` to `b - 1` have been settled without a blade; nothing else has changed. -/
structure Vacated (a b : Nat) (u v : Units) : Prop where
  rest : v = { u with slots := v.slots, touched := v.touched }
  gone : ∀ j : Fin 12, a ≤ j.val → j.val < b →
    (v.slot j).state = .empty ∧ (v.slot j).mainEn = false ∧ (v.slot j).stbyEn = false ∧ (v.slot j).settled = true
  stay : ∀ j : Fin 12, ¬ (a ≤ j.val ∧ j.val < b) → v.slot j = u.slot j

theorem Vacated.refl (a : Nat) (u : Units) : Vacated a a u u := ⟨rfl, fun j h1 h2 => by omega, fun _ _ => rfl⟩

theorem Vacated.trans {a b d : Nat} (h : Vacated a b u v) (h' : Vacated b d v w) (hab : a ≤ b) (hbd : b ≤ d) : Vacated a d u w where
  rest := by
    have e := h'.rest
    rw [h.rest] at e
    exact e
  gone j h1 h2 := by
    by_cases hj : b ≤ j.val
    · exact h'.gone j hj h2
    · rw [h'.stay j (fun a => hj a.1)]; exact h.gone j h1 (by omega)
  stay j hj := (h'.stay j (fun a => hj (by omega))).trans (h.stay j (fun a => hj (by omega)))

theorem Vacated.inv {a b : Nat} (h : Vacated a b u v) : v.inv = u.inv := by rw [h.rest]
theorem Vacated.slotEvents {a b : Nat} (h : Vacated a b u v) : v.slotEvents = u.slotEvents := by rw [h.rest]
theorem Vacated.chassisEvent {a b : Nat} (h : Vacated a b u v) : v.chassisEvent = u.chassisEvent := by rw [h.rest]
theorem Vacated.grantOrder {a b : Nat} (h : Vacated a b u v) : v.grantOrder = u.grantOrder := by rw [h.rest]

theorem Vacated.slotFlag {a b : Nat} (h : Vacated a b u v) (m : Fin 12) (x : SlotBit) : slotFlag v m x = slotFlag u m x := by
  rw [Machine.slotFlag, h.slotEvents, Machine.slotFlag]

theorem Vacated.chassisFlag {a b : Nat} (h : Vacated a b u v) (x : ChassisBit) : chassisFlag v x = chassisFlag u x := by
  rw [Machine.chassisFlag, h.chassisEvent, Machine.chassisFlag]

/-- The units with which the settling of a slot begins. -/
def settleBegun (c : Ctx) (n : Fin 12) (u : Units) : Units :=
  (u.updSlot n (fun x => { x with enabled := rowEnable c n, settled := true })).touch (.slotStatus n)

theorem settleBegun_slot : (settleBegun c n u).slot n = { u.slot n with enabled := rowEnable c n, settled := true } := updSlot_slot_self u n _

theorem settleSlot_absent (id : Option (List Byte)) (h : presLLevel c n = false) :
    settleSlot n id c u = (settleBegun c n u).updSlot n emptySlot := if_pos (by rw [h]; rfl)

theorem vacated_absent (h : presLLevel c n = false) : Vacated n.val (n.val + 1) u (settleSlot n none c u) := by
  rw [settleSlot_absent none h]
  refine ⟨rfl, fun j h1 h2 => ?_, fun j hj => ?_⟩
  · have e : j = n := Fin.ext (by omega)
    rw [e, updSlot_slot_self, settleBegun_slot]
    exact ⟨rfl, rfl, rfl, rfl⟩
  · have e : n ≠ j := fun e => hj (by subst e; omega)
    rw [updSlot_slot, if_neg e]
    exact (updSlot_slot _ _ _ _).trans (if_neg e)

theorem absent_of_unwanted (hm : c.sup.memOk = true) (h : wantsAdoption c n = false) : presLLevel c n = false := by
  simpa [wantsAdoption, hm] using h

/-- Adoption passes the slots without a blade and asks for the identity of the next one with a blade (R27). -/
theorem adoptFrom_wants {m : Fin 12} : ∀ (fuel k : Nat) (s : State), fuel + k = 12 → k ≤ m.val → s.ctx.sup.memOk = true →
    (∀ j : Fin 12, k ≤ j.val → j.val < m.val → wantsAdoption s.ctx j = false) → wantsAdoption s.ctx m = true →
    ∃ w, Vacated k m.val s.units w ∧ adoptFrom fuel k s =
      { s.setSup (fun x => { x with phase := .adopt m }) with units := w, reads := s.reads ++ [.adopt m] } := by
  intro fuel
  induction fuel with
  | zero => intro k s hk hkm; exact absurd m.isLt (by omega)
  | succ fuel ih =>
    intro k s hk hkm hmem hno hwant
    have hlt : k < 12 := by omega
    rw [adoptFrom, dif_pos hlt]
    rcases Nat.eq_or_lt_of_le hkm with e | e
    · subst e
      rw [if_pos hwant]
      exact ⟨s.units, .refl _ _, rfl⟩
    · have hn := hno ⟨k, hlt⟩ (Nat.le_refl k) e
      rw [hn]
      obtain ⟨w, hw, run⟩ := ih (k + 1) (s.act (settleSlot ⟨k, hlt⟩ none)) (by omega) e hmem (fun j h1 h2 => hno j (by omega) h2) hwant
      exact ⟨w, (vacated_absent (absent_of_unwanted hmem hn)).trans hw (by omega) e, run⟩

/-- Adoption passes the rest of the slots and start-up ends. -/
theorem adoptFrom_ends : ∀ (fuel k : Nat) (s : State), fuel + k = 12 → s.ctx.sup.memOk = true →
    (∀ j : Fin 12, k ≤ j.val → wantsAdoption s.ctx j = false) →
    ∃ w, Vacated k 12 s.units w ∧ adoptFrom fuel k s = finishWarm { s with units := w } := by
  intro fuel
  induction fuel with
  | zero =>
    intro k s hk hmem hno
    have e : k = 12 := by omega
    subst e
    exact ⟨s.units, .refl _ _, rfl⟩
  | succ fuel ih =>
    intro k s hk hmem hno
    have hlt : k < 12 := by omega
    have hn := hno ⟨k, hlt⟩ (Nat.le_refl k)
    rw [adoptFrom, dif_pos hlt, hn]
    obtain ⟨w, hw, run⟩ := ih (k + 1) (s.act (settleSlot ⟨k, hlt⟩ none)) (by omega) hmem (fun j h1 => hno j (by omega))
    exact ⟨w, (vacated_absent (absent_of_unwanted hmem hn)).trans hw (by omega) (by omega), run⟩

end

end Sys2Proof.Machine
end

section
/-! PROOFS. A slot is settled with the identity record that its adoption read has brought (R27), and the end of a warm restart. -/

namespace Sys2Proof.Machine

section
variable {u v w : Units} {c : Ctx} {n m : Fin 12} {bs : List Byte}

/-! ### Views of the inventory -/

theorem bladeEntry_congr (h : v.inv = u.inv) : bladeEntry v n = bladeEntry u n := by rw [bladeEntry, h, bladeEntry]
theorem bladeValid_congr (h : v.inv = u.inv) : bladeValid v n = bladeValid u n := by rw [bladeValid, bladeEntry_congr h, bladeValid]
theorem bladeVals_congr (h : v.inv = u.inv) : bladeVals v n = bladeVals u n := by
  rw [bladeVals, bladeVals, bladeEntry_congr h, bladeValid_congr h]
theorem minPower_congr (h : v.inv = u.inv) : minPower v n = minPower u n := by rw [minPower, bladeVals_congr h, minPower]
theorem maxPower_congr (h : v.inv = u.inv) : maxPower v n = maxPower u n := by rw [maxPower, bladeVals_congr h, maxPower]
theorem keyTaken_congr (h : v.inv = u.inv) (i : Fin 26) (id : Ident) : keyTaken v i id = keyTaken u i id := by
  rw [keyTaken, h, keyTaken]

/-! ### The validated entry -/

theorem applyValidation_slot (r : Validation) : (applyValidation c (bladePos n) r u).slot n = u.slot n :=
  changeEntry_slot (validatedEntry_kept r)

theorem applyValidation_grantOrder (r : Validation) : (applyValidation c (bladePos n) r u).grantOrder = u.grantOrder :=
  (reported_changeEntry _).grantOrder.trans (storeEntry_grantOrder ..)

/-- What a validation says of an entry (R32, R33). -/
def ValidatedAs (u : Units) (n : Fin 12) (r : Validation) (e : Entry) : Prop :=
  (match r with
    | .error why => e.state = .invalid ∧ e.reason = why
    | .ok id => e.ident = id ∧ e.state = (if keyTaken u (bladePos n) id then .duplicate else .valid))
  ∧ e.inserts = (bladeEntry u n).inserts

theorem applyValidation_as (r : Validation) : ValidatedAs u n r (bladeEntry (applyValidation c (bladePos n) r u) n) := by
  obtain ⟨hs, hr, hi, hc⟩ := applyValidation_entry (c := c) (n := n) (u := u) r
  cases r with
  | error why => exact ⟨⟨hs, hr⟩, hc⟩
  | ok id => exact ⟨⟨hi, hs⟩, hc⟩

theorem ValidatedAs.congr {r : Validation} {e : Entry} (h : ValidatedAs v n r e) (hinv : v.inv = u.inv) : ValidatedAs u n r e := by
  refine ⟨?_, h.2.trans (by rw [bladeEntry_congr hinv])⟩
  cases r with
  | error why => exact h.1
  | ok id =>
    obtain ⟨h1, h2⟩ : e.ident = id ∧ e.state = _ := h.1
    exact ⟨h1, by rw [h2, keyTaken_congr hinv]⟩

/-- The outcome of a validation as the slot's state (R6, R17). -/
theorem identityResult_state : ((identityResult n u).2.slot n).state = if bladeValid u n then .identified else .standby := by
  rw [identityResult, bladeValid]
  split
  · next h => rw [updSlot_slot_self, h]; rfl
  · next h => rw [updSlot_slot_self, h]; rfl
  · next h _ => rw [updSlot_slot_self, if_neg (by simpa using h)]

theorem identityResult_slot : ∃ st un, (identityResult n u).2.slot n = { u.slot n with state := st, unvalidated := un } := by
  rw [identityResult]
  split
  · exact ⟨_, _, updSlot_slot_self ..⟩
  · exact ⟨_, (u.slot n).unvalidated, updSlot_slot_self ..⟩
  · exact ⟨_, (u.slot n).unvalidated, updSlot_slot_self ..⟩

/-! ### Adoption (R27) -/

/-- What the adoption of a present slot `n` leaves: `x` is the slot before, `y` the slot after (R27). -/
structure Adopted (c : Ctx) (n : Fin 12) (bs : List Byte) (u v : Units) : Prop where
  entry : ValidatedAs u n (validateBlade bs) (bladeEntry v n)
  settled : (v.slot n).settled = true
  qNumber : (v.slot n).qNumber = (u.slot n).qNumber
  powerTake : (v.slot n).powerTake = (u.slot n).powerTake
  disabled : rowEnable c n = false → (v.slot n).state = .empty ∧ (v.slot n).mainEn = false ∧ (v.slot n).stbyEn = false
    ∧ (v.slot n).grant = 0 ∧ (v.slot n).allowance = 0
  on : rowEnable c n = true → pgoodLevel c n = true → (v.slot n).state = .on ∧ (v.slot n).mainEn = true ∧ (v.slot n).stbyEn = true
    ∧ (v.slot n).grant = (v.slot n).allowance
    ∧ (v.slot n).allowance = min (max (imageAllowance (c.sup.images.getD n.val [])) (minPower v n)) (maxPower v n)
    ∧ (v.slot n).unvalidated = !bladeValid v n ∧ v.grantOrder = u.grantOrder.filter (· != n) ++ [n]
  standby : rowEnable c n = true → pgoodLevel c n = false → (v.slot n).mainEn = false ∧ (v.slot n).stbyEn = true ∧ (v.slot n).grant = 0
    ∧ (v.slot n).allowance = 0 ∧ (v.slot n).state = (if bladeValid v n then .identified else .standby)
    ∧ (v.slot n).identityTake.seq = bs.getD 63 0

theorem settleBegun_inv : (settleBegun c n u).inv = u.inv := rfl

theorem adopted_disabled (h : rowEnable c n = false) :
    Adopted c n bs u ((applyValidation c (bladePos n) (validateBlade bs) (settleBegun c n u)).updSlot n emptySlot) := by
  have hs : ((applyValidation c (bladePos n) (validateBlade bs) (settleBegun c n u)).updSlot n emptySlot).slot n =
      emptySlot { u.slot n with enabled := rowEnable c n, settled := true } := by
    rw [updSlot_slot_self, applyValidation_slot, settleBegun_slot]
  refine ⟨(applyValidation_as _).congr settleBegun_inv, ?_, ?_, ?_, fun _ => ?_, fun h' => ?_, fun h' => ?_⟩
  iterate 3 rw [hs]; rfl
  · rw [hs]; exact ⟨rfl, rfl, rfl, rfl, rfl⟩
  · rw [h] at h'; cases h'
  · rw [h] at h'; cases h'

theorem adopted_on (he : rowEnable c n = true) (hp : pgoodLevel c n = true) :
    Adopted c n bs u (adoptOn c n (c.sup.images.getD n.val []) bs (settleBegun c n u)) := by
  let v := applyValidation c (bladePos n) (validateBlade bs) (settleBegun c n u)
  let k := min (max (imageAllowance (c.sup.images.getD n.val [])) (minPower v n)) (maxPower v n)
  have hv : v.slot n = { u.slot n with enabled := rowEnable c n, settled := true } := (applyValidation_slot _).trans settleBegun_slot
  have hs : (adoptOn c n (c.sup.images.getD n.val []) bs (settleBegun c n u)).slot n =
      { enterOn c (v.slot n) with grant := k, allowance := k, unvalidated := !bladeValid v n, stbyEn := true, mainEn := true } :=
    updSlot_slot_self v n _
  have hinv : (adoptOn c n (c.sup.images.getD n.val []) bs (settleBegun c n u)).inv = v.inv := rfl
  have hg : (adoptOn c n (c.sup.images.getD n.val []) bs (settleBegun c n u)).grantOrder = v.grantOrder.filter (· != n) ++ [n] := rfl
  rw [hv] at hs
  refine ⟨?_, ?_, ?_, ?_, fun h' => ?_, fun _ _ => ?_, fun _ h' => ?_⟩
  · rw [bladeEntry_congr hinv]; exact (applyValidation_as _).congr settleBegun_inv
  iterate 3 rw [hs]; rfl
  · rw [he] at h'; cases h'
  · rw [hs, hg, minPower_congr hinv, maxPower_congr hinv, bladeValid_congr hinv, applyValidation_grantOrder]
    exact ⟨rfl, rfl, rfl, rfl, rfl, rfl, rfl⟩
  · rw [hp] at h'; cases h'

theorem adopted_standby (he : rowEnable c n = true) (hp : pgoodLevel c n = false) :
    Adopted c n bs u (adoptStandby c n (some bs) (settleBegun c n u)) := by
  let y := (settleBegun c n u).updSlot n (fun x => { darkSlot x with state := .standby, stbyEn := true })
  let v := applyValidation c (bladePos n) (validateBlade bs) y
  have hy : y.slot n = { darkSlot { u.slot n with enabled := rowEnable c n, settled := true } with state := .standby, stbyEn := true } :=
    (updSlot_slot_self ..).trans (by rw [settleBegun_slot])
  have ht : takeIdentity c n bs y = identityResult n v := if_pos (.inl (by rw [hy]))
  have hr : adoptStandby c n (some bs) (settleBegun c n u) = (takeIdentity c n bs y).2.updSlot n (fun x =>
      { x with identityTake := { seq := bs.getD 63 0, outcome := outcomeCode (takeIdentity c n bs y).1 } }) := rfl
  rw [ht] at hr
  obtain ⟨st, un, hid⟩ := identityResult_slot (n := n) (u := v)
  have hst := identityResult_state (n := n) (u := v)
  have hinv : (adoptStandby c n (some bs) (settleBegun c n u)).inv = v.inv := by rw [hr, updSlot_inv, identityResult_inv]
  have hs : (adoptStandby c n (some bs) (settleBegun c n u)).slot n =
      { y.slot n with state := st, unvalidated := un, identityTake := { seq := bs.getD 63 0, outcome := outcomeCode (identityResult n v).1 } } := by
    rw [hr, updSlot_slot_self, hid, applyValidation_slot]
  rw [hid] at hst
  rw [hy] at hs
  refine ⟨?_, ?_, ?_, ?_, fun h' => ?_, fun _ h' => ?_, fun _ _ => ?_⟩
  · rw [bladeEntry_congr hinv]; exact (applyValidation_as _).congr rfl
  iterate 3 rw [hs]; rfl
  · rw [he] at h'; cases h'
  · rw [hp] at h'; cases h'
  · rw [hs, bladeValid_congr hinv]
    exact ⟨rfl, rfl, rfl, rfl, hst, rfl⟩

/-- A present slot is adopted, by its row and its PGOOD level (R27). -/
theorem adopted_settleSlot (h : presLLevel c n = true) : Adopted c n bs u (settleSlot n (some bs) c u) := by
  have present : settleSlot n (some bs) c u =
      if (!rowEnable c n) = true then settleDisabled c n (some bs) (settleBegun c n u)
      else if pgoodLevel c n then adoptOn c n (c.sup.images.getD n.val []) bs (settleBegun c n u)
        else adoptStandby c n (some bs) (settleBegun c n u) := if_neg (by rw [h]; decide)
  rw [present]
  split
  · next he => exact adopted_disabled (by simpa using he)
  · next he =>
    have he' : rowEnable c n = true := by simpa using he
    split
    · next hp => exact adopted_on he' hp
    · next hp => exact adopted_standby he' (by simpa using hp)

/-- What comes after the adoption of slot `n` leaves it alone. -/
theorem Adopted.vacated {a b : Nat} (h : Adopted c n bs u v) (hv : Vacated a b v w) (ha : n.val < a) : Adopted c n bs u w := by
  have hs : w.slot n = v.slot n := hv.stay n (fun h => by omega)
  obtain ⟨h1, h2, h3, h4, h5, h6, h7⟩ := h
  rw [← hs] at h2 h3 h4 h5 h6 h7
  rw [← bladeEntry_congr hv.inv] at h1
  rw [← minPower_congr hv.inv, ← maxPower_congr hv.inv, ← bladeValid_congr hv.inv, ← hv.grantOrder] at h6
  rw [← bladeValid_congr hv.inv] at h7
  exact ⟨h1, h2, h3, h4, h5, h6, h7⟩

/-! ### The end of a warm restart: no slot is unsettled again -/

/-- Every slot keeps its settled mark. -/
def SameMarks (u v : Units) : Prop := ∀ m, (v.slot m).settled = (u.slot m).settled

theorem SameMarks.refl (u : Units) : SameMarks u u := fun _ => rfl
theorem SameMarks.trans (a : SameMarks u v) (b : SameMarks v w) : SameMarks u w := fun m => (b m).trans (a m)
theorem SameMarks.ite {p : Prop} [Decidable p] (a : SameMarks u v) (b : SameMarks u w) : SameMarks u (if p then v else w) := by split <;> assumption
theorem SameMarks.foldl {α : Type} {f : Units → α → Units} (h : ∀ u a, SameMarks u (f u a)) (l : List α) (u : Units) :
    SameMarks u (l.foldl f u) :=
  List.foldlRecOn (motive := fun v : Units => SameMarks u v) l f (.refl u) (fun v hv a _ => hv.trans (h v a))

theorem Wired.marks (h : Wired u v) : SameMarks u v := fun m => by rw [h.slot]
theorem Budgeted.marks (h : Budgeted u v) : SameMarks u v := fun m => (h.fixed m).1

theorem OnlySlot.marks (h : OnlySlot n u v) (hn : (v.slot n).settled = (u.slot n).settled) : SameMarks u v := fun m => by
  by_cases e : m = n
  · rw [e]; exact hn
  · rw [h.slots m e]

theorem marks_updSlot {f : Slot → Slot} (hf : (f (u.slot n)).settled = (u.slot n).settled) : SameMarks u (u.updSlot n f) :=
  (only_updSlot f).marks (by rw [updSlot_slot_self]; exact hf)

theorem marks_cutToSettling : SameMarks u (cutToSettling c n u) := by
  by_cases h : powered (u.slot n) = true
  · exact only_cutToSettling.marks (by rw [cutToSettling_slot _ _ _ h]; rfl)
  · rw [cutToSettling, if_neg h]; exact .refl u

theorem marks_cutToFault (r : FaultReason) : SameMarks u (cutToFault c n r u) := by
  by_cases h : powered (u.slot n) = true
  · exact (only_cutToFault r).marks (by rw [cutToFault_slot _ _ _ _ h]; rfl)
  · rw [cutToFault, if_neg h]; exact .refl u

theorem marks_leaveWaitPower : SameMarks u (leaveWaitPower n u) := (only_leaveWaitPower n u).marks (by rw [leaveWaitPower_slot])

theorem marks_holdSlot : SameMarks u (holdSlot c n u) := by
  rw [holdSlot]
  split
  · exact marks_leaveWaitPower
  iterate 3 exact marks_cutToSettling
  · exact .refl u

theorem marks_leverOpened : SameMarks u (leverOpened c n u) := by
  rw [leverOpened]
  split
  · exact marks_leaveWaitPower
  · exact marks_cutToSettling
  · exact (only_enterQuiesce _).marks (by rw [enterQuiesce_slot])
  · exact marks_updSlot rfl
  · exact marks_updSlot rfl
  · exact .refl u

theorem marks_railFaults : SameMarks u (railFaults c n u) := .ite (marks_cutToFault _) (.refl u)

theorem marks_pgoodFalls : SameMarks u (pgoodFalls c n u) := by
  rw [pgoodFalls]
  split
  · exact marks_cutToFault _
  · exact marks_cutToFault _
  · exact .refl u

theorem marks_pgoodRises : SameMarks u (pgoodRises c n u) := by
  rw [pgoodRises]
  split
  · exact marks_updSlot rfl
  iterate 3 exact fun _ => rfl
  · exact .refl u

theorem marks_settleAfter (h : SameMarks u v) : SameMarks u (settleAfter c w v) := h.trans budgeted_settleAfter.marks

theorem marks_slotConditions (n : Fin 12) : SameMarks u (slotConditions c u n) := by
  let u1 := if railFltLevel c n then settleAfter c u (railFaults c n u) else u
  let u2 := if !pgoodLevel c n then settleAfter c u1 (pgoodFalls c n u1) else u1
  let u3 := if pgoodLevel c n && !(u2.slot n).mainEn then pgoodRises c n u2 else u2
  let u4 := if held c n then settleAfter c u3 (holdSlot c n u3) else u3
  have h1 : SameMarks u u1 := .ite (marks_settleAfter marks_railFaults) (.refl u)
  have h2 : SameMarks u1 u2 := .ite (marks_settleAfter marks_pgoodFalls) (.refl u1)
  have h3 : SameMarks u2 u3 := .ite marks_pgoodRises (.refl u2)
  have h4 : SameMarks u3 u4 := .ite (marks_settleAfter marks_holdSlot) (.refl u3)
  have h5 : SameMarks u4 (if !leverClosed c n && (u4.slot n).state == .on then settleAfter c u4 (leverOpened c n u4) else u4) :=
    .ite (marks_settleAfter marks_leverOpened) (.refl u4)
  exact (((h1.trans h2).trans h3).trans h4).trans h5

theorem wired_reconnect (ch : Fin 32) : Wired u (reconnect c ch u) := by
  rw [reconnect]
  split
  · exact (wired_updChan _ _).trans (wired_queueCmd _)
  · exact (wired_updChan _ _).trans (wired_queueCmd _)
  · exact .refl u

theorem wired_keepChan (k : Fin 4) (ch : Fin 32) (recorded : Nat) : Wired u (keepChan c n k ch recorded u) := by
  rw [keepChan]
  exact .ite (.ite ((wired_updChan _ _).trans (wired_queueCmd _)) (wired_updChan _ _)) (wired_updChan _ _)

theorem wired_rebuildLane (n : Fin 12) (k : Fin 4) : Wired u (rebuildLane c u n k) := by
  rw [rebuildLane]
  split
  · exact .refl u
  · exact .ite (.refl u) (.ite (.ite (.refl u) (wired_reconnect _)) (wired_keepChan _ _ _))

theorem marks_rebuildChannels : SameMarks u (rebuildChannels c u) := by
  rw [rebuildChannels]
  have h1 (u : Units) : SameMarks u ((indices 4).foldl (fun u p => portComesIntoUse p u) u) :=
    (Wired.foldl (fun _ p => wired_portComesIntoUse p) _ _).marks
  have h2 (u : Units) : SameMarks u ((indices 12).foldl (fun u n => (indices 4).foldl (fun u k => rebuildLane c u n k) u) u) :=
    (Wired.foldl (fun _ n => Wired.foldl (fun _ k => wired_rebuildLane n k) _ _) _ _).marks
  have h3 (u : Units) : SameMarks u ((indices 12).foldl (fun u n =>
      if powered (u.slot n) then u.updSlot n (fun x => { x with claimed := activeCount u n, group := .any }) else u) u) :=
    SameMarks.foldl (fun _ _ => .ite (marks_updSlot rfl) (.refl _)) _ _
  have h4 (u : Units) : SameMarks u ((indices 4).foldl loadEnable u) := (Wired.foldl (fun _ p => wired_updPort p _) _ _).marks
  exact (((h1 u).trans (h2 _)).trans (h3 _)).trans (h4 _)

/-- The units before a warm restart leaves STARTUP. -/
def warmUnits (c c' : Ctx) (u : Units) : Units := (indices 12).foldl (slotConditions c') (settle c' (rebuildChannels c u))

/-- The context in which a warm restart acts on the conditions of its slots. -/
def warmCtx (c : Ctx) : Ctx := { c with sup := { c.sup with built := true } }

/-- A warm restart at its end, but for the open packets. -/
def warmEnd (s : State) : State := { s with
  ctx := leftCtx (warmCtx s.ctx),
  units := settle (leftCtx (warmCtx s.ctx)) (startUnitTimers (leftCtx (warmCtx s.ctx)) (warmUnits s.ctx (warmCtx s.ctx) s.units)) }

theorem finishWarm_eq {s : State} (hm : s.ctx.sup.memOk = true) : finishWarm s = openPorts (warmEnd s) := by
  rw [finishWarm, leaveStartup_normal]
  · simp only [State.act, State.setSup, warmEnd, warmUnits, warmCtx]
  · exact hm

theorem warmEnd_marks (s : State) : SameMarks s.units (warmEnd s).units := by
  have h1 : SameMarks s.units (warmUnits s.ctx (warmCtx s.ctx) s.units) :=
    (marks_rebuildChannels.trans budgeted_settle.marks).trans (SameMarks.foldl (fun _ n => marks_slotConditions n) _ _)
  have h2 (c : Ctx) (u : Units) : SameMarks u (settle c (startUnitTimers c u)) :=
    SameMarks.trans (fun m => by rw [startUnitTimers_slot]; rfl) budgeted_settle.marks
  exact h1.trans (h2 _ _)

/-- A slot is settled whether it is present or not. -/
theorem settleSlot_settled : ((settleSlot n (some bs) c u).slot n).settled = true := by
  by_cases h : presLLevel c n = true
  · exact (adopted_settleSlot h).settled
  · rw [settleSlot_absent _ (by simpa using h), updSlot_slot_self, settleBegun_slot]
    rfl

end

end Sys2Proof.Machine
end

section
open Sys2Proof Sys2Proof.Machine

/-- Settles O13: the end of a cold start (`coldEnd`), the records of a warm restart and its first adoption read (`adoptFrom_wants`), an
adoption (`adopted_settleSlot`) and the end of adoption (`adoptFrom_ends`, `warmEnd_marks`). -/
theorem startUpPlacesOrAdoptsTheSlots : Obligations.StartUpPlacesOrAdoptsTheSlots := by
  refine ⟨fun s a len rest hport hreads hcold hmem hunits => ?_, ?_, ?_⟩
  · let s0 : State := { s with reads := rest, port := none }
    have run := exec_records hport hreads
    rw [recordsRead_coldEnd (s := s0) hcold hmem] at run
    have reset (m : Fin 12) : s0.units.slot m = Slot.reset := by
      show s.units.slot m = _
      rw [hunits]; exact replicate_get _ _
    have absent (i : Fin 26) : (s0.units.inv.get i).state = .absent := by
      show (s.units.inv.get i).state = _
      rw [hunits]; exact congrArg Entry.state (replicate_get _ _)
    obtain ⟨hchassis, hslots⟩ := coldEnd_restart s0
    refine ⟨_, run, rfl, rfl, rfl, leftCtx_mode (c := coldCtx s0) hmem, rfl, fun p => getFilter_samplePins _ _, fun n => ?_, fun b => ?_,
      hchassis, coldEnd_flight s0, openPorts_link (coldEnd s0) s, rfl, rfl⟩
    · obtain ⟨k, hk⟩ := coldEnd_slot (s := s0) hcold (reset n)
      have hpres : presLLevel (coldCtx s0) n = (getFilter s.ctx.pins (.presL n)).raw := sampled_level _ n
      have hlever : leverClosed (coldCtx s0) n = (getFilter s.ctx.pins (.presS n)).raw := sampled_level _ n
      have hrow : rowEnable (coldCtx s0) n = rowEnable s.ctx n := rowEnable_sampled s0 n
      rw [finish_slot, openPorts_units, hk, placedSlot, hpres, hlever, hrow]
      by_cases h : rowEnable s.ctx n = true ∧ (getFilter s.ctx.pins (.presL n)).raw = true
      · rw [if_pos h, if_pos (Bool.and_eq_true _ _ ▸ h)]
        exact ⟨rfl, rfl, hslots n, rfl, rfl⟩
      · rw [if_neg h, if_neg (fun a => h (Bool.and_eq_true _ _ ▸ a))]
        exact ⟨rfl, rfl, hslots n, rfl, rfl⟩
    · have hbay : bayLevel (sampledCtx s0) b = (getFilter s.ctx.pins (.bay b)).raw := congrArg Filter.level (updAll_get _ _ _)
      have e := builtUnits_bay b (absent (bayPos b))
      rw [hbay, ← coldEnd_inv] at e
      exact e
  · intro s a len rest m hport hreads hcold hmem hraw
    let s0 : State := { s with reads := rest, port := none }
    have run := exec_records hport hreads
    rw [recordsRead_warm (s := s0) hcold hmem] at run
    have level (j : Fin 12) : presLLevel (sampledCtx s0) j = (getFilter s.ctx.pins (.presL j)).raw := sampled_level _ j
    have hslot := builtUnits_slot s0 true
    obtain ⟨hchassis, hflags⟩ := builtUnits_restart s0 true
    generalize builtUnits s0 true = u at run hslot hchassis hflags
    let s1 : State := { s0 with ctx := sampledCtx s0, units := u, pwm := restGens u s0.pwm }
    have wants (j : Fin 12) : wantsAdoption (s1.setSup (fun x => { x with phase := .adopt 0 })).ctx j =
        (s.ctx.sup.memOk && (getFilter s.ctx.pins (.presL j)).raw) := congrArg (s.ctx.sup.memOk && ·) (level j)
    obtain ⟨w, hw, he⟩ := adoptFrom_wants (m := m) 12 0 (s1.setSup (fun x => { x with phase := .adopt 0 })) rfl (Nat.zero_le _) hmem
      (fun j _ hj => by
        rw [wants]
        have : ¬ j = m := fun e => by rw [e] at hj; exact lt_irrefl _ hj
        simp [Bool.eq_false_iff.mpr (fun a => this ((hraw j (Nat.le_of_lt hj)).mp a))])
      (by rw [wants, hmem, (hraw m (Nat.le_refl _)).mpr rfl]; rfl)
    replace hw : Vacated 0 m.val u w := hw
    rw [show adoptFrom 12 0 _ = _ from he] at run
    refine ⟨_, run, rfl, rfl, rfl, rfl, fun j hj => ?_, fun j hj => ?_, fun n => (hw.slotFlag n .restart).trans (hflags n),
      (hw.chassisFlag .restart).trans hchassis, rfl, rfl, rfl, rfl, rfl, rfl⟩
    · obtain ⟨h1, h2, h3, -⟩ := hw.gone j (Nat.zero_le _) hj
      exact ⟨h1, h2, h3⟩
    · obtain ⟨k, hk⟩ := hslot j
      rw [takeStored_slot_warm hcold] at hk
      have hs : w.slot j = _ := (hw.stay j (fun a => Nat.not_lt.mpr hj a.2)).trans hk
      rw [finish_slot]
      simp only [hs]
      exact ⟨rfl, rfl, rfl⟩
  · intro s n rest hport hreads hmem
    let s0 : State := { s with reads := rest, port := none }
    let bs := readSpan s.wq s.mem (takeSpan (.identity n)).1 64
    let v := settleSlot n (some bs) s.ctx s.units
    have run := exec_adopt hport hreads
    have hfuel : 11 - n.val + (n.val + 1) = 12 := by omega
    refine ⟨fun m hnm hnext hpres => ?_, fun hno => ?_⟩
    · obtain ⟨w, hw, he⟩ := adoptFrom_wants (m := m) (11 - n.val) (n.val + 1) (s0.act (settleSlot n (some bs))) hfuel hnm hmem
        (fun j h1 h2 => by
          have : ¬ j = m := fun e => by rw [e] at h2; exact lt_irrefl _ h2
          exact Bool.eq_false_iff.mpr (fun a => this ((hnext j h1 (Nat.le_of_lt h2)).mp a)))
        ((hnext m hnm (Nat.le_refl _)).mpr rfl)
      rw [show adoptRead n _ = _ from he] at run
      have had : Adopted s.ctx n bs s.units w := (adopted_settleSlot hpres).vacated hw (Nat.lt_succ_self _)
      refine ⟨_, run, rfl, rfl, rfl, ⟨had.entry.1, had.entry.2, had.settled, had.qNumber, had.powerTake, ?_⟩, fun j h1 h2 => ?_,
        rfl, rfl, rfl, rfl⟩
      · split
        · next h => exact had.disabled h
        · next h =>
          have h' : rowEnable s.ctx n = true := by simpa using h
          split
          · next hp => exact had.on h' hp
          · next hp => exact had.standby h' (by simpa using hp)
      · obtain ⟨g1, g2, g3, -⟩ := hw.gone j h1 h2
        exact ⟨g1, g2, g3⟩
    · obtain ⟨w, hw, he⟩ := adoptFrom_ends (11 - n.val) (n.val + 1) (s0.act (settleSlot n (some bs))) hfuel hmem (fun j h => hno j h)
      let s1 : State := { s0.act (settleSlot n (some bs)) with units := w }
      rw [show adoptRead n _ = _ from he, finishWarm_eq (s := s1) hmem] at run
      refine ⟨_, run, rfl, rfl, rfl, leftCtx_mode (c := warmCtx s1.ctx) hmem, rfl, fun m hm => ?_, openPorts_link (warmEnd s1) s, rfl, rfl⟩
      refine (warmEnd_marks s1 m).trans ?_
      rcases Nat.eq_or_lt_of_le hm with e | e
      · have e' : m = n := Fin.ext e.symm
        subst e'
        exact (congrArg Slot.settled (hw.stay m (fun a => Nat.not_succ_le_self _ a.1))).trans settleSlot_settled
      · exact (hw.gone m e m.isLt).2.2.2
end

section
/-! PROOFS. The third clause of `BudgetKeepsSlotPower` fails: `StartSound` and `PowerSound` allow a state in which an adoption read completes
although the memory is marked as not answering. The adopted slot's identity is DUPLICATE at first, so its allowance is limited by 20 W alone;
the next present slot is then settled without a read, its VALID entry becomes UNREAD, and the re-check of R34 promotes the adopted blade, whose
min operating power is 50 W. -/

namespace Sys2Proof.Machine

open Sys2Proof

namespace AdoptionWithoutMemory

/-- A blade of 50 to 100 W, trip 85 °C, class 2, four lanes, serial "K". -/
def identity : Ident := { Ident.cleared with serial := [0x4B], vals := .blade 100 50 85 2 4 }

/-- Its identity record with the CRC (R32), in the slot page of slot 0; bytes of zero are unlisted. -/
def memory : Memory := [(0x10000, 1), (0x10006, 100), (0x10008, 50), (0x1000A, 85), (0x1000B, 2), (0x1000C, 4), (0x1000D, 1),
  (0x1000E, 0x4B), (0x1003D, 0x82), (0x1003E, 0xBB)]

/-- The same blade, VALID already at the position of slot 1. -/
def twin : Entry := { Entry.reset with state := .valid, ident := identity }

/-- An input that has been asserted all along. -/
def asserted : Filter := { raw := true, level := true, timer := none }

/-- A warm restart waits for the adoption read of slot 0, with slots 0 and 1 present, the main rail of slot 0 up and four supplies OK, but
`memOk` is false. -/
def before : State :=
  { State.reset with
    pending := [.internalReadComplete]
    ctx := { Ctx.reset with
      sup := { Sup.reset with phase := .adopt 0, cold := false }
      pins := { Pins.reset with
        sampled := true
        presL := Vector.ofFn (fun n => if n.val < 2 then asserted else .reset)
        presS := Vector.replicate 12 asserted
        pgood := Vector.ofFn (fun n => if n = 0 then asserted else .reset) } }
    units := { Units.reset with
      slots := Vector.replicate 12 { Slot.reset with settled := false }
      supplies := Vector.replicate 4 { state := .ok, identCap := 2000, counted := 2000 }
      inv := updAt Units.reset.inv (bladePos 1) (fun _ => twin) }
    reads := [.adopt 0]
    port := some .internal
    mem := memory }

theorem slot_before (n : Fin 12) : before.units.slot n = { Slot.reset with settled := false } := replicate_get _ n

theorem fresh_before (n : Fin 12) : Fresh (before.units.slot n) := by rw [slot_before]; exact ⟨rfl, rfl, rfl⟩

theorem startSound_before : StartSound before where
  reads := rfl
  mode := by decide
  built := by decide
  links := fun _ l => by
    have h : before.links.get l = Link.reset := replicate_get _ l
    rw [h]
    exact ⟨rfl, rfl, rfl⟩
  audit := fun _ => rfl
  noGrants := fun _ n => by rw [slot_before]; decide
  early := fun h => absurd h (by decide)
  adopting := fun n hn => by
    have h0 : n = 0 := by injection hn with h; exact h.symm
    subst h0
    exact ⟨rfl, fun m => ⟨by rw [slot_before]; simp, fun _ => fresh_before m⟩⟩
  settled := by decide

theorem entry_before (n : Fin 12) : bladeEntry before.units n = if n = 1 then twin else Entry.reset := by
  have h : bladePos 1 = bladePos n ↔ n = 1 := by revert n; decide
  simp [bladeEntry, before, Units.reset, updAt_get, h]

theorem powerSound_before : PowerSound before.units where
  enable := fun n h => by rw [slot_before] at h; exact absurd h (by decide)
  range := fun n => by rw [slot_before]; decide
  off := fun n _ => by rw [slot_before]; decide
  floor := fun n h => by rw [slot_before] at h; exact absurd h (by decide)
  unsettled := fun n _ => by rw [slot_before]; rfl
  seating := fun n h => by rw [slot_before] at h; exact absurd rfl h
  settling := fun n h => by rw [slot_before] at h; exact absurd rfl h
  ready := fun n h => by rw [slot_before] at h; exact absurd h (by decide)
  identity := fun n h => by
    rw [entry_before] at h ⊢
    split at h
    · next e => exact ⟨100, 50, 85, 2, 4, by rw [if_pos e]; exact ⟨rfl, by omega, by omega⟩⟩
    · exact absurd h (by decide)
  entries := fun e h => absurd h (List.not_mem_nil)
  once := List.nodup_nil

/-- The units after the read: slot 0 is adopted ON, its blade is VALID with 50 W at least, and its allowance is 20 W. -/
def afterRead : Units → Bool := fun u => powered (u.slot 0) && minPower u 0 == 50 && (u.slot 0).allowance == 20

theorem step_before : ∃ t, step before = .next t ∧ afterRead t.units = true := ⟨_, rfl, by decide +kernel⟩

end AdoptionWithoutMemory

end Sys2Proof.Machine

open Sys2Proof Sys2Proof.Machine AdoptionWithoutMemory in
/-- Refutes O57, by the state `AdoptionWithoutMemory.before`: the slot adopted in its step runs below the min operating power that its blade
has at the end of that step. -/
theorem not_budgetKeepsSlotPower : ¬ Obligations.BudgetKeepsSlotPower := by
  rintro ⟨-, -, floorKept⟩
  obtain ⟨t, ht, hafter⟩ := step_before
  simp only [afterRead, Bool.and_eq_true, beq_iff_eq] at hafter
  obtain ⟨⟨hpow, hmin⟩, hallow⟩ := hafter
  have hwas : powered (before.units.slot 0) = false := by rw [slot_before]; rfl
  have h := floorKept before t 0 startSound_before powerSound_before ht hpow (fun hp => by rw [hwas] at hp; exact absurd hp (by decide))
  rw [hmin, hallow] at h
  exact absurd h (by decide)
end

section
/-! PROOFS. The module bus (R36, R37, R104): what its operations do to its queue and to the item in flight, and the polls of the sensors. -/

namespace Sys2Proof.Machine

/-- `v` differs from `u` in the queue and the item in flight of the module bus alone. -/
def BusOnly (u v : Units) : Prop := v = { u with busQueue := v.busQueue, busOp := v.busOp }

/-- What an item is in flight right after its start (R36, R37). -/
def BusItem.started : BusItem → BusOp
  | .read b => .read b 1 none false
  | .poll k => .poll k

/-- The item waits, or it has just started. -/
def Queued (item : BusItem) (u : Units) : Prop := item ∈ u.busQueue ∨ u.busOp = some item.started

section
variable {u v w : Units} {c : Ctx}

theorem BusOnly.refl (u : Units) : BusOnly u u := rfl

theorem BusOnly.trans (a : BusOnly u v) (b : BusOnly v w) : BusOnly u w := by
  rw [BusOnly] at *
  rw [a] at b
  exact b

/-- Any view of the units is that of the units before with the new queue and item in flight. -/
theorem BusOnly.view {α : Type} (h : BusOnly u v) (g : Units → α) : g v = g { u with busQueue := v.busQueue, busOp := v.busOp } :=
  congrArg g h

theorem BusOnly.inv (h : BusOnly u v) : v.inv = u.inv := h.view (fun u => u.inv)
theorem BusOnly.sensors (h : BusOnly u v) : v.sensors = u.sensors := h.view (fun u => u.sensors)
theorem BusOnly.linkErr (h : BusOnly u v) : v.linkErr = u.linkErr := h.view (fun u => u.linkErr)
theorem BusOnly.xbar (h : BusOnly u v) : v.xbar = u.xbar := h.view (fun u => u.xbar)
theorem BusOnly.chassisEvent (h : BusOnly u v) : v.chassisEvent = u.chassisEvent := h.view (fun u => u.chassisEvent)
theorem BusOnly.pollTimer (h : BusOnly u v) : v.pollTimer = u.pollTimer := h.view (fun u => u.pollTimer)

theorem busOnly_busOp (u : Units) (op : Option BusOp) : BusOnly u { u with busOp := op } := rfl

/-- The account does not rest on the module bus. -/
theorem BusOnly.settleAfter (h : BusOnly u v) : settleAfter c u v = v :=
  settleAfter_same (h.view (accountTerms c)).symm (h.view budgetLists).symm

/-! ### The start of the oldest item (R36) -/

/-- An idle bus starts its oldest item; a busy one goes on. -/
theorem startBus_idle {item : BusItem} {rest : List BusItem} (ho : u.busOp = none) (hq : u.busQueue = item :: rest) :
    startBus u = { u with busQueue := rest, busOp := some item.started } := by
  cases item <;> rw [startBus, ho, hq] <;> rfl

theorem startBus_empty (hq : u.busQueue = []) : startBus u = u := by rw [startBus, hq]; cases u.busOp <;> rfl

theorem startBus_busy {op : BusOp} (ho : u.busOp = some op) : startBus u = u := by rw [startBus, ho]

/-- What `startBus` can do. -/
theorem startBus_cases (u : Units) : startBus u = u
    ∨ ∃ item rest, u.busOp = none ∧ u.busQueue = item :: rest ∧ startBus u = { u with busQueue := rest, busOp := some item.started } := by
  cases ho : u.busOp with
  | some op => exact .inl (startBus_busy ho)
  | none =>
    cases hq : u.busQueue with
    | nil => exact .inl (startBus_empty hq)
    | cons item rest => exact .inr ⟨item, rest, rfl, rfl, startBus_idle ho hq⟩

theorem busOnly_startBus (u : Units) : BusOnly u (startBus u) := by
  obtain h | ⟨item, rest, -, -, h⟩ := startBus_cases u <;> rw [h] <;> rfl

/-- The start of an item loses none that waits. -/
theorem Queued.startBus {item : BusItem} (h : Queued item u) : Queued item (startBus u) := by
  obtain e | ⟨head, rest, ho, hq, e⟩ := startBus_cases u
  · rw [e]; exact h
  · rw [e]
    rcases h with h | h
    · rw [hq] at h
      exact (List.mem_cons.mp h).elim (fun h => .inr (by rw [h])) .inl
    · rw [ho] at h; cases h

/-- The start of an item brings none into the queue. -/
theorem mem_of_startBus {item : BusItem} (h : item ∈ (startBus u).busQueue) : item ∈ u.busQueue := by
  obtain e | ⟨head, rest, -, hq, e⟩ := startBus_cases u
  · rwa [e] at h
  · rw [e] at h; rw [hq]; exact List.mem_cons_of_mem _ h

/-! ### An item ends or joins (R36) -/

theorem busOnly_endBus (u : Units) : BusOnly u (endBus u) := BusOnly.trans (v := { u with busOp := none }) rfl (busOnly_startBus _)

theorem endBus_empty (h : u.busQueue = []) : (endBus u).busOp = none := by rw [endBus, startBus_empty (u := { u with busOp := none }) h]

theorem mem_of_endBus {item : BusItem} (h : item ∈ (endBus u).busQueue) : item ∈ u.busQueue :=
  mem_of_startBus (u := { u with busOp := none }) h

theorem busOnly_queueBus (item : BusItem) (u : Units) : BusOnly u (queueBus item u) := by
  rw [queueBus]
  split
  · exact busOnly_startBus u
  · exact BusOnly.trans (v := { u with busQueue := u.busQueue ++ [item] }) rfl (busOnly_startBus _)

/-- An item that joins waits or has started. -/
theorem queued_queueBus (item : BusItem) (u : Units) : Queued item (queueBus item u) := by
  rw [queueBus]
  split
  · next h => exact Queued.startBus (.inl (by simpa using h))
  · exact Queued.startBus (.inl (by simp))

/-- The others wait on. -/
theorem Queued.queueBus {item : BusItem} (h : Queued item u) (other : BusItem) : Queued item (queueBus other u) := by
  rw [Machine.queueBus]
  split
  · exact h.startBus
  · exact Queued.startBus (h.imp (fun h => List.mem_append_left _ h) id)

/-- An item joins a busy bus at the end of its queue. -/
theorem queueBus_busy {item : BusItem} {op : BusOp} (ho : u.busOp = some op) (h : item ∉ u.busQueue) :
    queueBus item u = { u with busQueue := u.busQueue ++ [item] } := by
  rw [queueBus, if_neg (by simpa using h)]
  exact startBus_busy ho

/-! ### Polls (R104) -/

theorem busOnly_pollSensors (c : Ctx) (u : Units) : BusOnly { u with pollTimer := startTimer c Config.poll } (pollSensors c u) :=
  List.foldlRecOn (motive := BusOnly _) _ _ (.refl _) (fun v hv k _ => hv.trans (busOnly_queueBus (.poll k) v))

theorem pollSensors_timer (c : Ctx) (u : Units) : (pollSensors c u).pollTimer = some (c.now + 1000) := (busOnly_pollSensors c u).pollTimer

/-- The expiry of the poll timer changes nothing but the timer and the module bus. -/
theorem pollSensors_only (c : Ctx) (u : Units) : pollSensors c u = { u with
    busQueue := (pollSensors c u).busQueue, busOp := (pollSensors c u).busOp, pollTimer := (pollSensors c u).pollTimer } := by
  have only := busOnly_pollSensors c u
  have timer := only.pollTimer
  generalize pollSensors c u = v at only timer
  rw [timer]
  exact only

/-- Every sensor's poll waits or has started. -/
theorem queued_pollSensors (c : Ctx) (u : Units) (k : Fin 4) : Queued (.poll k) (pollSensors c u) :=
  foldl_turn (P := fun _ => True) (Q := Queued (.poll k)) (fun _ _ _ _ => trivial) (fun v _ => queued_queueBus _ v)
    (fun _ _ _ hv => hv.queueBus _) (List.nodup_finRange 4) (mem_indices k) trivial

/-- Polls join a busy bus one behind the other. -/
theorem foldl_queueBus_busy {op : BusOp} {l : List (Fin 4)} (hl : l.Nodup) (ho : u.busOp = some op)
    (h : ∀ k ∈ l, BusItem.poll k ∉ u.busQueue) :
    (l.foldl (fun u k => queueBus (.poll k) u) u).busQueue = u.busQueue ++ l.map .poll := by
  induction l generalizing u with
  | nil => simp
  | cons k rest ih =>
    obtain ⟨hk, hrest⟩ := List.nodup_cons.mp hl
    rw [List.foldl_cons, queueBus_busy ho (h k (by simp)), ih (u := { u with busQueue := u.busQueue ++ [.poll k] }) hrest ho (fun j hj => ?_)]
    · simp
    · have hne : j ≠ k := fun e => hk (e ▸ hj)
      simpa [hne] using h j (List.mem_cons_of_mem _ hj)

theorem pollSensors_busy {op : BusOp} (ho : u.busOp = some op) (h : ∀ k, BusItem.poll k ∉ u.busQueue) :
    (pollSensors c u).busQueue = u.busQueue ++ [.poll 0, .poll 1, .poll 2, .poll 3] :=
  foldl_queueBus_busy (u := { u with pollTimer := startTimer c Config.poll }) (List.nodup_finRange 4) ho (fun k _ => h k)

/-- The sensor's part of a poll that brings a value of the accepted range (R104). -/
theorem sensorResult_value (x : Sensor) {b : BitVec 8} (h : -40 ≤ b.toInt) :
    sensorResult x (some b) = { value := some b.toInt, fails := 0, stale := false } := by
  have hb : b.toInt ≤ 127 := by have := BitVec.toInt_lt (x := b); omega
  simp [sensorResult, isTemp, h, hb]

/-- And of one that brings none. -/
theorem sensorResult_failure (x : Sensor) {value : Option (BitVec 8)} (h : ∀ b, value = some b → b.toInt < -40) :
    sensorResult x value = { x with fails := min 3 (x.fails + 1), stale := x.stale || decide (3 ≤ x.fails + 1) } := by
  cases value with
  | none => rfl
  | some b =>
    have hb : ¬ -40 ≤ b.toInt := by have := h b rfl; omega
    simp [sensorResult, isTemp, hb]

/-- The units when a poll has ended and its item is still in flight. -/
def polled (k : Fin 4) (value : Option (BitVec 8)) (u : Units) : Units :=
  let new := sensorResult (u.sensors.get k) value
  let v := { u with sensors := updAt u.sensors k (fun _ => new) }
  if new.stale && !(u.sensors.get k).stale then setChassisBit .sensorStale v else v

theorem pollEnds_eq {k : Fin 4} (value : Option (BitVec 8)) (h : u.busOp = some (.poll k)) : pollEnds value u = endBus (polled k value u) := by
  simp only [pollEnds, h, polled]

/-- A poll's end changes the sensors and the event word alone. -/
theorem polled_only (k : Fin 4) (value : Option (BitVec 8)) (u : Units) : polled k value u =
    { u with sensors := (polled k value u).sensors, chassisEvent := (polled k value u).chassisEvent } := by
  unfold polled
  dsimp only
  split <;> rfl

/-- A poll's end, and the start of the next item, change nothing but sensors, event word and module bus. -/
theorem pollEnds_only {k : Fin 4} (value : Option (BitVec 8)) (h : u.busOp = some (.poll k)) : pollEnds value u = { u with
    sensors := (pollEnds value u).sensors, chassisEvent := (pollEnds value u).chassisEvent,
    busQueue := (pollEnds value u).busQueue, busOp := (pollEnds value u).busOp } := by
  have only := busOnly_endBus (polled k value u)
  have part := polled_only k value u
  rw [pollEnds_eq value h]
  generalize endBus (polled k value u) = w at only
  generalize polled k value u = v at only part
  rw [only.sensors, only.chassisEvent]
  exact Eq.trans only (congrArg (fun x : Units => { x with busQueue := w.busQueue, busOp := w.busOp }) part)

theorem pollEnds_sensors {k : Fin 4} (value : Option (BitVec 8)) (h : u.busOp = some (.poll k)) (j : Fin 4) :
    (pollEnds value u).sensors.get j = if k = j then sensorResult (u.sensors.get k) value else u.sensors.get j := by
  have e : (polled k value u).sensors = updAt u.sensors k (fun _ => sensorResult (u.sensors.get k) value) := by
    unfold polled
    dsimp only
    split <;> rfl
  rw [pollEnds_eq value h, (busOnly_endBus _).sensors, e, updAt_get]

/-- A sensor that turns stale sets SENSOR_STALE. -/
theorem pollEnds_stale {k : Fin 4} (value : Option (BitVec 8)) (h : u.busOp = some (.poll k))
    (hnew : (sensorResult (u.sensors.get k) value).stale = true) (hold : (u.sensors.get k).stale = false) :
    chassisFlag (pollEnds value u) .sensorStale = true := by
  rw [pollEnds_eq value h, chassisFlag, (busOnly_endBus _).chassisEvent]
  simp only [polled, hnew, hold, Bool.not_false, Bool.and_self, if_true]
  exact setChassisBit_flag _ _

theorem pollEnds_idle {k : Fin 4} (value : Option (BitVec 8)) (h : u.busOp = some (.poll k)) (hq : u.busQueue = []) :
    (pollEnds value u).busOp = none := by
  rw [pollEnds_eq value h]
  refine endBus_empty ?_
  rw [polled_only]; exact hq

end

end Sys2Proof.Machine
end

section
open Sys2Proof Sys2Proof.Machine

/-- Settles O45: the polls join the queue one by one (`queued_pollSensors`, `foldl_queueBus_busy`); a poll's end is the sensor's result
(`polled_sensors`) and the start of the next item. -/
theorem sensorsArePolled : Obligations.SensorsArePolled := by
  refine ⟨fun s d h => ?_, fun s k value h => ?_⟩
  · have run := done_atTimer_act s pollSensors h
    have timer := pollSensors_timer (atDeadline s.ctx d) s.units
    have only := pollSensors_only (atDeadline s.ctx d) s.units
    have queued := queued_pollSensors (atDeadline s.ctx d) s.units
    have busy {op : BusOp} := pollSensors_busy (u := s.units) (c := atDeadline s.ctx d) (op := op)
    generalize pollSensors (atDeadline s.ctx d) s.units = v at run timer only queued busy
    exact ⟨_, run, rfl, after_sameOutside _ _ _ rfl rfl, timer, congrArg Units.settled only, queued, fun _ => busy⟩
  · have run : exec (.sensorPollEnd value) s = .next (s.after s.ctx (pollEnds value s.units)) := rfl
    have only := pollEnds_only value h
    have sensors := pollEnds_sensors value h
    have stale := pollEnds_stale value h
    have idle := pollEnds_idle value h
    generalize pollEnds value s.units = v at run only sensors stale idle
    refine ⟨_, run, rfl, after_sameOutside _ _ _ rfl rfl, fun b hb hlow => ?_, fun hfail => ⟨?_, fun hf hs => ?_⟩, fun j hj => ?_,
      congrArg Units.settled only, idle⟩
    · exact (sensors k).trans (by rw [if_pos rfl, hb, sensorResult_value _ hlow])
    · exact (sensors k).trans (by rw [if_pos rfl, sensorResult_failure _ hfail])
    · exact stale (by rw [sensorResult_failure _ hfail]; simp [hf]) hs
    · exact (sensors j).trans (if_neg (Ne.symm hj))
end

section
/-! PROOFS. A change of an inventory entry (R29, R33, R34): what its reports, the promotions it brings and the re-check leave alone, so that
the entry itself, the entries that are no duplicates, module bus, sensors and crossbar are as the event has made them. -/

namespace Sys2Proof.Machine

/-- Link errors, sensors, crossbar and module bus stay, entries that a re-check leaves alone stay, and event bits stay set. -/
structure Undisturbed (u v : Units) : Prop where
  linkErr : v.linkErr = u.linkErr
  sensors : v.sensors = u.sensors
  xbar : v.xbar = u.xbar
  busQueue : v.busQueue = u.busQueue
  busOp : v.busOp = u.busOp
  inv : ∀ i, Kept u i → v.inv.get i = u.inv.get i
  chassisBits : ∀ b, chassisFlag u b = true → chassisFlag v b = true

section
variable {u v w : Units} {c : Ctx} {n : Fin 12}

theorem Undisturbed.refl (u : Units) : Undisturbed u u := ⟨rfl, rfl, rfl, rfl, rfl, fun _ _ => rfl, fun _ h => h⟩

theorem Undisturbed.trans (a : Undisturbed u v) (b : Undisturbed v w) : Undisturbed u w where
  linkErr := b.linkErr.trans a.linkErr
  sensors := b.sensors.trans a.sensors
  xbar := b.xbar.trans a.xbar
  busQueue := b.busQueue.trans a.busQueue
  busOp := b.busOp.trans a.busOp
  inv i h := (b.inv i (kept_mono a.inv h)).trans (a.inv i h)
  chassisBits x h := b.chassisBits x (a.chassisBits x h)

theorem Undisturbed.foldl {α : Type} {f : Units → α → Units} (h : ∀ u a, Undisturbed u (f u a)) (l : List α) (u : Units) :
    Undisturbed u (l.foldl f u) :=
  List.foldlRecOn (motive := Undisturbed u) l f (.refl u) (fun v hv a _ => hv.trans (h v a))

theorem Undisturbed.ite {p : Prop} [Decidable p] (a : Undisturbed u v) (b : Undisturbed u w) : Undisturbed u (if p then v else w) := by
  split <;> assumption

theorem Frame.undisturbed (h : Frame u v) : Undisturbed u v :=
  ⟨h.linkErr, h.sensors, h.xbar, h.busQueue, h.busOp, fun _ _ => by rw [h.inv], h.chassisBits⟩

theorem Wired.undisturbed (h : Wired u v) : Undisturbed u v :=
  ⟨h.linkErr, h.sensors, h.view Units.xbar, h.view Units.busQueue, h.view Units.busOp, fun _ _ => by rw [h.inv],
    fun b hb => by rw [chassisFlag, h.chassisEvent]; exact hb⟩

theorem undisturbed_setSlotBit (b : SlotBit) : Undisturbed u (setSlotBit n b u) := (fix_setSlotBit (P := fun _ => True) b).frame.undisturbed

theorem undisturbed_setChassisBit (b : ChassisBit) : Undisturbed u (setChassisBit b u) :=
  (fix_setChassisBit (P := fun _ => True) b).frame.undisturbed

theorem undisturbed_updSlot (f : Slot → Slot) : Undisturbed u (u.updSlot n f) := (frame_updSlot f).undisturbed

/-! ### Ports -/

theorem undisturbed_failover (ch : Fin 32) : Undisturbed u (failover c ch u) := by
  rw [failover]
  split
  · next h => exact (wired_replaceChan h).undisturbed
  · dsimp only
    split
    · exact (wired_updChan ch _).undisturbed.trans (undisturbed_setSlotBit _)
    · exact (wired_updChan ch _).undisturbed

theorem undisturbed_holderLost : Undisturbed u (holderLost n u) := .ite (undisturbed_updSlot _) (.refl u)

theorem undisturbed_leavePlace (ch : Fin 32) : Undisturbed u (leavePlace c ch u) := by
  have drop : Undisturbed u (match (u.chans.get ch).held with
      | some (n, _) =>
        let v := holderLost n (setSlotBit n .uplinkStranded (updChan ch (vacate .unavailable) u))
        if (v.slot n).state = .on then syncWait n v else v
      | none => u) := by
    split
    · next n _ _ =>
      have h : Undisturbed u (holderLost n (setSlotBit n .uplinkStranded (updChan ch (vacate .unavailable) u))) :=
        ((wired_updChan ch _).undisturbed.trans (undisturbed_setSlotBit _)).trans undisturbed_holderLost
      exact .ite (h.trans wired_syncWait.undisturbed) h
    · exact .refl u
  rw [leavePlace]
  dsimp only
  split
  iterate 2
    split
    · next h => exact (wired_replaceChan h).undisturbed
    · exact drop
  · exact drop
  · exact (wired_updChan ch _).undisturbed
  · exact .refl u

theorem undisturbed_portLeavesUse (p : Fin 4) : Undisturbed u (portLeavesUse c p u) := by
  rw [portLeavesUse]
  exact (wired_commands _ _).undisturbed.trans ((Undisturbed.foldl (fun _ ch => undisturbed_leavePlace ch) _ _).trans
    (Wired.foldl (fun _ ch => wired_putChan ch _) _ _).undisturbed)

theorem undisturbed_portDown (p : Fin 4) : Undisturbed u (portDown c p u) := by
  rw [portDown]
  exact (Undisturbed.foldl (fun _ ch => .ite (undisturbed_failover ch) (.refl _)) _ _).trans
    ((Wired.foldl (fun _ ch => .ite (wired_updChan ch _) (.refl _)) _ _).trans wired_disableIdle).undisturbed

theorem wired_serveIf (call : Bool) : Wired u (serveIf c call u) := .ite wired_serveWait (.refl u)

theorem undisturbed_derivePort (p : Fin 4) : Undisturbed u (derivePort c p u) := by
  rw [derivePort]
  generalize portStateOf c u p = new
  refine .ite (.refl u) ?_
  let v := if (u.ports.get p).state = .up ∧ new = .down then setChassisBit .uplinkDown (u.updPort p (fun x => { x with state := new }))
    else u.updPort p (fun x => { x with state := new })
  have h1 : Undisturbed u v :=
    .ite ((wired_updPort p _).undisturbed.trans (undisturbed_setChassisBit _)) (wired_updPort p _).undisturbed
  refine .ite h1 (h1.trans ?_)
  show Undisturbed v _
  split
  · exact undisturbed_portDown p
  · exact (linked_portUp p).wired.undisturbed
  · exact ((wired_portComesIntoUse p).trans wired_serveWait).undisturbed
  · exact (wired_portComesIntoUse p).undisturbed
  · exact (undisturbed_portLeavesUse p).trans (wired_disableIdle.trans (wired_serveIf _)).undisturbed
  · exact .refl v

/-- A read of an uplink position has ended (R38, R144). -/
theorem undisturbed_uplinkReadDone (p : Fin 4) : Undisturbed u (uplinkReadDone c p u) := by
  rw [uplinkReadDone]
  split
  · exact .refl u
  · next count power _ =>
    refine .ite (.refl u) ?_
    dsimp only
    refine Undisturbed.trans (.ite ?_ ?_) ((wired_updPort p _).trans (wired_serveIf _)).undisturbed
    · exact (Wired.foldl (fun _ ch => .ite (wired_updChan ch _) (.refl _)) _ u).undisturbed
    · exact ((wired_updPort p _).undisturbed.trans (undisturbed_portLeavesUse p)).trans
        ((wired_disableIdle.trans (wired_updPort p _)).trans (wired_portComesIntoUse p)).undisturbed

/-! ### Reports and promotions -/

/-- Supplies, fans and zones are none of what `Undisturbed` speaks of. -/
theorem undisturbed_records (s : Vector Supply 4) (f : Vector Fan 6) (z : Vector Zone 3) :
    Undisturbed u { u with supplies := s, fans := f, zones := z } := ⟨rfl, rfl, rfl, rfl, rfl, fun _ _ => rfl, fun _ h => h⟩

theorem undisturbed_deriveSupply (k : Fin 4) : Undisturbed u (deriveSupply c k u) := by
  have h1 (s : Vector Supply 4) : Undisturbed u { u with supplies := s } := undisturbed_records s u.fans u.zones
  rw [deriveSupply]
  exact .ite ((h1 _).trans (undisturbed_setChassisBit _)) (.ite ((h1 _).trans (undisturbed_setChassisBit _)) (h1 _))

theorem undisturbed_deriveFan (k : Fin 6) : Undisturbed u (deriveFan c k u) := undisturbed_records u.supplies _ _

theorem undisturbed_reportEntry (i : Fin 26) : Undisturbed u (reportEntry c i u) := by
  rw [reportEntry]
  split
  · exact .refl u
  · split
    · exact undisturbed_deriveSupply _
    · split
      · exact undisturbed_deriveFan _
      · exact undisturbed_derivePort _

theorem undisturbed_reportChange (i : Fin 26) (old e : Entry) : Undisturbed u (reportChange c i old e u) :=
  .ite (.refl u) (undisturbed_reportEntry i)

theorem undisturbed_clearMark : Undisturbed u (clearMark c n u) := by
  rw [clearMark]
  refine .ite ?_ (.refl u)
  have h1 (l : List (Fin 32)) := (undisturbed_updSlot (u := u) (n := n) (fun x => { x with unvalidated := false })).trans
    (wired_releases (c := c) l).undisturbed
  have h2 (l : List (Fin 32)) (f : Slot → Slot) := (h1 l).trans (undisturbed_updSlot (n := n) f)
  exact .ite ((h2 _ _).trans (wired_upWait _).undisturbed) (h2 _ _)

theorem undisturbed_promoted (i : Fin 26) : Undisturbed u (promoted c i u) := by
  rw [promoted]
  split
  · exact .refl u
  · exact Undisturbed.trans (.ite (undisturbed_updSlot _) (.refl u)) undisturbed_clearMark

/-! ### The re-check (R34) -/

section stored
variable (i : Fin 26) (e : Entry)
@[simp] theorem storeEntry_xbar : (storeEntry i e u).xbar = u.xbar := storeEntry_view _ (fun _ _ _ _ => rfl) i e u
@[simp] theorem storeEntry_busQueue : (storeEntry i e u).busQueue = u.busQueue := storeEntry_view _ (fun _ _ _ _ => rfl) i e u
@[simp] theorem storeEntry_busOp : (storeEntry i e u).busOp = u.busOp := storeEntry_view _ (fun _ _ _ _ => rfl) i e u
end stored

theorem undisturbed_storeEntry {i : Fin 26} (e : Entry) (hk : ¬ Kept u i) : Undisturbed u (storeEntry i e u) where
  linkErr := storeEntry_linkErr i e
  sensors := storeEntry_sensors i e
  xbar := storeEntry_xbar i e
  busQueue := storeEntry_busQueue i e
  busOp := storeEntry_busOp i e
  inv _ hj := storeEntry_other i e (fun h => hk (h ▸ hj))
  chassisBits _ h := storeEntry_chassisBits i e h

theorem undisturbed_recheck (l : List (Fin 26)) : Undisturbed u (recheck c l u) := by
  rw [recheck]
  refine Undisturbed.foldl (fun u i => ?_) l u
  dsimp only
  split
  · next h =>
    obtain ⟨hd, hk⟩ := h
    have hn : ¬ Kept u i := by simp_all [Kept]
    refine Undisturbed.trans (v := putEntry c i { u.inv.get i with state := .valid } u) ?_ (undisturbed_promoted i)
    exact .ite (.refl u) ((undisturbed_storeEntry _ hn).trans (undisturbed_reportEntry i))
  · exact .refl u

/-! ### A changed entry -/

/-- What follows the storing of an entry: its report and the re-check. -/
theorem undisturbed_changeThen {i : Fin 26} (e : Entry) {report : Units → Units} (hr : ∀ v, Undisturbed v (report v)) :
    Undisturbed (storeEntry i e u) (changeThen c i e report u) := by
  rw [changeThen]
  exact .ite (((undisturbed_recheck _).trans (hr _)).trans (undisturbed_recheck _)) (hr _)

theorem undisturbed_changeEntry (i : Fin 26) (e : Entry) : Undisturbed (storeEntry i e u) (changeEntry c i e u) :=
  undisturbed_changeThen e (fun _ => undisturbed_reportChange i _ e)

theorem undisturbed_readEnds (b : Fin 14) (r : Validation) :
    Undisturbed (storeEntry (bayPos b) (validatedEntry u (bayPos b) r) u) (readEnds c b r u) := by
  rw [readEnds]
  refine undisturbed_changeThen _ (fun v => ?_)
  dsimp only
  split
  · exact (undisturbed_reportChange _ _ _).trans (undisturbed_uplinkReadDone _)
  · exact undisturbed_reportChange _ _ _

/-- All of an entry but the generation of its last change (R28, R29). -/
def SameContent (x e : Entry) : Prop := x.state = e.state ∧ x.reason = e.reason ∧ x.ident = e.ident ∧ x.inserts = e.inserts

/-- `v` comes of `u` by an event that has given entry `i` the content `e`. -/
structure EntryChanged (i : Fin 26) (e : Entry) (u v : Units) : Prop where
  content : SameContent (v.inv.get i) e
  others : ∀ j, j ≠ i → (u.inv.get j).state ≠ .duplicate → v.inv.get j = u.inv.get j
  sensors : v.sensors = u.sensors
  xbar : v.xbar = u.xbar
  linkErr : v.linkErr = u.linkErr
  chassisBits : ∀ b, chassisFlag u b = true → chassisFlag v b = true

/-- A stored entry keeps its content unless it is DUPLICATE with a free key. -/
theorem Undisturbed.changed {i : Fin 26} {e : Entry} (h : Undisturbed (storeEntry i e u) v)
    (he : e.state ≠ .duplicate ∨ keyTaken u i e.ident = true) : EntryChanged i e u v where
  content := by
    have stored : SameContent ((storeEntry i e u).inv.get i) e := storeEntry_self i e
    have hk : Kept (storeEntry i e u) i := by
      obtain ⟨hs, -, hi, -⟩ := stored
      rw [Kept, hs, hi, keyTaken_storeEntry]; exact he
    rw [h.inv i hk]; exact stored
  others j hj hd := by
    have stored := storeEntry_other (u := u) i e (Ne.symm hj)
    rw [h.inv j (.inl (by rw [stored]; exact hd)), stored]
  sensors := h.sensors.trans (storeEntry_sensors i e)
  xbar := h.xbar.trans (storeEntry_xbar i e)
  linkErr := h.linkErr.trans (storeEntry_linkErr i e)
  chassisBits b hb := h.chassisBits b (storeEntry_chassisBits i e hb)

section
variable {i : Fin 26} {e : Entry}

/-- The settling of the account follows the event. -/
theorem EntryChanged.frame (h : EntryChanged i e u v) (f : Frame v w) : EntryChanged i e u w where
  content := by rw [f.inv]; exact h.content
  others j hj hd := by rw [f.inv]; exact h.others j hj hd
  sensors := f.sensors.trans h.sensors
  xbar := f.xbar.trans h.xbar
  linkErr := f.linkErr.trans h.linkErr
  chassisBits b hb := f.chassisBits b (h.chassisBits b hb)

/-- The module bus goes on after the event. -/
theorem EntryChanged.busAfter (h : EntryChanged i e u v) (f : BusOnly v w) : EntryChanged i e u w where
  content := by rw [f.inv]; exact h.content
  others j hj hd := by rw [f.inv]; exact h.others j hj hd
  sensors := f.sensors.trans h.sensors
  xbar := f.xbar.trans h.xbar
  linkErr := f.linkErr.trans h.linkErr
  chassisBits b hb := by rw [chassisFlag, f.chassisEvent]; exact h.chassisBits b hb

/-- The module bus has acted before the event. -/
theorem EntryChanged.busBefore (h : EntryChanged i e v w) (f : BusOnly u v) : EntryChanged i e u w where
  content := h.content
  others j hj hd := by rw [h.others j hj (by rw [f.inv]; exact hd), f.inv]
  sensors := h.sensors.trans f.sensors
  xbar := h.xbar.trans f.xbar
  linkErr := h.linkErr.trans f.linkErr
  chassisBits b hb := h.chassisBits b (by rw [chassisFlag, f.chassisEvent]; exact hb)

end

end

end Sys2Proof.Machine
end

section
/-! PROOFS. Module presence (R35, R36, R39, R120) and identity reads (R37 to R39). -/

namespace Sys2Proof.Machine

section
variable {u v w : Units} {c : Ctx} {b : Fin 14}

/-! ### Identity reads -/

/-- A command that the units take without timer or filter. -/
theorem done_settle (s : State) (f : Ctx → Units → Units) :
    done s (actAndSettle f s) = .next (s.after s.ctx (settleAfter s.ctx s.units (f s.ctx s.units))) := rfl

theorem attemptEnds_waits {attempt : Nat} {r : AttemptResult} (ho : u.busOp = some (.read b attempt none false)) (ha : attempt < 3)
    (hr : attemptOk r = none) :
    attemptEnds c r u = { u with busOp := some (.read b attempt (startTimer c Config.retryDelay) false) } := by
  simp only [attemptEnds, ho, hr, ha, if_true, Bool.false_eq_true, if_false]

theorem attemptEnds_discarded {attempt : Nat} {r : AttemptResult} (ho : u.busOp = some (.read b attempt none true)) :
    attemptEnds c r u = endBus u := by
  simp only [attemptEnds, ho, if_true]

/-- The event of a module that does not answer (R37). -/
def busFault (r : AttemptResult) (u : Units) : Units := if lastFailure r = .unreadable then setChassisBit .moduleBusFault u else u

theorem attemptEnds_third {r : AttemptResult} (ho : u.busOp = some (.read b 3 none false)) (hr : attemptOk r = none) :
    attemptEnds c r u = endBus (readEnds c b (.error (lastFailure r)) (busFault r u)) := by
  simp only [attemptEnds, ho, hr, Bool.false_eq_true, if_false, Nat.lt_irrefl]
  rfl

theorem attemptEnds_good {attempt : Nat} {data : List Byte} (ho : u.busOp = some (.read b attempt none false))
    (hr : attemptOk (.bytes data) = some data) :
    attemptEnds c (.bytes data) u = endBus (readEnds c b (validateModule (bayPos b) data) u) := by
  simp only [attemptEnds, ho, hr, Bool.false_eq_true, if_false]

theorem busFault_frame (r : AttemptResult) (u : Units) : AllFix u (busFault r u) := fix_ite (fix_setChassisBit _) (.refl _ u)

theorem nextAttempt_eq {attempt d : Nat} (ho : u.busOp = some (.read b attempt (some d) false)) :
    nextAttempt u = { u with busOp := some (.read b (attempt + 1) none false) } := by
  rw [nextAttempt, ho]

theorem retryTimer_eq {attempt d : Nat} (ho : u.busOp = some (.read b attempt (some d) false)) : retryTimer u = some d := by
  rw [retryTimer, ho]

/-- A validated entry is DUPLICATE only while its key is taken (R33). -/
theorem validatedEntry_settled (u : Units) (i : Fin 26) (r : Validation) :
    (validatedEntry u i r).state ≠ .duplicate ∨ keyTaken u i (validatedEntry u i r).ident = true := by
  cases r with
  | error why => exact .inl (by simp [validatedEntry])
  | ok id => by_cases hk : keyTaken u i id = true <;> simp [validatedEntry, hk]

/-- The end of a read, once the account is settled: the entry has the content that the validation gives, and the next item starts. -/
theorem readEnds_settled (r : Validation) (x : Units) :
    let t := (settleAfter c x (endBus (readEnds c b r u))).settled
    EntryChanged (bayPos b) (validatedEntry u (bayPos b) r) u t ∧ (u.busQueue = [] → t.busOp = none) := by
  have h := undisturbed_readEnds (c := c) (u := u) b r
  have fr := (settleAfter_keeps (c := c) (u := x) (v := endBus (readEnds c b r u))).frame.settled
  refine ⟨((h.changed (validatedEntry_settled u _ r)).busAfter (busOnly_endBus _)).frame fr, fun hq => ?_⟩
  rw [fr.busOp]
  exact endBus_empty (by rw [h.busQueue, storeEntry_busQueue, hq])

/-! ### The report of a module position -/

theorem reportEntry_supply (k : Fin 4) : reportEntry c (bayPos (supplyBay k)) u = deriveSupply c k u := by
  simp [reportEntry, posBay, bayPos, supplyBay]

theorem reportEntry_fan (f : Fin 6) : reportEntry c (bayPos (fanBay f)) u = deriveFan c f u := by
  have h : f.val + 4 < 10 := by omega
  simp [reportEntry, posBay, bayPos, fanBay, h]

theorem deriveSupply_absent {k : Fin 4} (h : bayLevel c (supplyBay k) = false) :
    ((deriveSupply c k u).supplies.get k).state = .absent ∧ ((deriveSupply c k u).supplies.get k).counted = 0 := by
  have hs (ok : Bool) (e : EntryState) : supplyStateOf false ok e = .absent := rfl
  simp only [deriveSupply, h, hs]
  split
  · simp [setChassisBit]
  · split <;> simp [setChassisBit]

theorem deriveFan_absent {f : Fin 6} (h : bayLevel c (fanBay f) = false) : ((deriveFan c f u).fans.get f).state = .absent := by
  simp [deriveFan, h, reEstimate, Units.updZone, fanStateOf]

/-- A generator at rest holds its output inactive, the others go on (R120). -/
theorem restGens_output (u : Units) (p : Pwm) (f : Fin 6) (i : Fin 4) (k : Nat) : (restGens u p).output f i k =
    if (u.fans.get f).state = .absent then p.running && p.polarity.testBit f.val else p.output f i k := by
  rw [Pwm.output, restGens]
  simp only [ofFn_get]
  split
  · simp [Gen.highTime, Gen.reset]
  · rfl

theorem bayLevel_shown (s : State) (level : Bool) (d : Nat) : bayLevel (Shown s (.bay b) level d) b = level := by
  simp [bayLevel, Shown, updFilter]

/-! ### The read of a module that has left (R39) -/

theorem discardRead_running {a : Nat} (h : u.busOp = some (.read b a none false)) :
    discardRead b u = { u with busOp := some (.read b a none true) } := by
  simp [discardRead, h]

theorem busOnly_discardRead (b : Fin 14) (u : Units) : BusOnly u (discardRead b u) := by
  rw [discardRead]
  split
  · split
    · exact .refl u
    · split
      · exact busOnly_endBus u
      · rfl
  · exact .refl u

theorem mem_of_discardRead {item : BusItem} (h : item ∈ (discardRead b u).busQueue) : item ∈ u.busQueue := by
  rw [discardRead] at h
  split at h
  · split at h
    · exact h
    · split at h
      · exact mem_of_endBus h
      · exact h
  · exact h

/-- The units with the reads of a bay gone from the queue and the one in flight discarded. -/
def readsGone (b : Fin 14) (u : Units) : Units := discardRead b { u with busQueue := u.busQueue.filter (· != .read b) }

theorem busOnly_readsGone (b : Fin 14) (u : Units) : BusOnly u (readsGone b u) :=
  BusOnly.trans (v := { u with busQueue := u.busQueue.filter (· != .read b) }) rfl (busOnly_discardRead b _)

theorem readsGone_queue (b : Fin 14) (u : Units) : BusItem.read b ∉ (readsGone b u).busQueue := fun h => by
  simpa using mem_of_discardRead h

theorem readsGone_running {a : Nat} (h : u.busOp = some (.read b a none false)) :
    (readsGone b u).busOp = some (.read b a none true) := by
  rw [readsGone, discardRead_running (u := { u with busQueue := u.busQueue.filter (· != .read b) }) h]

/-! ### A position changes and is reported -/

/-- The change of an entry with its report, whether it differs or not (R35). -/
def changedAndReported (c : Ctx) (i : Fin 26) (e : Entry) (u : Units) : Units := reportEntry c i (changeEntry c i e u)

theorem moduleLeaves_eq (c : Ctx) (b : Fin 14) (u : Units) :
    moduleLeaves c b u = changedAndReported c (bayPos b) (absentEntry (u.inv.get (bayPos b))) (readsGone b u) := rfl

theorem undisturbed_changedAndReported (i : Fin 26) (e : Entry) : Undisturbed (storeEntry i e u) (changedAndReported c i e u) :=
  (undisturbed_changeEntry i e).trans (undisturbed_reportEntry i)

theorem moduleArrives_changed : EntryChanged (bayPos b) (unreadEntry (u.inv.get (bayPos b))) u (moduleArrives c b u) :=
  ((undisturbed_changedAndReported _ _).changed (.inl (unreadEntry_state _))).busAfter (busOnly_queueBus _ _)

theorem moduleLeaves_undisturbed : Undisturbed (storeEntry (bayPos b) (absentEntry (u.inv.get (bayPos b))) (readsGone b u))
    (moduleLeaves c b u) := undisturbed_changedAndReported _ _

theorem moduleLeaves_changed : EntryChanged (bayPos b) (absentEntry (u.inv.get (bayPos b))) u (moduleLeaves c b u) :=
  (moduleLeaves_undisturbed.changed (.inl (absentEntry_state _))).busBefore (busOnly_readsGone b u)

theorem moduleLeaves_queue : BusItem.read b ∉ (moduleLeaves c b u).busQueue := by
  rw [moduleLeaves_undisturbed.busQueue, storeEntry_busQueue]
  exact readsGone_queue b u

theorem moduleLeaves_running {a : Nat} (h : u.busOp = some (.read b a none false)) :
    (moduleLeaves c b u).busOp = some (.read b a none true) := by
  rw [moduleLeaves_undisturbed.busOp, storeEntry_busOp]
  exact readsGone_running h

/-- A supply that has left is ABSENT and counts nothing (R44). -/
theorem moduleLeaves_supply {k : Fin 4} (h : bayLevel c (supplyBay k) = false) :
    ((moduleLeaves c (supplyBay k) u).supplies.get k).state = .absent ∧ ((moduleLeaves c (supplyBay k) u).supplies.get k).counted = 0 := by
  rw [moduleLeaves_eq, changedAndReported, reportEntry_supply]
  exact deriveSupply_absent h

/-- A fan that has left is ABSENT (R111). -/
theorem moduleLeaves_fan {f : Fin 6} (h : bayLevel c (fanBay f) = false) : ((moduleLeaves c (fanBay f) u).fans.get f).state = .absent := by
  rw [moduleLeaves_eq, changedAndReported, reportEntry_fan]
  exact deriveFan_absent h

/-- MODULE_LOSS acts on the units, and the generators rest by the fan states that this leaves (R35, R120). -/
theorem exec_moduleLoss {s : State} {d : Nat} (h : Waits s (.bay b) false d) : ∃ t, exec (.moduleLoss b) s = .next t
    ∧ t.ctx = Shown s (.bay b) false d ∧ SameOutside s { t with pwm := s.pwm } ∧ t.pwm = restGens t.units s.pwm
    ∧ t.units = (settleAfter (Shown s (.bay b) false d) s.units (moduleLeaves (Shown s (.bay b) false d) b s.units)).settled := by
  refine ⟨finish s (moduleLost b { s with ctx := Shown s (.bay b) false d }), ?_, rfl,
    ⟨rfl, rfl, rfl, rfl, rfl, rfl, rfl, rfl, rfl, rfl, rfl, rfl, rfl⟩, rfl, rfl⟩
  show done s (onPin _ _ _ s) = _
  rw [onPin_waits h]
  rfl

end

end Sys2Proof.Machine
end

section
open Sys2Proof Sys2Proof.Machine

/-- Settles O43, by the result of the attempt: only the module bus changes, or the read ends with a validation (`readEnds_settled`). -/
theorem identityReadHasThreeAttempts : Obligations.IdentityReadHasThreeAttempts := by
  refine ⟨fun s b attempt result ho ha hr => ?_, fun s b attempt d ho _ => ?_, fun s b attempt result ho => ?_,
    fun s b result ho hr => ?_, fun s b attempt data id ho hr hv => ?_⟩
  · refine ⟨_, done_settle s _, rfl, after_sameOutside _ _ _ rfl rfl, ?_⟩
    rw [after_units, attemptEnds_waits ho ha hr, BusOnly.settleAfter (busOnly_busOp _ _)]
    rfl
  · refine ⟨_, done_atTimer_act s _ (retryTimer_eq ho), rfl, after_sameOutside _ _ _ rfl rfl, ?_⟩
    rw [after_units, nextAttempt_eq ho]
    rfl
  · refine ⟨s.after s.ctx (endBus s.units), ?_, rfl, after_sameOutside _ _ _ rfl rfl, ?_, ?_, endBus_empty⟩
    · show Host.Outcome.next (s.after s.ctx (settleAfter s.ctx s.units (attemptEnds s.ctx result s.units))) = _
      rw [attemptEnds_discarded ho, (busOnly_endBus s.units).settleAfter]
    · exact (busOnly_endBus s.units).inv
    · exact congrArg Units.settled (busOnly_endBus s.units)
  · refine ⟨_, done_settle s _, rfl, after_sameOutside _ _ _ rfl rfl, ?_⟩
    rw [after_units, attemptEnds_third ho hr]
    obtain ⟨changed, idle⟩ := readEnds_settled (c := s.ctx) (b := b) (u := busFault result s.units) (.error (lastFailure result)) s.units
    obtain ⟨hstate, hreason, -, -⟩ := changed.content
    refine ⟨hstate, hreason.trans ?_, fun hf => changed.chassisBits _ ?_, fun hq => idle ?_⟩
    · cases result <;> rfl
    · rcases hf with rfl | rfl <;> exact setChassisBit_flag _ _
    · rw [(busFault_frame result s.units).frame.busQueue, hq]
  · refine ⟨_, done_settle s _, rfl, after_sameOutside _ _ _ rfl rfl, ?_⟩
    rw [after_units, attemptEnds_good ho hr, hv]
    obtain ⟨changed, idle⟩ := readEnds_settled (c := s.ctx) (b := b) (u := s.units) (.ok id) s.units
    obtain ⟨hstate, hreason, hident, -⟩ := changed.content
    exact ⟨hstate, hident, hreason, idle⟩

/-- Settles O41: the entry's change is stored and undisturbed by what follows (`moduleArrives_changed`, `moduleLeaves_changed`); the report of
a lost supply or fan makes it ABSENT, and the generators rest by that (`restGens_output`). -/
theorem modulePresenceSetsTheEntry : Obligations.ModulePresenceSetsTheEntry := by
  refine ⟨fun s b d h => ?_, fun s b d h => ?_⟩
  · have fr := (settleAfter_keeps (c := Shown s (.bay b) true d) (u := s.units)
      (v := moduleArrives (Shown s (.bay b) true d) b s.units)).frame.settled
    have changed := moduleArrives_changed.frame fr
    have queued : Queued (.read b) (moduleArrives (Shown s (.bay b) true d) b s.units) := queued_queueBus _ _
    refine ⟨_, done_onPin_settle s _ h, rfl, after_sameOutside _ _ _ rfl rfl, ?_⟩
    rw [after_units]
    obtain ⟨hstate, hreason, -, hinserts⟩ := changed.content
    refine ⟨hstate, hreason, hinserts, ?_, changed.others, changed.sensors, changed.xbar, changed.linkErr⟩
    rw [fr.busQueue, fr.busOp]
    exact queued
  · obtain ⟨t, run, ctx, same, pwm, units⟩ := exec_moduleLoss h
    have fr : Frame (moduleLeaves (Shown s (.bay b) false d) b s.units) t.units := by rw [units]; exact settleAfter_keeps.frame.settled
    have changed := moduleLeaves_changed.frame fr
    have gone : bayLevel (Shown s (.bay b) false d) b = false := bayLevel_shown s false d
    obtain ⟨hstate, hreason, -, hinserts⟩ := changed.content
    refine ⟨t, run, ctx, same, fun f hf => ?_, fun f hf i k => ?_, hstate, hreason, hinserts, ?_, fun a ha => ?_, fun k hk => ?_,
      changed.others, changed.sensors, changed.xbar, changed.linkErr⟩
    · subst hf
      have habsent : (t.units.fans.get f).state = .absent := by rw [fr.fans]; exact moduleLeaves_fan gone
      exact ⟨habsent, fun i k => by rw [pwm, restGens_output, if_pos habsent]⟩
    · rw [pwm, restGens_output, if_neg hf]
    · rw [fr.busQueue]; exact moduleLeaves_queue
    · rw [fr.busOp]; exact moduleLeaves_running ha
    · subst hk
      rw [fr.supplies]; exact moduleLeaves_supply gone
end

section
/-! PROOFS. The power account (R46, R47): its sums when one term changes, the redundancy policies, and what a supply gives to it (R43 to R45). -/

namespace Sys2Proof.Machine

section
variable {u v : Units} {c : Ctx}

/-! ### Sums -/

theorem sumOver_eq_sum {k : Nat} (f : Fin k → Nat) : sumOver k f = ∑ i, f i := (Fin.sum_univ_def f).symm

/-- When one entry alone changes, the sum changes by it. -/
theorem sumOver_change {k : Nat} {f g : Fin k → Nat} {i : Fin k} (h : ∀ j, j ≠ i → g j = f j) : sumOver k g + f i = sumOver k f + g i := by
  have others : ∑ j ∈ Finset.univ.erase i, g j = ∑ j ∈ Finset.univ.erase i, f j :=
    Finset.sum_congr rfl (fun j hj => h j (Finset.ne_of_mem_erase hj))
  rw [sumOver_eq_sum, sumOver_eq_sum, ← Finset.add_sum_erase _ _ (Finset.mem_univ i), ← Finset.add_sum_erase _ _ (Finset.mem_univ i), others]
  omega

/-! ### Redundancy (R46) -/

/-- What a supply gives to the sums of R46: its counted capacity while it is OK. -/
def okWatts (x : Supply) : Nat := if x.state == .ok then x.counted else 0

theorem okCapacity_eq (u : Units) (p : Fin 4 → Bool) : okCapacity u p = sumOver 4 (fun k => if p k then okWatts (u.supplies.get k) else 0) := by
  simp only [okCapacity, okWatts, Bool.and_eq_true, ite_and]

/-- Without supply `k` the capacity lacks what `k` gives. -/
theorem okCapacity_without (u : Units) (k : Fin 4) :
    okCapacity u (fun j => j != k) + okWatts (u.supplies.get k) = okCapacity u (fun _ => true) := by
  rw [okCapacity_eq, okCapacity_eq]
  have h := sumOver_change (i := k) (f := fun j => okWatts (u.supplies.get j)) (g := fun j => if j != k then okWatts (u.supplies.get j) else 0)
    (fun j hj => if_pos (by simpa using hj))
  simpa using h

/-- No supply gives more than the largest that N1 keeps back. -/
theorem okWatts_le_largest (u : Units) (k : Fin 4) : okWatts (u.supplies.get k) ≤ largestOk u := by
  have grows (j : Fin 4) (m : Nat) : m ≤ (if (u.supplies.get j).state == .ok then max m (u.supplies.get j).counted else m) := by
    split
    · exact le_max_left _ _
    · exact le_rfl
  refine foldl_turn (P := fun _ => True) (Q := fun m => okWatts (u.supplies.get k) ≤ m) (fun _ _ _ _ => trivial) (fun m _ => ?_)
    (fun m j _ h => h.trans (grows j m)) (List.nodup_finRange 4) (mem_indices k) trivial
  rw [okWatts]
  split
  · exact le_max_right _ _
  · exact Nat.zero_le m

theorem rawCapacity_single (h : policy c = 0) : rawCapacity c u = okCapacity u (fun _ => true) := if_pos h

/-- Under N1 what is left over without any one supply covers the raw capacity. -/
theorem rawCapacity_n1 (h : policy c = 1) (k : Fin 4) : rawCapacity c u ≤ okCapacity u (fun j => j != k) := by
  have total := okCapacity_without u k
  have largest := okWatts_le_largest u k
  simp only [rawCapacity, h, one_ne_zero, if_false, if_true]
  omega

/-- Under FEED each feed alone covers the raw capacity. -/
theorem rawCapacity_feed (h : policy c = 2) :
    rawCapacity c u ≤ okCapacity u onFeedA ∧ rawCapacity c u ≤ okCapacity u (fun k => !onFeedA k) := by
  simp only [rawCapacity, h, OfNat.ofNat_ne_zero, OfNat.ofNat_ne_one, if_false]
  exact ⟨min_le_left _ _, min_le_right _ _⟩

/-! ### The record of a supply (R43 to R45) -/

/-- The record that a supply's presence, entry and OK level give. -/
def supplyRecord (c : Ctx) (k : Fin 4) (u : Units) : Supply :=
  let e := u.inv.get (bayPos (supplyBay k))
  let state := supplyStateOf (bayLevel c (supplyBay k)) (psuOkLevel c k) e.state
  { state := state, identCap := supplyCapacity e, counted := if state = .ok then supplyCapacity e else 0 }

/-- The units with that record, before any event bit. -/
def withSupply (c : Ctx) (k : Fin 4) (u : Units) : Units := { u with supplies := updAt u.supplies k (fun _ => supplyRecord c k u) }

variable {k : Fin 4}

theorem deriveSupply_eq : deriveSupply c k u =
    if (u.supplies.get k).state = .ok ∧ (supplyRecord c k u).state = .failed then setChassisBit .supplyFail (withSupply c k u)
    else if (u.supplies.get k).state = .failed ∧ (supplyRecord c k u).state = .ok then setChassisBit .supplyReturn (withSupply c k u)
    else withSupply c k u := rfl

theorem fix_deriveSupply : AllFix (withSupply c k u) (deriveSupply c k u) := by
  rw [deriveSupply_eq]
  exact fix_ite (fix_setChassisBit _) (fix_ite (fix_setChassisBit _) (.refl _ _))

theorem deriveSupply_fails (ho : (u.supplies.get k).state = .ok) (hn : (supplyRecord c k u).state = .failed) :
    chassisFlag (deriveSupply c k u) .supplyFail = true := by
  rw [deriveSupply_eq, if_pos ⟨ho, hn⟩]
  exact setChassisBit_flag _ _

theorem deriveSupply_returns (ho : (u.supplies.get k).state = .failed) (hn : (supplyRecord c k u).state = .ok) :
    chassisFlag (deriveSupply c k u) .supplyReturn = true := by
  rw [deriveSupply_eq, if_neg (by simp [ho]), if_pos ⟨ho, hn⟩]
  exact setChassisBit_flag _ _

/-- A supply that is present and read follows its OK line (R44). -/
theorem supplyRecord_read (hb : bayLevel c (supplyBay k) = true)
    (he : (u.inv.get (bayPos (supplyBay k))).state ∈ [EntryState.valid, .invalid, .duplicate]) :
    (supplyRecord c k u).state = if psuOkLevel c k then .ok else .failed := by
  simp only [List.mem_cons, List.not_mem_nil, or_false] at he
  rcases he with he | he | he <;> simp only [supplyRecord, supplyStateOf, hb, he] <;> rfl

theorem supplyRecord_counted : (supplyRecord c k u).counted =
    if (supplyRecord c k u).state = .ok then supplyCapacity (u.inv.get (bayPos (supplyBay k))) else 0 := rfl

theorem psuOkLevel_shown (s : State) (k : Fin 4) (level : Bool) (d : Nat) : psuOkLevel (Shown s (.psuOk k) level d) k = level := by
  simp [psuOkLevel, Shown, updFilter]

/-- `t` is `u` with the record of supply `k` derived anew and the account settled. -/
structure SupplyTaken (c : Ctx) (k : Fin 4) (u t : Units) : Prop where
  record : t.supplies.get k = supplyRecord c k u
  others : ∀ j, j ≠ k → t.supplies.get j = u.supplies.get j
  frame : Frame { u with supplies := t.supplies } t
  slots : ∀ m, dark (u.slot m) = true → t.slot m = u.slot m
  bits : ∀ b, chassisFlag (deriveSupply c k u) b = true → chassisFlag t b = true

theorem supplyTaken_settled (x : Units) : SupplyTaken c k u (settleAfter c x (deriveSupply c k u)).settled := by
  have settles := settleAfter_keeps (c := c) (u := x) (v := deriveSupply c k u)
  have taken := fix_deriveSupply (c := c) (k := k) (u := u)
  have fr := taken.frame.trans settles.frame.settled
  have supplies : (settleAfter c x (deriveSupply c k u)).settled.supplies = updAt u.supplies k (fun _ => supplyRecord c k u) := fr.supplies
  have slot (m : Fin 12) : (deriveSupply c k u).slot m = u.slot m := taken.slots m trivial
  refine ⟨by rw [supplies, updAt_get_self], fun j hj => by rw [supplies, updAt_get_ne _ _ _ _ (Ne.symm hj)], ?_, fun m hm => ?_,
    settles.frame.settled.chassisBits⟩
  · rw [supplies]; exact fr
  · rw [settled_slot, settles.slots m (by rw [slot]; exact hm), slot]

/-- The OK line of a supply that is present and read takes a level (R44). -/
theorem done_psuOk {s : State} {level : Bool} {d : Nat} (h : Waits s (.psuOk k) level d) (hb : bayLevel s.ctx (supplyBay k) = true)
    (he : (s.units.inv.get (bayPos (supplyBay k))).state ∈ [EntryState.valid, .invalid, .duplicate]) :
    ∃ t, done s (onPin (.psuOk k) level (actAndSettle (fun c u => deriveSupply c k u)) s) = .next t
      ∧ t.ctx = Shown s (.psuOk k) level d ∧ SameOutside s t ∧ SupplyTaken (Shown s (.psuOk k) level d) k s.units t.units
      ∧ (supplyRecord (Shown s (.psuOk k) level d) k s.units).state = if level then .ok else .failed := by
  refine ⟨_, done_onPin_settle s _ h, rfl, after_sameOutside _ _ _ rfl rfl, supplyTaken_settled s.units, ?_⟩
  have present : bayLevel (Shown s (.psuOk k) level d) (supplyBay k) = true := hb
  rw [supplyRecord_read present he, psuOkLevel_shown]

end

end Sys2Proof.Machine
end

section
open Sys2Proof Sys2Proof.Machine

/-- Settles O42: an OK line's level gives the supply its record (`done_psuOk`); a policy's raw capacity is bounded by the sums that it
protects. -/
theorem supplyStateFollowsItsOkLine : Obligations.SupplyStateFollowsItsOkLine := by
  refine ⟨fun s k d hb he => ⟨fun h ho => ?_, fun h ho => ?_⟩,
    fun c u => ⟨rawCapacity_n1, rawCapacity_feed, rawCapacity_single, rfl⟩⟩
  · obtain ⟨t, run, ctx, same, taken, failed⟩ := done_psuOk h hb he
    refine ⟨t, run, ctx, same, ?_, ?_, taken.bits _ (deriveSupply_fails ho failed), taken.others, taken.frame, taken.slots⟩
    · rw [taken.record]; exact failed
    · rw [taken.record, supplyRecord_counted, failed]; rfl
  · obtain ⟨t, run, ctx, same, taken, ok⟩ := done_psuOk h hb he
    refine ⟨t, run, ctx, same, ?_, taken.bits _ (deriveSupply_returns ho ok), ?_, taken.others, taken.frame, taken.slots⟩
    · rw [taken.record]; exact ok
    · rw [taken.record, supplyRecord_counted, ok]; rfl
end

section
/-! PROOFS. The headroom under restoration, grants and port enables (R48, R56 to R59, R135): what one of them does not change is in `Budgeted`,
and what it adds to the two terms that it can raise is at most the headroom there is. -/

namespace Sys2Proof.Machine

section
variable {u v : Units} {c : Ctx} {n : Fin 12}

/-! ### The terms that a grant or a port enable raises -/

/-- The port term and the allowances: what restoration, grants and port enables add to (R47, R49). -/
def spent (u : Units) : Nat := portTerm u + committed u

/-- An operation on slot `n` alone adds to the terms what it adds to the slot's allowance. -/
theorem spent_slot (hp : v.ports = u.ports) (hs : ∀ m, m ≠ n → v.slot m = u.slot m) :
    spent v + (u.slot n).allowance = spent u + (v.slot n).allowance := by
  have slots : committed v + (u.slot n).allowance = committed u + (v.slot n).allowance :=
    sumOver_change (f := fun m => (u.slot m).allowance) (g := fun m => (v.slot m).allowance) (fun m hm => by rw [hs m hm])
  have ports : portTerm v = portTerm u := by rw [portTerm, hp, portTerm]
  rw [spent, spent, ports]
  omega

theorem usable_congr (h : v.supplies = u.supplies) : usable c v = usable c u := by
  simp only [usable, rawCapacity, okCapacity, largestOk, h]

/-- Restoration, grants and port enables pay from the headroom, and from nothing else. -/
theorem Budgeted.headroom (h : Budgeted u v) : headroom c v + spent v = Machine.headroom c u + spent u := by
  have seats : seatedCount v = seatedCount u := seatedCount_eq h.seated
  have fans : fanReservation v = fanReservation u := by rw [fanReservation, h.keeps.frame.zones, fanReservation]
  simp only [Machine.headroom, available, overhead, standbyReservation, spent, usable_congr h.keeps.frame.supplies, seats, fans]
  omega

/-- Whatever spends no more than the headroom leaves it at 0 or above. -/
theorem Budgeted.within (h : Budgeted u v) (hs : spent v ≤ spent u + (Machine.headroom c u).toNat) (h0 : 0 ≤ Machine.headroom c u) :
    0 ≤ Machine.headroom c v := by
  have kept := h.headroom (c := c)
  omega

/-! ### Restoration (R57) -/

theorem spent_restoreOne : spent (restoreOne c u n) ≤ spent u + (headroom c u).toNat := by
  have raised (w : Nat) : spent (setAllowance c n ((u.slot n).allowance + w) u) = spent u + w := by
    have h := spent_slot (u := u) (v := setAllowance c n ((u.slot n).allowance + w) u) rfl (only_setAllowance _).slots
    rw [setAllowance, updSlot_slot_self, newAllowance_allowance] at h
    rw [setAllowance]
    omega
  have cut := raised (min (cutOf (u.slot n)) (headroom c u).toNat)
  rw [restoreOne]
  split
  · omega
  · dsimp only
    split
    · exact cut.le.trans (by omega)
    · omega

theorem restoration_within (h0 : 0 ≤ headroom c u) : 0 ≤ headroom c (restoration c u) :=
  List.foldlRecOn (motive := fun v : Units => 0 ≤ headroom c v) _ _ h0 (fun _ hv _ _ => budgeted_restoreOne.within spent_restoreOne hv)

/-! ### Grants (R12, R59) -/

theorem releaseChan_ports (ch : Fin 32) : (releaseChan c ch u).ports = u.ports := by rw [releaseChan]; split <;> rfl

theorem releaseSlot_ports : (releaseSlot c n u).ports = u.ports :=
  List.foldlRecOn (motive := fun v : Units => v.ports = u.ports) _ _ rfl (fun _ hv ch _ => (releaseChan_ports ch).trans hv)

theorem powerOff_ports : (powerOff c n u).ports = u.ports := by
  rw [powerOff, updSlot_ports]
  exact releaseSlot_ports

theorem cutToFault_ports (r : FaultReason) : (cutToFault c n r u).ports = u.ports := by
  rw [cutToFault]
  split
  · show (powerOff c n u).ports = u.ports
    exact powerOff_ports
  · rfl

theorem startCharge_ports (w : Nat) : (startCharge c n w u).ports = u.ports := by
  rw [startCharge]
  split
  · exact cutToFault_ports _
  · split <;> rfl

/-- The slot has the granted watts, or has been cut at once. -/
theorem startCharge_allowance (w : Nat) : ((startCharge c n w u).slot n).allowance ≤ w := by
  rw [startCharge]
  split
  · rw [cutToFault_slot _ _ _ _ (by rw [updSlot_slot_self]; rfl)]
    exact Nat.zero_le w
  · split
    · rw [updSlot_slot_self, updSlot_slot_self]
      exact le_rfl
    · rw [updSlot_slot_self]

theorem spent_startCharge (w : Nat) : spent (startCharge c n w u) ≤ spent u + w := by
  have h := spent_slot (u := u) (v := startCharge c n w u) (startCharge_ports w) (only_startCharge w).slots
  have granted := startCharge_allowance (c := c) (u := u) (n := n) w
  omega

theorem spent_applyRaise (w : Nat) : spent (applyRaise c n w u) = spent u + w := by
  have h := spent_slot (u := u) (v := applyRaise c n w u) rfl (only_applyRaise w).slots
  have raised : ((applyRaise c n w u).slot n).allowance = (u.slot n).allowance + w := by
    rw [applyRaise, updSlot_slot_self]
    exact newAllowance_allowance _ _ _
  omega

theorem spent_applyGrant (e : WaitEntry) : spent (applyGrant c e u) ≤ spent u + e.watts := by
  rw [applyGrant]
  split
  · exact spent_startCharge _
  · exact (spent_applyRaise _).le
  · exact Nat.le_add_right _ _

theorem entryFits_watts {e : WaitEntry} (h : entryFits c u e = true) : (e.watts : Int) ≤ headroom c u := by
  rw [entryFits, Bool.and_eq_true] at h
  exact of_decide_eq_true h.1

theorem queueScan_within (fuel : Nat) (h0 : 0 ≤ headroom c u) : 0 ≤ headroom c (queueScan c fuel u) := by
  induction fuel generalizing u with
  | zero => exact h0
  | succ k ih =>
    rw [queueScan]
    split
    · exact h0
    · next gone e rest h =>
      have fits := entryFits_watts (findGrant_some h).2
      refine ih ((budgeted_applyGrant e).within ((spent_applyGrant e).trans ?_) (u := { u with waitQ := gone.map skipped ++ rest }) h0)
      show _ ≤ _ + (headroom c u).toNat
      omega

/-- R58: the entry granted is the first that fits, and none gone past has been gone past as often as `skips` allows. The accumulator holds the
entries gone past before, newest first. -/
theorem findGrant_iff {fits : WaitEntry → Bool} {skips : Nat} {acc q gone rest : List WaitEntry} {e : WaitEntry} :
    findGrant fits skips acc q = some (gone, e, rest) ↔
      ∃ l, gone = acc.reverse ++ l ∧ q = l ++ e :: rest ∧ fits e = true ∧ ∀ x ∈ l, fits x = false ∧ x.skips < skips := by
  induction q generalizing acc with
  | nil => simp [findGrant]
  | cons y ys ih =>
    rw [findGrant]
    by_cases hy : fits y = true
    · rw [if_pos hy, Option.some.injEq, Prod.mk.injEq, Prod.mk.injEq]
      constructor
      · rintro ⟨rfl, rfl, rfl⟩
        exact ⟨[], (List.append_nil _).symm, rfl, hy, fun x hx => absurd hx List.not_mem_nil⟩
      · rintro ⟨_ | ⟨x, l⟩, hg, hq, -, hl⟩
        · obtain ⟨rfl, rfl⟩ := List.cons.inj hq
          exact ⟨by simpa using hg.symm, rfl, rfl⟩
        · obtain ⟨rfl, -⟩ := List.cons.inj hq
          simp [(hl y List.mem_cons_self).1] at hy
    · rw [if_neg hy]
      by_cases hs : skips ≤ y.skips
      · rw [if_pos hs]
        refine ⟨nofun, ?_⟩
        rintro ⟨_ | ⟨x, l⟩, -, hq, hf, hl⟩
        · obtain ⟨rfl, -⟩ := List.cons.inj hq
          exact absurd hf hy
        · obtain ⟨rfl, -⟩ := List.cons.inj hq
          exact absurd (hl y List.mem_cons_self).2 (Nat.not_lt.mpr hs)
      · rw [if_neg hs, ih]
        constructor
        · rintro ⟨l, rfl, rfl, hf, hl⟩
          refine ⟨y :: l, by simp, rfl, hf, fun x hx => ?_⟩
          rcases List.mem_cons.mp hx with rfl | hx
          · exact ⟨by simpa using hy, Nat.lt_of_not_le hs⟩
          · exact hl x hx
        · rintro ⟨_ | ⟨x, l⟩, hg, hq, hf, hl⟩
          · obtain ⟨rfl, -⟩ := List.cons.inj hq
            exact absurd hf hy
          · obtain ⟨rfl, htail⟩ := List.cons.inj hq
            exact ⟨l, by simpa using hg, htail, hf, fun x hx => hl x (List.mem_cons_of_mem _ hx)⟩

/-! ### Port enables (R48, R135) -/

/-- The power of the port's VALID identity, which the port term takes when the port is enabled (R48). -/
def portPower (u : Units) (p : Fin 4) : Nat := ((portVals u p).map (·.2)).getD 0

theorem takeChannel_portTable (ch : Fin 32) (k : Fin 4) : (takeChannel c ch n k u).ports =
    if (u.ports.get (portOf ch)).enable then u.ports
    else updAt u.ports (portOf ch) (fun x => { x with enable := true, power := portPower u (portOf ch) }) := by
  have queued (cmd : XCmd) (v : Units) : (queueCmd c cmd v).ports = v.ports := by
    rw [queueCmd, sendNext]; split <;> rfl
  simp only [takeChannel, queued]
  split <;> rfl

theorem bestPort_candidate {cand : Fin 4 → Bool} {p : Fin 4} (h : bestPort u cand = some p) : cand p = true := by
  have key : ∀ q, bestPort u cand = some q → cand q = true := by
    rw [bestPort]
    refine List.foldlRecOn (motive := fun best : Option (Fin 4) => ∀ q, best = some q → cand q = true) _ _ (fun _ h => by cases h) ?_
    intro best hbest p _
    split
    · next hp =>
      have candidate : ∀ q, some p = some q → cand q = true := fun q e => by
        cases e; exact (Bool.and_eq_true_iff.mp hp).1
      split
      · exact candidate
      · split
        · exact candidate
        · exact hbest
    · exact hbest
  exact key p h

/-- The port of a chosen channel is enabled, or its enable is accepted (R135). -/
theorem chooseChannel_port {elig : Fin 4 → Bool} {ch : Fin 32} (h : chooseChannel c u elig = some ch) :
    (u.ports.get (portOf ch)).enable = true ∨ enableAccepted c u (portPower u (portOf ch)) = true := by
  rw [chooseChannel, Option.bind_eq_some_iff] at h
  obtain ⟨p, hp, hch⟩ := h
  have place := List.mem_of_mem_head? hch
  rw [freePlaces, List.mem_filter] at place
  rw [portOf_places place.1]
  rw [choosePort, Option.or_eq_some_iff] at hp
  rcases hp with hp | ⟨-, hp⟩
  · exact .inl (Bool.and_eq_true_iff.mp (bestPort_candidate hp)).2
  · exact .inr (Bool.and_eq_true_iff.mp (bestPort_candidate hp)).2

theorem spent_takeChannel {elig : Fin 4 → Bool} {ch : Fin 32} (k : Fin 4) (h : chooseChannel c u elig = some ch) :
    spent (takeChannel c ch n k u) ≤ spent u + (headroom c u).toNat := by
  have slots : committed (takeChannel c ch n k u) = committed u := by simp only [committed, (wired_takeChannel ch k).slot]
  have ports : portTerm (takeChannel c ch n k u) ≤ portTerm u + (headroom c u).toNat := by
    rw [portTerm, takeChannel_portTable]
    split
    · exact Nat.le_add_right _ _
    · next hen =>
      have accepted := (chooseChannel_port h).resolve_left hen
      rw [enableAccepted, Bool.and_eq_true] at accepted
      have watts : ((portPower u (portOf ch) : Nat) : Int) ≤ headroom c u := of_decide_eq_true accepted.2
      have change := sumOver_change (i := portOf ch) (f := fun p => (u.ports.get p).power)
        (g := fun p => ((updAt u.ports (portOf ch) (fun x => { x with enable := true, power := portPower u (portOf ch) })).get p).power)
        (fun p hp => by rw [updAt_get_ne _ _ _ _ (Ne.symm hp)])
      rw [updAt_get_self] at change
      dsimp only at change
      rw [portTerm]
      omega
  rw [spent, spent, slots]
  omega

theorem fillSlot_within (h0 : 0 ≤ headroom c u) : 0 ≤ headroom c (fillSlot c n u) := by
  refine List.foldlRecOn (motive := fun v : Units => 0 ≤ headroom c v) _ _ h0 (fun v hv k _ => ?_)
  split
  · split
    · next h => exact (budgeted_takeChannel k (chooseChannel_free h)).within (spent_takeChannel k h) hv
    · exact hv
  · exact hv

theorem syncWait_headroom : headroom c (syncWait n u) = headroom c u := by
  rw [syncWait]
  split
  · rfl
  · split <;> rfl

theorem serveWait_within (h0 : 0 ≤ headroom c u) : 0 ≤ headroom c (serveWait c u) := by
  refine List.foldlRecOn (motive := fun v : Units => 0 ≤ headroom c v) _ _ h0 (fun v hv n _ => ?_)
  rw [syncWait_headroom]
  exact fillSlot_within hv

/-- R56: restoration, then the queue scan, then the uplink wait list, each within the headroom that the one before has left. -/
theorem restoreAndScan_within (h0 : 0 ≤ headroom c u) : 0 ≤ headroom c (restoreAndScan c u) := by
  have restored := restoration_within h0
  have serve {v : Units} (h : 0 ≤ headroom c v) : 0 ≤ headroom c (if 0 < headroom c v then serveWait c v else v) := by
    split
    · exact serveWait_within h
    · exact h
  rw [restoreAndScan]
  split
  · have scanned : 0 ≤ headroom c (if (restoration c u).capped.any (fun n => !passedOver (restoration c u) n) = true then restoration c u
        else queueScan c (restoration c u).waitQ.length (restoration c u)) := by
      split
      · exact restored
      · exact queueScan_within _ restored
    exact serve scanned
  · exact h0

end

end Sys2Proof.Machine
end

section
open Sys2Proof Sys2Proof.Machine

/-- Settles O54: each step of restoration, queue scan and wait list service spends at most the headroom that it meets
(`restoreAndScan_within`); a pass is followed entry by entry (`findGrant_iff`). -/
theorem grantsFollowTheQueueWithinHeadroom : Obligations.GrantsFollowTheQueueWithinHeadroom := by
  refine ⟨fun c u h0 => restoreAndScan_within h0, fun fits skips q gone rest e => findGrant_iff.trans ⟨?_, fun h => ⟨gone, rfl, h⟩⟩⟩
  rintro ⟨l, rfl, h⟩
  exact h
end

section
/-! PROOFS. Shedding after the shed delay, the cap watch and the sense conversions (R71 to R73, R78, R79, R92, R93): what each does to its
slot, and that neither the rest of a shed nor the settling of the account reaches a victim again. -/

namespace Sys2Proof.Machine

section
variable {c : Ctx} {u : Units} {n : Fin 12}

/-! ### A planned victim (R72, R73) -/

theorem markVictim_slotFlag : slotFlag (markVictim n u) n .shed = true := setSlotBit_flag n .shed _

theorem markVictim_chassisFlag : chassisFlag (markVictim n u) .loadShed = true := setChassisBit_flag .loadShed _

theorem plannedOne_on (hp : 0 < plannedDeficit c u) (h : (u.slot n).state = .on) :
    plannedOne c u n = enterQuiesce c n .shed (markVictim n u) := by rw [plannedOne, if_pos hp, h]

theorem plannedOne_charging (hp : 0 < plannedDeficit c u) (h : (u.slot n).state = .charging) :
    plannedOne c u n = cutToSettling c n (markVictim n u) := by rw [plannedOne, if_pos hp, h]

/-- A candidate that the planned deficit reaches is marked, and neither its quiesce nor its cut takes a bit back. -/
theorem frame_marked_plannedOne (hp : 0 < plannedDeficit c u) (h : (u.slot n).state = .charging ∨ (u.slot n).state = .on) :
    Frame (markVictim n u) (plannedOne c u n) := by
  rcases h with h | h
  · rw [plannedOne_charging hp h]; exact only_cutToSettling.frame
  · rw [plannedOne_on hp h]; exact (only_enterQuiesce _).frame

theorem plannedOne_on_slot (hp : 0 < plannedDeficit c u) (h : (u.slot n).state = .on) :
    ((plannedOne c u n).slot n).state = .quiescing ∧ ((plannedOne c u n).slot n).qReason = some .shed
      ∧ ((plannedOne c u n).slot n).qTimer = some (c.now + quiesceTime c n)
      ∧ ((plannedOne c u n).slot n).allowance = (u.slot n).allowance := by
  rw [plannedOne_on hp h, enterQuiesce_slot, markVictim_slot]
  exact ⟨rfl, rfl, rfl, rfl⟩

theorem plannedOne_charging_slot (hp : 0 < plannedDeficit c u) (h : (u.slot n).state = .charging) :
    ((plannedOne c u n).slot n).state = .settling ∧ ((plannedOne c u n).slot n).mainEn = false
      ∧ ((plannedOne c u n).slot n).allowance = 0 := by
  rw [plannedOne_charging hp h, cutToSettling_slot _ _ _ (by rw [markVictim_slot]; exact powered_iff.mpr (.inl h))]
  exact ⟨rfl, rfl, rfl⟩

/-- After the first candidate a planned shed reaches no slot that is out of CHARGING and ON: the victim among them (R73). -/
theorem plannedShed_after_first {rest : List (Fin 12)} (h : shedCandidates c u = n :: rest) :
    Keeps quiet (plannedOne c u n) (plannedShed c u) := by
  rw [plannedShed, h, List.foldl_cons]
  exact Keeps.foldl (fun _ _ => keeps_plannedOne) rest _

/-! ### The supply-side emergency is not begun by a planned shed (R77) -/

theorem markVictim_emergency : (markVictim n u).emergency = u.emergency := by rw [markVictim]; split <;> rfl

theorem releaseSlot_emergency : (releaseSlot c n u).emergency = u.emergency :=
  (wired_releases (c := c) (activeOf u n)).view Units.emergency

theorem cutToSettling_emergency : (cutToSettling c n u).emergency = u.emergency := by
  rw [cutToSettling]
  split
  · exact releaseSlot_emergency
  · rfl

theorem plannedOne_emergency : (plannedOne c u n).emergency = u.emergency := by
  rw [plannedOne]
  split
  · split
    · exact markVictim_emergency
    · exact cutToSettling_emergency.trans markVictim_emergency
    · rfl
  · rfl

theorem plannedShed_emergency : (plannedShed c u).emergency = u.emergency :=
  List.foldlRecOn (motive := fun v : Units => v.emergency = u.emergency) _ _ rfl (fun _ hv _ _ => plannedOne_emergency.trans hv)

/-! ### The cap watch and the sample ring (R78, R79, R93) -/

theorem graceEnds_over (h : (u.slot n).watch = .over) : graceEnds c n u = setSlotBit n .capExceeded
    (u.updSlot n (fun x => { x with watch := .exceeded, watchTimer := startTimer c (3 * capGrace c) })) := by rw [graceEnds, h]

theorem graceEnds_exceeded (h : (u.slot n).watch = .exceeded) : graceEnds c n u = cutToFault c n .capViolation u := by rw [graceEnds, h]

/-- The end of the first grace changes no term of the account and no list: nothing is settled. -/
theorem settleAfter_graceEnds_over (h : (u.slot n).watch = .over) : settleAfter c u (graceEnds c n u) = graceEnds c n u := by
  rw [graceEnds_over h]
  exact settleAfter_same (accountTerms_updSlot c u n _ rfl rfl).symm (budgetLists_updSlot u n _ rfl).symm

theorem watchCompare_ring (x : Slot) : (watchCompare c x).ring = x.ring := by rw [watchCompare_eq]
theorem watchCompare_state (x : Slot) : (watchCompare c x).state = x.state := by rw [watchCompare_eq]
theorem watchCompare_allowance (x : Slot) : (watchCompare c x).allowance = x.allowance := by rw [watchCompare_eq]

theorem watchCompare_drawAverage (x : Slot) : drawAverage (watchCompare c x) = drawAverage x := by
  rw [drawAverage, watchCompare_ring, drawAverage]

/-- A comparison in ON outside STARTUP: above the limit a watch that is CLEAR becomes OVER for one grace, within it the watch is CLEAR. -/
theorem watchCompare_on {x : Slot} (hs : x.state = .on) (hm : c.sup.mode ≠ .startup) :
    if watchLimit c x < drawAverage x then
      (x.watch = .clear → (watchCompare c x).watch = .over ∧ (watchCompare c x).watchTimer = some (c.now + capGrace c))
    else (watchCompare c x).watch = .clear ∧ (watchCompare c x).watchTimer = none := by
  have compared : ((x.state == .on || x.state == .quiescing) && !inStartup c) = true := by simp [hs, inStartup, hm]
  rw [watchCompare, if_pos compared]
  split
  · intro hw
    rw [hw]
    exact ⟨rfl, rfl⟩
  · exact ⟨rfl, rfl⟩

/-- The slot with a new sample in its ring, before the cap watch compares (R93). -/
def withSample (w : Nat) (x : Slot) : Slot := { x with ring := pushSample x.ring w }

/-- A conversion in its turn: the turn passes on, and the sample is stored while the main enable is on (R92, R93). -/
theorem convert_turn {w : Nat} (hp : c.pins.sampled = true) (hn : u.senseNext = n) : convert n w c u =
    if (u.slot n).mainEn && (u.slot n).settled then
      { u with senseNext := n + 1 }.updSlot n (fun x => watchCompare c (withSample w x))
    else { u with senseNext := n + 1 } := by
  simp only [convert, hp, hn, beq_self_eq_true, Bool.and_self, if_true]
  rfl

/-- Of a conversion in its turn only the turn and the slot's own entry change. -/
theorem convert_turn_frame {w : Nat} (hp : c.pins.sampled = true) (hn : u.senseNext = n) :
    convert n w c u = { u with slots := (convert n w c u).slots, senseNext := n + 1 }
      ∧ ∀ m, m ≠ n → (convert n w c u).slot m = u.slot m := by
  rw [convert_turn hp hn]
  split
  · exact ⟨rfl, fun m hm => (only_updSlot _).slots m hm⟩
  · exact ⟨rfl, fun _ _ => rfl⟩

theorem convert_discarded {w : Nat} (hp : c.pins.sampled = true) (hn : u.senseNext = n) (he : (u.slot n).mainEn = false) :
    (convert n w c u).slots = u.slots := by rw [convert_turn hp hn, he]; rfl

theorem convert_stored {w : Nat} (hp : c.pins.sampled = true) (hn : u.senseNext = n) (he : (u.slot n).mainEn = true)
    (hs : (u.slot n).settled = true) :
    (convert n w c u).slot n = watchCompare c (withSample w (u.slot n)) := by
  rw [convert_turn hp hn, he, hs]
  exact updSlot_slot_self _ n _

end

end Sys2Proof.Machine
end

section
open Sys2Proof Sys2Proof.Machine

/-- Settles O38, by the watch phase: the first grace changes only the watch and its bit (`settleAfter_graceEnds_over`), the second is a
violation (`cutToFault_settled`). -/
theorem capGraceLeadsToViolation : Obligations.CapGraceLeadsToViolation := by
  refine fun s n d h => ⟨_, done_atTimer_settle s _ h, rfl, after_sameOutside _ _ _ rfl rfl, fun hw => ?_, fun hw hp => ?_⟩
  · rw [after_units, settleAfter_graceEnds_over hw, graceEnds_over hw]
    exact ⟨rfl, setSlotBit_flag n .capExceeded _, rfl⟩
  · obtain ⟨-, frame, others, state, reason, enable, -, allowance, -, -, -, fault, slotFault⟩ :=
      cutToFault_settled (s := s) (c := atDeadline s.ctx d) .capViolation rfl rfl rfl hp
    rw [graceEnds_exceeded hw]
    exact ⟨state, reason, enable, allowance, fault, slotFault, frame, others⟩

/-- Settles O39: the first candidate is shed while the deficit is the one at the expiry; the candidates after it (`plannedShed_after_first`)
and the settling of the account leave it so. -/
theorem shedDelayShedsTheFirstCandidate : Obligations.ShedDelayShedsTheFirstCandidate := by
  intro s n rest d h hl hp
  let c := atDeadline s.ctx d
  let u := { s.units with shedTimer := none }
  let v := plannedShed c u
  have stopped : AllFix s.units u := fix_shedTimer none
  have hl' : shedCandidates c u = n :: rest := hl
  have hp' : 0 < plannedDeficit c u := hp
  have after : Keeps quiet (plannedOne c u n) v := plannedShed_after_first hl'
  have all : Keeps quiet s.units v := (keeps_fix stopped).trans keeps_plannedShed
  have candidate : (u.slot n).state = .charging ∨ (u.slot n).state = .on :=
    shedCandidates_state (c := c) (by rw [hl']; exact List.mem_cons_self)
  have marked : Frame (markVictim n u) (settleAfter c s.units v).settled :=
    (((frame_marked_plannedOne hp' candidate).trans after.frame).trans settleAfter_keeps.frame).settled
  refine ⟨_, done_atTimer_settle s _ h, rfl, after_sameOutside _ _ _ rfl rfl, frame_settled all.frame,
    marked.slotBits n _ markVictim_slotFlag, marked.chassisBits _ markVictim_chassisFlag, fun hs => ?_, fun hs hq => ?_, fun m hd => ?_⟩
  · obtain ⟨state, enable, allowance⟩ := plannedOne_charging_slot hp' hs
    have victim : v.slot n = (plannedOne c u n).slot n := after.slots n (by simp [quiet, state])
    rw [after_units, settled_slot_dark (dark_settling (by rw [victim]; exact state)), victim]
    exact ⟨state, enable, allowance⟩
  · obtain ⟨state, quiesce⟩ := plannedOne_on_slot hp' hs
    have victim : v.slot n = (plannedOne c u n).slot n := after.slots n (by simp [quiet, state])
    have hq' : v.emergency = true ∨ allSuppliesLost v = false := by
      rw [plannedShed_emergency, allSuppliesLost_congr all.frame.supplies]
      exact hq
    rw [after_units, settled_slot, settleAfter_quiet hq' (by rw [victim]; simp [quiet, state]), victim]
    exact ⟨state, quiesce⟩
  · have same : v.slot m = s.units.slot m := all.dark_of_quiet.slots m hd
    rw [after_units, settled_slot_dark (by rw [same]; exact hd), same]

/-- Settles O40: the turn passes on (`convert_turn_frame`), and the sample is discarded or stored and compared (`convert_stored`,
`watchCompare_on`). -/
theorem sampleEntersTheRing : Obligations.SampleEntersTheRing := by
  intro s n count hp hn
  let v := convert n count.toNat s.ctx s.units
  obtain ⟨same, others⟩ : v = { s.units with slots := v.slots, senseNext := n + 1 } ∧ ∀ m, m ≠ n → v.slot m = s.units.slot m :=
    convert_turn_frame hp hn
  refine ⟨s.after s.ctx v, rfl, rfl, after_sameOutside _ _ _ rfl rfl, congrArg Units.senseNext same, others, ?_,
    fun he => convert_discarded hp hn he, fun he hset => ?_⟩
  · rw [after_units, same]
    rfl
  · let x := withSample count.toNat (s.units.slot n)
    have stored : v.slot n = watchCompare s.ctx x := convert_stored hp hn he hset
    rw [after_units, settled_slot, stored, watchCompare_drawAverage]
    exact ⟨watchCompare_ring x, rfl, watchCompare_state x, watchCompare_allowance x, fun hs hm => watchCompare_on (x := x) hs hm⟩
end

section
/-! PROOFS. The beginning of a warm restart: it is built whole from the cold-start values like that of a cold start, but for the latches of
slots and ports, the generators, ALERT and the write queue (R177). -/

namespace Sys2Proof.Machine

section
variable (cause : RestartCause) (s : State)

/-- The latches of a slot are all that it keeps (R83, R177). -/
@[simp] theorem beginWarm_slot (n : Fin 12) : (beginWarm cause s).units.slot n = restartSlot (s.units.slot n) := updAll_get _ _ _

/-- The UPL_EN latch of a port is all that it keeps (R145). -/
@[simp] theorem beginWarm_port (p : Fin 4) : (beginWarm cause s).units.ports.get p = restartPort (s.units.ports.get p) := updAll_get _ _ _

/-- Every link waits for the open packet, its FIFO and its takes gone (R161). -/
@[simp] theorem beginWarm_link (l : Fin 13) : (beginWarm cause s).links.get l = .reset := reset_link l

end

end Sys2Proof.Machine
end

section
open Sys2Proof Sys2Proof.Machine

/-- Settles O10: slots and ports keep their latches alone (`beginWarm_slot`, `beginWarm_port`), every link is as after reset
(`beginWarm_link`), a packet being sent is cut to a prefix of itself (`cutPackets_prefix`), and each other part is taken from the state
before or from the cold-start values. -/
theorem warmRestartKeepsTheLatches : Obligations.WarmRestartKeepsTheLatches := by
  intro s
  refine ⟨beginWarm .restartLine s, rfl, rfl, rfl, rfl, rfl, fun n => ?_, fun p => ?_, rfl, rfl, rfl, rfl, rfl, rfl,
    fun l => ⟨cutPackets_prefix s l, fun h => cutPackets_sent h⟩, rfl, rfl, rfl, rfl, rfl, fun l => ?_, rfl, rfl, rfl, rfl⟩
  · rw [beginWarm_slot]; exact ⟨rfl, rfl, rfl⟩
  · rw [beginWarm_port]; rfl
  · rw [beginWarm_link]; exact ⟨rfl, rfl, rfl⟩
end

section
/-! PROOFS. The zone monitors (R105 to R107): the zone temperature as a maximum, what a comparison makes of its monitor, and what a sample
leaves alone. -/

namespace Sys2Proof.Machine

section
variable {c : Ctx} {u v w : Units} {z : Fin 3}

/-! ### The largest of several temperatures (R99, R105) -/

/-- `t` is among the temperatures of `l`, and none of them is larger. -/
def IsLargest (l : List (Option Int)) (t : Int) : Prop := some t ∈ l ∧ ∀ t', some t' ∈ l → t' ≤ t

/-- Two neighbours give way to the larger of them. -/
theorem isLargest_maxTemp (a b : Option Int) (l : List (Option Int)) (t : Int) :
    IsLargest (maxTemp a b :: l) t ↔ IsLargest (a :: b :: l) t := by
  cases a <;> cases b <;> simp only [IsLargest, maxTemp, List.mem_cons, Option.some.injEq, reduceCtorEq, false_or, or_imp, forall_and, forall_eq]
  next x y =>
    rw [max_le_iff]
    rcases max_cases x y with ⟨e, _⟩ | ⟨e, _⟩ <;> rw [e] <;> grind

theorem foldl_maxTemp_eq_some (a : Option Int) (l : List (Option Int)) (t : Int) : l.foldl maxTemp a = some t ↔ IsLargest (a :: l) t := by
  induction l generalizing a with
  | nil =>
    cases a with
    | none => simp [IsLargest]
    | some x =>
      simp only [List.foldl_nil, IsLargest, List.mem_singleton, Option.some.injEq]
      exact ⟨fun h => ⟨h.symm, fun _ h' => (h'.trans h).le⟩, fun h => h.1.symm⟩
  | cons b rest ih => rw [List.foldl_cons, ih, isLargest_maxTemp]

theorem foldl_maxTemp_eq_none (a : Option Int) (l : List (Option Int)) : l.foldl maxTemp a = none ↔ a = none ∧ ∀ t, some t ∉ l := by
  induction l generalizing a with
  | nil => simp
  | cons b rest ih =>
    have pair : maxTemp a b = none ↔ a = none ∧ b = none := by cases a <;> cases b <;> simp [maxTemp]
    rw [List.foldl_cons, ih, pair, and_assoc]
    simp only [List.mem_cons, not_or, forall_and, Option.eq_none_iff_forall_some_ne, ne_eq]

/-- The temperatures a zone's members give: of slots with main power and of sensors, neither stale (R105). -/
def ZoneGives (c : Ctx) (u : Units) (z : Fin 3) (t : Int) : Prop :=
  (∃ n, slotInZone c n z = true ∧ powered (u.slot n) = true ∧ (u.slot n).stale = false ∧ (u.slot n).zoneInput = some t)
    ∨ (∃ k, sensorInZone c k z = true ∧ (u.sensors.get k).stale = false ∧ (u.sensors.get k).value = some t)

/-- What the members of zone `z` give to its temperature, one entry a member. -/
def zoneMembers (c : Ctx) (u : Units) (z : Fin 3) : List (Option Int) :=
  (indices 12).map (fun n => if slotInZone c n z && powered (u.slot n) && !(u.slot n).stale then (u.slot n).zoneInput else none)
    ++ (indices 4).map (fun k => if sensorInZone c k z && !(u.sensors.get k).stale then (u.sensors.get k).value else none)

theorem mem_zoneMembers (t : Int) : some t ∈ zoneMembers c u z ↔ ZoneGives c u z t := by
  simp only [zoneMembers, ZoneGives, List.mem_append, List.mem_map, mem_indices, true_and, Option.ite_none_right_eq_some, Bool.and_eq_true,
    Bool.not_eq_true', and_assoc]

/-- The zone temperature is the largest that the members give (R105). -/
theorem zoneTemp_eq_some (t : Int) : zoneTemp c u z = some t ↔ ZoneGives c u z t ∧ ∀ t', ZoneGives c u z t' → t' ≤ t := by
  show (zoneMembers c u z).foldl maxTemp none = some t ↔ _
  simp only [foldl_maxTemp_eq_some, IsLargest, List.mem_cons, reduceCtorEq, false_or, mem_zoneMembers]

theorem zoneTemp_eq_none : zoneTemp c u z = none ↔ ∀ t, ¬ ZoneGives c u z t := by
  show (zoneMembers c u z).foldl maxTemp none = none ↔ _
  simp only [foldl_maxTemp_eq_none, true_and, mem_zoneMembers]

/-! ### Comparisons (R106) -/

theorem getMon_setMon_self (x : Zone) (b : Bool) (m : Monitor) : getMon (setMon x b m) b = m := by cases b <;> rfl
theorem getMon_setMon_other (x : Zone) (b : Bool) (m : Monitor) : getMon (setMon x b m) (!b) = getMon x (!b) := by cases b <;> rfl

theorem monCondition_iff (b : Bool) (t : Int) :
    monCondition c z b t = true ↔ if monBelow c z b then t < monThreshold c z b else monThreshold c z b < t := by
  rw [monCondition]; split <;> exact decide_eq_true_iff

/-- A comparison with a temperature: valid, its result the condition's, held with alert set. -/
theorem compareMon_some (b : Bool) (t : Int) : let m := compareMon c z b (some t)
    m.valid = true ∧ (m.result = true ↔ if monBelow c z b then t < monThreshold c z b else monThreshold c z b < t)
      ∧ m.held = (m.result && monAlert c z b) := ⟨rfl, monCondition_iff b t, rfl⟩

/-- A zone once monitor `b` has been compared with the zone temperature `t`. -/
def comparedZone (c : Ctx) (z : Fin 3) (b : Bool) (t : Option Int) (x : Zone) : Zone := { setMon x b (compareMon c z b t) with temp := t }

theorem compareZone_zones (b : Bool) : (compareZone c z b u).zones = (u.updZone z (comparedZone c z b (zoneTemp c u z))).zones := by
  simp only [compareZone]
  split <;> rfl

theorem compareZone_alarm {b : Bool} (h : (compareMon c z b (zoneTemp c u z)).held = true) :
    chassisFlag (compareZone c z b u) .zoneAlarm = true := by
  simp only [compareZone, h, if_true]
  exact setChassisBit_flag _ _

/-! ### Samples (R107) -/

/-- Only the monitors of zone `z`, their mark, the temperature shown and the chassis event word may change. -/
structure MonitorsOnly (z : Fin 3) (u v : Units) : Prop where
  units : v = { u with zones := v.zones, chassisEvent := v.chassisEvent }
  others : ∀ y, y ≠ z → v.zones.get y = u.zones.get y
  zone : v.zones.get z = { u.zones.get z with
    monA := (v.zones.get z).monA, monB := (v.zones.get z).monB, markB := (v.zones.get z).markB, temp := (v.zones.get z).temp }

theorem MonitorsOnly.refl (u : Units) : MonitorsOnly z u u := ⟨rfl, fun _ _ => rfl, rfl⟩

theorem MonitorsOnly.trans (a : MonitorsOnly z u v) (b : MonitorsOnly z v w) : MonitorsOnly z u w where
  units := by
    have eb := b.units
    rw [a.units] at eb
    exact eb
  others y hy := (b.others y hy).trans (a.others y hy)
  zone := by
    have eb := b.zone
    rw [a.zone] at eb
    exact eb

theorem monitorsOnly_mark (m : Bool) : MonitorsOnly z u (u.updZone z (fun x => { x with markB := m })) where
  units := rfl
  others y hy := by rw [updZone_zone, if_neg (Ne.symm hy)]
  zone := by rw [updZone_zone_self]

theorem monitorsOnly_compareZone (b : Bool) : MonitorsOnly z u (compareZone c z b u) where
  units := by simp only [compareZone]; split <;> rfl
  others y hy := by rw [compareZone_zones, updZone_zone, if_neg (Ne.symm hy)]
  zone := by rw [compareZone_zones, updZone_zone_self]; cases b <;> rfl

/-- The units once the sample timer of zone `z` has started again. -/
def resampled (c : Ctx) (z : Fin 3) (u : Units) : Units := u.updZone z (fun x => { x with sampTimer := startTimer c (sampleInterval c z) })

theorem resampled_zone : (resampled c z u).zones.get z = { u.zones.get z with sampTimer := startTimer c (sampleInterval c z) } :=
  updZone_zone_self _ _ _

theorem resampled_others (y : Fin 3) (hy : y ≠ z) : (resampled c z u).zones.get y = u.zones.get y := by
  rw [resampled, updZone_zone, if_neg (Ne.symm hy)]

/-- With both monitors held none is compared. -/
theorem sampleZone_held (hA : (u.zones.get z).monA.held = true) (hB : (u.zones.get z).monB.held = true) :
    sampleZone c z u = resampled c z u := by simp only [sampleZone, hA, hB, resampled]

/-- With neither held the mark says which one is compared, and moves on. -/
theorem sampleZone_free (hA : (u.zones.get z).monA.held = false) (hB : (u.zones.get z).monB.held = false) :
    sampleZone c z u = (compareZone c z (u.zones.get z).markB (resampled c z u)).updZone z
      (fun x => { x with markB := !(u.zones.get z).markB }) := by simp only [sampleZone, hA, hB, resampled]

/-- Beyond the restart of its timer a sample changes the monitors alone, whichever of them are held. -/
theorem monitorsOnly_sampleZone : MonitorsOnly z (resampled c z u) (sampleZone c z u) := by
  rw [sampleZone]
  split
  · exact .refl _
  all_goals exact (monitorsOnly_compareZone _).trans (monitorsOnly_mark _)

theorem sampleZone_timer : ((sampleZone c z u).zones.get z).sampTimer = some (c.now + sampleInterval c z) := by
  rw [monitorsOnly_sampleZone.zone, resampled_zone]
  rfl

theorem sampleZone_duty : ((sampleZone c z u).zones.get z).duty = (u.zones.get z).duty := by
  rw [monitorsOnly_sampleZone.zone, resampled_zone]

theorem sampleZone_others {y : Fin 3} (hy : y ≠ z) : (sampleZone c z u).zones.get y = u.zones.get y :=
  (monitorsOnly_sampleZone.others y hy).trans (resampled_others y hy)

section free
variable (hA : (u.zones.get z).monA.held = false) (hB : (u.zones.get z).monB.held = false)
include hA hB

/-- The zone after a sample with neither monitor held. -/
theorem sampleZone_free_zone : (sampleZone c z u).zones.get z =
    { comparedZone c z (u.zones.get z).markB (zoneTemp c u z) ((resampled c z u).zones.get z) with markB := !(u.zones.get z).markB } := by
  rw [sampleZone_free hA hB, updZone_zone_self, compareZone_zones, updZone_zone_self]
  rfl

theorem sampleZone_free_marked : getMon ((sampleZone c z u).zones.get z) (u.zones.get z).markB =
    compareMon c z (u.zones.get z).markB (zoneTemp c u z) := by
  rw [sampleZone_free_zone hA hB]
  exact getMon_setMon_self _ _ _

theorem sampleZone_free_other : getMon ((sampleZone c z u).zones.get z) (!(u.zones.get z).markB) =
    getMon (u.zones.get z) (!(u.zones.get z).markB) := by
  rw [sampleZone_free_zone hA hB, resampled_zone]
  exact getMon_setMon_other _ _ _

theorem sampleZone_free_alarm (h : (getMon ((sampleZone c z u).zones.get z) (u.zones.get z).markB).held = true) :
    chassisFlag (sampleZone c z u) .zoneAlarm = true := by
  rw [sampleZone_free_marked hA hB] at h
  rw [sampleZone_free hA hB]
  exact compareZone_alarm (u := resampled c z u) h

end free

end

end Sys2Proof.Machine
end

section
open Sys2Proof Sys2Proof.Machine

/-- Settles O46: beyond its timer every sample keeps to `MonitorsOnly`; with neither monitor held the marked one is compared
(`sampleZone_free_marked`) with the largest temperature that the members give (`zoneTemp_eq_some`). -/
theorem zoneSampleComparesTheMarkedMonitor : Obligations.ZoneSampleComparesTheMarkedMonitor := by
  refine ⟨fun s z d hd => ?_, fun c u z => ⟨zoneTemp_eq_some, zoneTemp_eq_none, fun b => ?_, rfl⟩⟩
  · refine ⟨_, done_atTimer_act s (fun c u => sampleZone c z u) hd, rfl, after_sameOutside _ _ _ rfl rfl, sampleZone_timer,
      fun y hy => sampleZone_others hy, congrArg Units.settled monitorsOnly_sampleZone.units, sampleZone_duty,
      fun hA hB => ?_, fun hA hB => ?_⟩
    · rw [after_units, sampleZone_held hA hB]
      simp only [Units.settled, resampled_zone, and_self]
    · have marked := sampleZone_free_marked (c := atDeadline s.ctx d) hA hB
      have zone := sampleZone_free_zone (c := atDeadline s.ctx d) hA hB
      refine ⟨by rw [after_units, Units.settled, zone], by rw [after_units, Units.settled, zone]; rfl, sampleZone_free_other hA hB,
        fun hT => ?_, fun T hT => ?_⟩
      · rw [show zoneTemp (atDeadline s.ctx d) s.units z = none from hT] at marked
        exact marked
      · rw [show zoneTemp (atDeadline s.ctx d) s.units z = some T from hT] at marked
        obtain ⟨valid, result, held⟩ := compareMon_some (c := atDeadline s.ctx d) (z := z) (s.units.zones.get z).markB T
        rw [← marked] at valid result held
        exact ⟨valid, result, held, sampleZone_free_alarm hA hB⟩
  · rw [compareZone_zones, updZone_zone_self]
    rfl
end

section
/-! PROOFS. Thermal reports (R97 to R103): the reading positions, the slot that a report leaves before it is judged, and the trip and the
cut; and the report that does not come (R100). -/

namespace Sys2Proof.Machine

section
variable {c : Ctx} {u : Units} {n : Fin 12} {bs : List Byte}

/-! ### Reading positions (R98) -/

@[simp] theorem newReadings_length (old : List (Option Int)) (k : Nat) (bs : List Byte) : (newReadings old k bs).length = 4 := by
  simp [newReadings]

/-- A position below the count takes its reading, any other is empty. -/
theorem newReadings_getD (old : List (Option Int)) {k : Nat} (hk : k ≤ 4) (bs : List Byte) (i : Nat) :
    (newReadings old k bs).getD i none = if i < k then newReading (old.getD i none) (signedAt bs (i + 1)) else none := by
  rw [List.getD_eq_getElem?_getD]
  by_cases hi : i < 4
  · simp [newReadings, hi]
  · rw [List.getElem?_eq_none (by simpa using hi), if_neg (by omega)]
    rfl

theorem newReading_temp (old : Option Int) {t : Int} (h : -40 ≤ t ∧ t ≤ 127) : newReading old t = some t := by simp [newReading, isTemp, h]

theorem newReading_empty (old : Option Int) : newReading old (-128) = none := rfl

theorem newReading_kept (old : Option Int) {t : Int} (h : -127 ≤ t ∧ t ≤ -41) : newReading old t = old := by
  have hl : ¬ (-40 ≤ t ∧ t ≤ 127) := by omega
  have hn : t ≠ -128 := by omega
  simp [newReading, isTemp, hl, hn]

/-- The blade temperature that the report's readings make (R99). -/
def reportTemp (n : Fin 12) (bs : List Byte) (u : Units) : Option Int :=
  (newReadings (u.slot n).readings (byteAt bs 0) bs).foldl maxTemp none

/-- Positions that are all empty make none. -/
theorem reportTemp_eq_none (h : ∀ i, (newReadings (u.slot n).readings (byteAt bs 0) bs).getD i none = none) : reportTemp n bs u = none := by
  refine (foldl_maxTemp_eq_none none _).mpr ⟨rfl, fun t ht => ?_⟩
  obtain ⟨i, hi⟩ := List.mem_iff_getElem?.mp ht
  have := h i
  simp [hi] at this

/-! ### The slot before its report is judged (R98 to R100) -/

/-- The slot with the report's readings, its temperatures and its age. -/
def reportedSlot (c : Ctx) (n : Fin 12) (bs : List Byte) (u : Units) : Slot :=
  { u.slot n with
    readings := newReadings (u.slot n).readings (byteAt bs 0) bs, stale := false,
    ageStart := if (u.slot n).state = .on then some c.now else (u.slot n).ageStart,
    zoneInput := (reportTemp n bs u).map (fun t => min 127 (t + slotOffset c u n)) }

/-- The units with the report taken over and its warning judged, before trip and cut. -/
def reported (c : Ctx) (n : Fin 12) (bs : List Byte) (u : Units) : Units :=
  judgeWarning c n (refreshZoneInput c n (u.updSlot n (fun x =>
    { x with readings := newReadings x.readings (byteAt bs 0) bs, stale := false,
             ageStart := if x.state = .on then some c.now else x.ageStart })))

theorem acceptReport_eq : acceptReport c n bs u = judgeTrip c n (reported c n bs u) := rfl

/-- The warning changes its own mark of the slot alone (R102). -/
theorem judgeWarning_slot : (judgeWarning c n u).slot n = { u.slot n with warned := ((judgeWarning c n u).slot n).warned } := by
  unfold judgeWarning
  dsimp only
  split
  · rfl
  · split
    · split
      · rw [updSlot_slot_self]
      · rfl
    · split
      · rw [setChassisBit_slot, setSlotBit_slot, updSlot_slot_self]
      · rfl

theorem only_judgeWarning : OnlySlot n u (judgeWarning c n u) := by
  unfold judgeWarning
  dsimp only
  split
  · exact .refl _ u
  · refine fix_ite (fix_ite (only_updSlot _) (.refl _ u)) (fix_ite ?_ (.refl _ u))
    exact ((only_updSlot _).trans (fix_setSlotBit _)).trans (fix_setChassisBit _)

theorem only_reported : OnlySlot n u (reported c n bs u) := ((only_updSlot _).trans (only_updSlot _)).trans only_judgeWarning

theorem reported_slot : (reported c n bs u).slot n = { reportedSlot c n bs u with warned := ((reported c n bs u).slot n).warned } := by
  rw [reported, judgeWarning_slot, refreshZoneInput, updSlot_slot_self, updSlot_slot_self, zoneInputOf, updSlot_slot_self]
  rfl

theorem reported_state : ((reported c n bs u).slot n).state = (u.slot n).state := by rw [reported_slot]; rfl
theorem reported_powered : powered ((reported c n bs u).slot n) = powered (u.slot n) := by rw [powered, reported_state, powered]
theorem reported_bladeTemp : bladeTemp ((reported c n bs u).slot n) = reportTemp n bs u := by rw [reported_slot]; rfl

/-- A report leaves the inventory alone, and with it the trip temperature. -/
theorem reported_tripTemp : tripTemp (reported c n bs u) n = tripTemp u n := by
  rw [tripTemp, bladeVals_congr only_reported.frame.inv, tripTemp]

/-! ### Trip and cut (R103) -/

/-- A trip in CHARGING cuts. -/
theorem thermalTrip_charging (h : (u.slot n).state = .charging) : thermalTrip c n u = cutToSettling c n u := by rw [thermalTrip, h]

theorem thermalTrip_on (h : (u.slot n).state = .on) : thermalTrip c n u = enterQuiesce c n .thermal u := by rw [thermalTrip, h]

/-- A trip in ON or QUIESCING leaves the slot in QUIESCING for THERMAL at its allowance. -/
theorem thermalTrip_quiesces (h : (u.slot n).state = .on ∨ (u.slot n).state = .quiescing) :
    let y := (thermalTrip c n u).slot n
    y.state = .quiescing ∧ y.qReason = some .thermal ∧ y.allowance = (u.slot n).allowance := by
  rcases h with h | h
  · rw [thermalTrip_on h, enterQuiesce_slot]
    exact ⟨rfl, rfl, rfl⟩
  · simp only [thermalTrip, h]
    split
    · next hq => exact ⟨h, hq, rfl⟩
    · rw [updSlot_slot_self]
      exact ⟨h, rfl, rfl⟩

theorem only_thermalTrip : OnlySlot n u (thermalTrip c n u) := by
  rw [thermalTrip]
  split
  · exact only_cutToSettling
  · exact only_enterQuiesce _
  · exact fix_ite (.refl _ u) (only_updSlot _)
  · exact .refl _ u

theorem only_judgeTrip : OnlySlot n u (judgeTrip c n u) := by
  rw [judgeTrip]
  split
  · exact .refl _ u
  · exact fix_ite (only_cutToFault _) (fix_ite only_thermalTrip (.refl _ u))

/-- What trip and cut make of a blade temperature. -/
theorem judgeTrip_some {t : Int} (h : bladeTemp (u.slot n) = some t) : judgeTrip c n u =
    if tripTemp u n + 5 ≤ t then cutToFault c n .thermalCut u else if tripTemp u n ≤ t then thermalTrip c n u else u := by
  rw [judgeTrip, h]

/-- Nothing trips below the trip temperature, nor without any reading. -/
theorem judgeTrip_below (h : ∀ t, bladeTemp (u.slot n) = some t → t < tripTemp u n) : judgeTrip c n u = u := by
  cases ht : bladeTemp (u.slot n) with
  | none => rw [judgeTrip, ht]
  | some t =>
    have := h t ht
    rw [judgeTrip_some ht, if_neg (by omega), if_neg (by omega)]

/-! ### Accepted reports (R97) -/

theorem only_acceptReport : OnlySlot n u (acceptReport c n bs u) := only_reported.trans only_judgeTrip

theorem acceptReport_below (h : ∀ t, reportTemp n bs u = some t → t < tripTemp u n) : acceptReport c n bs u = reported c n bs u := by
  rw [acceptReport_eq]
  refine judgeTrip_below fun t ht => ?_
  rw [reported_tripTemp]
  exact h t (reported_bladeTemp.symm.trans ht)

theorem acceptReport_some {t : Int} (h : reportTemp n bs u = some t) : acceptReport c n bs u =
    if tripTemp u n + 5 ≤ t then cutToFault c n .thermalCut (reported c n bs u)
    else if tripTemp u n ≤ t then thermalTrip c n (reported c n bs u) else reported c n bs u := by
  rw [acceptReport_eq, judgeTrip_some (reported_bladeTemp.trans h), reported_tripTemp]

theorem takeReport_bad (h : byteAt bs 0 = 0 ∨ 4 < byteAt bs 0) : takeReport c n bs u = (.reportBad, u) := by
  rw [takeReport, inRange_eq_false.mpr (by omega)]
  rfl

section counted
variable (h1 : 1 ≤ byteAt bs 0) (h4 : byteAt bs 0 ≤ 4)
include h1 h4

theorem takeReport_counted : takeReport c n bs u =
    if powered (u.slot n) then (.accepted, acceptReport c n bs u) else (.refusedState, u) := by
  have hr : inRange 1 4 (byteAt bs 0) = true := decide_eq_true ⟨h1, h4⟩
  rw [takeReport, hr]
  cases powered (u.slot n) <;> rfl

theorem takeReport_dark (h : powered (u.slot n) = false) : takeReport c n bs u = (.refusedState, u) := by
  rw [takeReport_counted h1 h4, h]
  rfl

theorem takeReport_powered (h : powered (u.slot n) = true) : takeReport c n bs u = (.accepted, acceptReport c n bs u) := by
  rw [takeReport_counted h1 h4, if_pos h]

end counted

/-- The slot after an accepted report by its blade temperature. -/
theorem acceptReport_judged {t : Int} (h : powered (u.slot n) = true) (ht : reportTemp n bs u = some t) :
    let x := u.slot n
    let y := (acceptReport c n bs u).slot n
    if tripTemp u n + 5 ≤ t then y.state = .fault ∧ y.faultReason = some .thermalCut ∧ y.mainEn = false ∧ y.allowance = 0
    else if tripTemp u n ≤ t then
      (x.state = .charging → y.state = .settling ∧ y.mainEn = false ∧ y.allowance = 0)
        ∧ (x.state = .on ∨ x.state = .quiescing → y.state = .quiescing ∧ y.qReason = some .thermal ∧ y.allowance = x.allowance)
    else y.state = x.state ∧ y.allowance = x.allowance ∧ bladeTemp y = some t ∧ y.stale = false
      ∧ y.zoneInput = some (min 127 (t + slotOffset c u n)) := by
  have pow : powered ((reported c n bs u).slot n) = true := reported_powered.trans h
  rw [acceptReport_some ht]
  dsimp only
  split
  · rw [cutToFault_slot _ _ _ _ pow]
    exact ⟨rfl, rfl, rfl, rfl⟩
  · split
    · refine ⟨fun hs => ?_, fun hs => ?_⟩
      · rw [thermalTrip_charging (reported_state.trans hs), cutToSettling_slot _ _ _ pow]
        exact ⟨rfl, rfl, rfl⟩
      · obtain ⟨state, reason, allowance⟩ := thermalTrip_quiesces (c := c) (n := n) (u := reported c n bs u) (by rwa [reported_state])
        exact ⟨state, reason, allowance.trans (by rw [reported_slot]; rfl)⟩
    · refine ⟨reported_state, by rw [reported_slot]; rfl, reported_bladeTemp.trans ht, by rw [reported_slot]; rfl, ?_⟩
      rw [reported_slot, reportedSlot, ht]
      rfl

/-! ### Overdue reports (R100) -/

theorem staleAt_on {x : Slot} {since : Nat} (hs : x.state = .on) (hf : x.stale = false) (ha : x.ageStart = some since) :
    staleAt c x = some (since + reportTimeout c) := by simp [staleAt, hs, hf, ha]

end

end Sys2Proof.Machine
end

section
open Sys2Proof Sys2Proof.Machine

/-- Settles O44: the deadline is that of the slot's age (`staleAt_on`), and an event sets its bit in a word and keeps the others. -/
theorem overdueReportGoesStale : Obligations.OverdueReportGoesStale := by
  intro s n since hs hf ha
  exact ⟨_, done_atTimer_act s (fun _ u => goStale n u) (staleAt_on hs hf ha), rfl, after_sameOutside _ _ _ rfl rfl, rfl,
    setSlotBit_flag n .reportStale _, setChassisBit_flag .reportStale _, fun b h => setSlotBit_keeps n n b .reportStale _ h, rfl⟩

/-- Settles O60: each position by its reading (`newReadings_getD`); below the trip temperature the slot stays as reported
(`acceptReport_below`, `reported_slot`), from there on it trips or is cut (`acceptReport_judged`). -/
theorem reportUpdatesReadingPositions : Obligations.ReportUpdatesReadingPositions := by
  refine ⟨fun old k bs h1 h4 => ⟨newReadings_length _ _ _, fun i hi => ?_, fun i hi => ?_⟩,
    fun c n u bs h1 h4 hp => by rw [takeReport_powered h1 h4 hp], fun c n u bs h1 h4 hs hr => ?_, fun c n u bs h1 h4 hp hT => ?_,
    fun c n u bs => ⟨takeReport_bad, takeReport_dark⟩, fun c n u bs T h1 h4 hp hT => ?_⟩
  · rw [newReadings_getD old h4, if_neg (by omega)]
  · rw [newReadings_getD old h4, if_pos hi]
    exact ⟨newReading_temp _, fun h => by rw [h, newReading_empty], newReading_kept _⟩
  · have noTemp : reportTemp n bs u = none := reportTemp_eq_none hr
    rw [takeReport_powered h1 h4 (powered_iff.mpr (.inr (.inl hs))), acceptReport_below (by simp [noTemp])]
    refine ⟨?_, reported_bladeTemp.trans noTemp, ?_, reported_state.trans hs⟩
    · rw [reported_slot]
      exact if_pos hs
    · rw [reported_slot, reportedSlot, noTemp]
      rfl
  · rw [takeReport_powered h1 h4 hp, acceptReport_below hT, reported_slot]
    exact ⟨rfl, rfl, rfl, rfl⟩
  · rw [takeReport_powered h1 h4 hp]
    exact ⟨only_acceptReport.slots, acceptReport_judged hp hT⟩
end

section
/-! PROOFS. The fan generators (R118 to R121): the high times of a dither group, and the level that a loaded generator puts out. -/

namespace Sys2Proof.Machine

/-! ### High times (R119) -/

/-- A generator that makes `q` quarter counts. -/
def quarterGen (q : Nat) : Gen := { drives := true, c := q / 4, f := q % 4 }

theorem loadGen_drives (u : Units) (upper : Nat) (f : Fin 6) :
    loadGen u upper f true = quarterGen (quarterCounts (u.zones.get (fanZone f)).duty upper) := rfl

theorem loadGen_rests (u : Units) (upper : Nat) (f : Fin 6) : loadGen u upper f false = .reset := rfl

/-- The quarters that each period adds before it cuts down to whole counts: a rest of 1, 2 or 3 goes to period 0, then 2, then 1 (R119). -/
def ditherQuarters : Fin 4 → Nat := ![3, 1, 2, 0]

theorem quarterGen_highTime (q : Nat) (i : Fin 4) : (quarterGen q).highTime i = (q + ditherQuarters i) / 4 := by
  match i with
  | 0 | 1 | 2 =>
    simp [Gen.highTime, quarterGen, ditherQuarters]
    split <;> omega
  | 3 => simp [Gen.highTime, quarterGen, ditherQuarters]

/-- The four periods make the quarter counts; the longest comes first, and the shortest is at most one count less. -/
theorem quarterGen_group (q : Nat) : let g := quarterGen q
    g.highTime 0 + g.highTime 1 + g.highTime 2 + g.highTime 3 = q ∧ g.highTime 3 ≤ g.highTime 1 ∧ g.highTime 1 ≤ g.highTime 2
      ∧ g.highTime 2 ≤ g.highTime 0 ∧ g.highTime 0 ≤ g.highTime 3 + 1 := by
  have offsets : ditherQuarters 0 = 3 ∧ ditherQuarters 1 = 1 ∧ ditherQuarters 2 = 2 ∧ ditherQuarters 3 = 0 := ⟨rfl, rfl, rfl, rfl⟩
  obtain ⟨h0, h1, h2, h3⟩ := offsets
  simp only [quarterGen_highTime, h0, h1, h2, h3]
  omega

theorem ditherQuarters_le (i : Fin 4) : ditherQuarters i ≤ 3 := by
  revert i
  decide

/-! ### Duties (R118, R119) -/

theorem quarterCounts_le {d : Nat} (upper : Nat) (h : d ≤ 1000) : quarterCounts d upper ≤ 4 * (upper + 1) := by
  have := Nat.mul_le_mul_right (upper + 1) h
  rw [quarterCounts]
  omega

theorem quarterCounts_full (upper : Nat) : quarterCounts 1000 upper = 4 * (upper + 1) := by
  rw [quarterCounts]
  omega

theorem quarterCounts_zero (upper : Nat) : quarterCounts 0 upper = 0 := by simp [quarterCounts]

/-- No high time is longer than the period. -/
theorem quarterGen_within {d upper : Nat} (h : d ≤ 1000) (i : Fin 4) : (quarterGen (quarterCounts d upper)).highTime i ≤ upper + 1 := by
  have := quarterCounts_le upper h
  have := ditherQuarters_le i
  rw [quarterGen_highTime]
  omega

theorem quarterGen_full (upper : Nat) (i : Fin 4) : (quarterGen (quarterCounts 1000 upper)).highTime i = upper + 1 := by
  have := ditherQuarters_le i
  rw [quarterGen_highTime, quarterCounts_full]
  omega

theorem quarterGen_zero (upper : Nat) (i : Fin 4) : (quarterGen (quarterCounts 0 upper)).highTime i = 0 := by
  have := ditherQuarters_le i
  rw [quarterGen_highTime, quarterCounts_zero]
  omega

/-! ### Loaded generators (R118 to R121) -/

/-- The generators with the parameters of row 23, loaded anew: the zone's duty where `drives` says so, at rest elsewhere. -/
def loadedPwm (c : Ctx) (u : Units) (p : Pwm) (drives : Fin 6 → Bool) : Pwm :=
  { takeParams c p with gens := Vector.ofFn (fun f => loadGen u (takeParams c p).upper f (drives f)) }

section loaded
variable {c : Ctx} {u : Units} {p : Pwm} {drives : Fin 6 → Bool} {f : Fin 6}

theorem loadedPwm_drives (h : drives f = true) : (loadedPwm c u p drives).gens.get f =
    quarterGen (quarterCounts (u.zones.get (fanZone f)).duty (loadedPwm c u p drives).upper) := by
  rw [← loadGen_drives, ← h]
  exact ofFn_get _ f

theorem loadedPwm_rests (h : drives f = false) : (loadedPwm c u p drives).gens.get f = .reset := by
  rw [← loadGen_rests u (loadedPwm c u p drives).upper f, ← h]
  exact ofFn_get _ f

theorem loadedPwm_output (i : Fin 4) (k : Nat) : (loadedPwm c u p drives).output f i k =
    (decide (k < ((loadedPwm c u p drives).gens.get f).highTime i) != (loadedPwm c u p drives).polarity.testBit f.val) := rfl

/-- At duty 1000 the output stays active for the whole period. -/
theorem loadedPwm_full (h : drives f = true) (hd : (u.zones.get (fanZone f)).duty = 1000) (i : Fin 4) {k : Nat}
    (hk : k ≤ (loadedPwm c u p drives).upper) :
    (loadedPwm c u p drives).output f i k = !(loadedPwm c u p drives).polarity.testBit f.val := by
  rw [loadedPwm_output, loadedPwm_drives h, hd, quarterGen_full, decide_eq_true (Nat.lt_succ_of_le hk), Bool.true_bne]

/-- At duty 0 the output stays inactive. -/
theorem loadedPwm_zero (h : drives f = true) (hd : (u.zones.get (fanZone f)).duty = 0) (i : Fin 4) (k : Nat) :
    (loadedPwm c u p drives).output f i k = (loadedPwm c u p drives).polarity.testBit f.val := by
  rw [loadedPwm_output, loadedPwm_drives h, hd, quarterGen_zero, decide_eq_false (Nat.not_lt_zero k), Bool.false_bne]

/-- A generator at rest holds its output inactive (R120). -/
theorem loadedPwm_inactive (h : drives f = false) (i : Fin 4) (k : Nat) :
    (loadedPwm c u p drives).output f i k = (loadedPwm c u p drives).polarity.testBit f.val := by
  have low : Gen.reset.highTime i = 0 := by simp [Gen.highTime, Gen.reset]
  rw [loadedPwm_output, loadedPwm_rests h, low, decide_eq_false (Nat.not_lt_zero k), Bool.false_bne]

/-- At a group start with the rows loaded the fan's state says whether its generator drives. -/
theorem groupStart_loaded (hd : c.sup.phase ≠ .deviceId) (hr : c.sup.phase ≠ .rows) (hs : c.pins.sampled = true) :
    groupStart c u p = loadedPwm c u p (fun f => (u.fans.get f).state != .absent) := by
  have loaded : configLoaded c = true := by simp [configLoaded, hd, hr]
  simp only [groupStart, loaded, if_true, genDrives, hs]
  rfl

/-- Generators that were held low start with the raw presence level (R121, log 10). -/
theorem startGens_held (h : p.running = false) : startGens c u p = loadedPwm c u p (fun f => (c.pins.bay.get (fanBay f)).raw) := by
  rw [startGens, h]
  rfl

/-- Generators that run go on as they are. -/
theorem startGens_running (h : p.running = true) : startGens c u p = p := if_pos h

end loaded

end Sys2Proof.Machine
end

section
open Sys2Proof Sys2Proof.Machine

/-- Settles O49: a group start loads the generators (`groupStart_loaded`), a present fan's makes its quarter counts (`quarterGen_group`), and
the constant levels are those of `loadedPwm`. -/
theorem ditherGroupMakesTheDuty : Obligations.DitherGroupMakesTheDuty := by
  intro s hdev hrows hsam
  let drives (f : Fin 6) : Bool := (s.units.fans.get f).state != .absent
  have run : exec .groupStart s = .next (finish s { s with pwm := loadedPwm s.ctx s.units s.pwm drives }) := by
    rw [← groupStart_loaded hdev hrows hsam]
    rfl
  refine ⟨_, run, rfl, rfl, rfl, rfl, rfl, rfl, rfl, rfl, rfl, rfl, fun f hf => ?_, fun f hf => ?_⟩
  · have present : drives f = true := bne_iff_ne.mpr hf
    have gen := loadedPwm_drives (c := s.ctx) (u := s.units) (p := s.pwm) present
    simp only [finish_pwm, gen]
    obtain ⟨sum, h31, h12, h20, h03⟩ :=
      quarterGen_group (quarterCounts (s.units.zones.get (fanZone f)).duty (loadedPwm s.ctx s.units s.pwm drives).upper)
    exact ⟨sum, h31, h12, h20, h03, fun hd i => quarterGen_within hd i, fun hd i k hk => loadedPwm_full present hd i hk,
      fun hd i k => loadedPwm_zero present hd i k⟩
  · have absent : drives f = false := by simp [drives, hf]
    exact loadedPwm_inactive absent
end

section
/-! PROOFS. The configuration load (R173): each row judged alone, each curve's pair of rows together, and the rows that take their defaults
handed to the pending set. -/

namespace Sys2Proof.Machine

section
variable {g : Cfg} {r j : Fin 25} {z : Fin 3}

/-- The configuration unit holds `row` in place `r`, with this fault bit. -/
def HoldsRow (g : Cfg) (r : Fin 25) (row : Row) (fault : Bool) : Prop := g.rows.get r = row ∧ g.fault.get r = fault

/-- Two configurations agree in place `r`. -/
theorem HoldsRow.congr {g' : Cfg} {row : Row} {fault : Bool} (h : HoldsRow g r row fault)
    (e : g'.rows.get r = g.rows.get r ∧ g'.fault.get r = g.fault.get r) : HoldsRow g' r row fault := ⟨e.1.trans h.1, e.2.trans h.2⟩

/-- A row with its fault bit set runs on its defaults. -/
def FaultsDefault (g : Cfg) : Prop := ∀ r, g.fault.get r = true → g.rows.get r = defaultRow r

/-! ### Rows judged alone -/

/-- What the load makes of a row that is judged alone. -/
def aloneRow (image : Fin 25 → List Byte) (r : Fin 25) : Row := if rowLoads r (image r) then (image r).take 15 else defaultRow r

theorem loadRow_self (g : Cfg) (image : Fin 25 → List Byte) (r : Fin 25) :
    HoldsRow (loadRow (image r) r g) r (aloneRow image r) (!rowLoads r (image r)) := by
  rw [loadRow, aloneRow]
  cases h : rowLoads r (image r) <;> exact ⟨updAt_get_self .., updAt_get_self ..⟩

theorem loadRow_other (h : r ≠ j) (bs : List Byte) :
    (loadRow bs r g).rows.get j = g.rows.get j ∧ (loadRow bs r g).fault.get j = g.fault.get j := by
  rw [loadRow]
  split <;> exact ⟨updAt_get_ne _ _ _ _ h, updAt_get_ne _ _ _ _ h⟩

/-- The rows judged alone, before the curves are. -/
def loadedAlone (image : Fin 25 → List Byte) (g : Cfg) : Cfg := (indices 25).foldl (fun g r => loadRow (image r) r g) g

theorem loadedAlone_row (g : Cfg) (image : Fin 25 → List Byte) (r : Fin 25) :
    HoldsRow (loadedAlone image g) r (aloneRow image r) (!rowLoads r (image r)) := by
  refine foldl_turn (f := fun g r => loadRow (image r) r g) (P := fun _ => True)
    (Q := fun v : Cfg => HoldsRow v r (aloneRow image r) (!rowLoads r (image r))) (fun _ _ _ _ => trivial) (fun v _ => loadRow_self v image r)
    (fun v j hj hv => ?_) (List.nodup_finRange 25) (mem_indices r) trivial
  exact hv.congr (loadRow_other hj _)

theorem loadedAlone_faults (g : Cfg) (image : Fin 25 → List Byte) : FaultsDefault (loadedAlone image g) := fun r hr => by
  obtain ⟨row, fault⟩ := loadedAlone_row g image r
  rw [fault] at hr
  rw [row, aloneRow, if_neg (by simpa using hr)]

/-! ### Curves judged by their pair of rows -/

theorem loadPair_other (h : r ≠ (curveRows z).1 ∧ r ≠ (curveRows z).2) :
    (loadPair g z).rows.get r = g.rows.get r ∧ (loadPair g z).fault.get r = g.fault.get r := by
  obtain ⟨first, second⟩ := h
  simp only [loadPair]
  split
  · exact ⟨rfl, rfl⟩
  · simp only [updAt_get, first.symm, second.symm, if_false, and_self]

/-- The configuration unit holds these rows, with these fault bits, for the curve of zone `z`. -/
def HoldsCurve (g : Cfg) (z : Fin 3) (row : Fin 25 → Row) (fault : Fin 25 → Bool) : Prop :=
  HoldsRow g (curveRows z).1 (row (curveRows z).1) (fault (curveRows z).1)
    ∧ HoldsRow g (curveRows z).2 (row (curveRows z).2) (fault (curveRows z).2)

/-- The rows of a curve are of its own zone alone. -/
theorem curveRows_other {y : Fin 3} (h : y ≠ z) : ((curveRows z).1 ≠ (curveRows y).1 ∧ (curveRows z).1 ≠ (curveRows y).2)
    ∧ (curveRows z).2 ≠ (curveRows y).1 ∧ (curveRows z).2 ≠ (curveRows y).2 := by
  revert y z
  decide

theorem HoldsCurve.loadPair_other {row : Fin 25 → Row} {fault : Fin 25 → Bool} {y : Fin 3} (h : HoldsCurve g z row fault) (hy : y ≠ z) :
    HoldsCurve (loadPair g y) z row fault :=
  ⟨h.1.congr (Machine.loadPair_other (curveRows_other hy).1), h.2.congr (Machine.loadPair_other (curveRows_other hy).2)⟩

/-- A curve whose demands are out of order takes the defaults of both its rows, any other stays. -/
theorem HoldsCurve.loadPair_self {row : Fin 25 → Row} {fault : Fin 25 → Bool} (h : HoldsCurve g z row fault) :
    if demandsOrdered (row (curveRows z).1) (row (curveRows z).2) then HoldsCurve (loadPair g z) z row fault
    else HoldsCurve (loadPair g z) z defaultRow (fun _ => true) := by
  have distinct : (curveRows z).2 ≠ (curveRows z).1 := by simp [curveRows]
  obtain ⟨⟨row1, -⟩, row2, -⟩ := id h
  simp only [loadPair, row1, row2]
  split
  · exact h
  · exact ⟨⟨(updAt_get_ne _ _ _ _ distinct).trans (updAt_get_self ..), (updAt_get_ne _ _ _ _ distinct).trans (updAt_get_self ..)⟩,
      updAt_get_self .., updAt_get_self ..⟩

theorem FaultsDefault.loadPair (h : FaultsDefault g) (z : Fin 3) : FaultsDefault (loadPair g z) := fun r hr => by
  simp only [Machine.loadPair] at hr ⊢
  split at hr
  · next ho => rw [if_pos ho]; exact h r hr
  · next ho =>
    rw [if_neg ho]
    simp only [updAt_get] at hr ⊢
    by_cases e2 : (curveRows z).2 = r
    · rw [if_pos e2, e2]
    · rw [if_neg e2] at hr ⊢
      by_cases e1 : (curveRows z).1 = r
      · rw [if_pos e1, e1]
      · rw [if_neg e1] at hr ⊢
        exact h r hr

/-! ### The load -/

theorem loadRows_eq (image : Fin 25 → List Byte) (g : Cfg) : loadRows image g = (indices 3).foldl loadPair (loadedAlone image g) := rfl

/-- Rows of no curve are judged alone. -/
theorem loadRows_alone (g : Cfg) (image : Fin 25 → List Byte) (h : r.val < 14 ∨ 20 ≤ r.val) :
    HoldsRow (loadRows image g) r (aloneRow image r) (!rowLoads r (image r)) := by
  have noCurve (z : Fin 3) : r ≠ (curveRows z).1 ∧ r ≠ (curveRows z).2 := by
    simp only [curveRows, ne_eq, Fin.ext_iff]
    omega
  rw [loadRows_eq]
  exact List.foldlRecOn (motive := fun v : Cfg => HoldsRow v r (aloneRow image r) (!rowLoads r (image r))) (indices 3) loadPair
    (loadedAlone_row g image r) (fun v hv z _ => hv.congr (loadPair_other (noCurve z)))

/-- The rows of a curve as they were judged alone, or their defaults. -/
theorem loadRows_curve (g : Cfg) (image : Fin 25 → List Byte) (z : Fin 3) :
    if demandsOrdered (aloneRow image (curveRows z).1) (aloneRow image (curveRows z).2) then
      HoldsCurve (loadRows image g) z (aloneRow image) (fun r => !rowLoads r (image r))
    else HoldsCurve (loadRows image g) z defaultRow (fun _ => true) := by
  have turn (row : Fin 25 → Row) (fault : Fin 25 → Bool) (h : ∀ v, HoldsCurve v z (aloneRow image) (fun r => !rowLoads r (image r)) →
      HoldsCurve (loadPair v z) z row fault) : HoldsCurve (loadRows image g) z row fault := by
    rw [loadRows_eq]
    exact foldl_turn (P := fun v : Cfg => HoldsCurve v z (aloneRow image) (fun r => !rowLoads r (image r)))
      (Q := fun v : Cfg => HoldsCurve v z row fault) (fun v y hy hv => hv.loadPair_other hy) h (fun v y hy hv => hv.loadPair_other hy)
      (List.nodup_finRange 3) (mem_indices z) ⟨loadedAlone_row g image _, loadedAlone_row g image _⟩
  split
  · next ho => exact turn _ _ (fun v hv => by have judged := hv.loadPair_self; rwa [if_pos ho] at judged)
  · next ho => exact turn _ _ (fun v hv => by have judged := hv.loadPair_self; rwa [if_neg ho] at judged)

theorem loadRows_faults (image : Fin 25 → List Byte) (g : Cfg) : FaultsDefault (loadRows image g) := by
  rw [loadRows_eq]
  exact List.foldlRecOn (motive := FaultsDefault) _ _ (loadedAlone_faults g image) (fun v hv z _ => hv.loadPair z)

/-- The load changes rows and fault bits alone. -/
theorem loadRows_rest (image : Fin 25 → List Byte) (g : Cfg) :
    loadRows image g = { g with rows := (loadRows image g).rows, fault := (loadRows image g).fault } := by
  have alone : loadedAlone image g = { g with rows := (loadedAlone image g).rows, fault := (loadedAlone image g).fault } := by
    refine List.foldlRecOn (motive := fun v : Cfg => v = { g with rows := v.rows, fault := v.fault }) _ _ rfl ?_
    intro v hv r _
    rw [loadRow]
    split <;> · rw [hv]
  rw [loadRows_eq]
  refine List.foldlRecOn (motive := fun v : Cfg => v = { g with rows := v.rows, fault := v.fault }) _ _ alone ?_
  intro v hv z _
  simp only [loadPair]
  split
  · exact hv
  · rw [hv]

/-! ### Faults joining the pending set -/

/-- One row's turn in `touchFaults`. -/
def touchFault (s : State) (r : Fin 25) : State := if s.ctx.cfg.fault.get r then s.touch (.row r) else s

theorem touchFaults_eq (s : State) : touchFaults s = (indices 25).foldl touchFault s := rfl

/-- Records are touched, and nothing else changes. -/
theorem touchFaults_rest (s : State) : ∃ l, touchFaults s = { s with units := { s.units with touched := l } } := by
  rw [touchFaults_eq]
  refine List.foldlRecOn (motive := fun v : State => ∃ l, v = { s with units := { s.units with touched := l } }) (indices 25) touchFault
    ⟨s.units.touched, rfl⟩ ?_
  rintro v ⟨l, rfl⟩ r -
  rw [touchFault]
  split
  · exact ⟨_, rfl⟩
  · exact ⟨_, rfl⟩

/-- A row with its fault bit set is touched. -/
theorem touchFaults_mem {s : State} (h : s.ctx.cfg.fault.get r = true) : RecId.row r ∈ (touchFaults s).units.touched := by
  have ctx (v : State) (j : Fin 25) : (touchFault v j).ctx = v.ctx := by rw [touchFault]; split <;> rfl
  have turn (v : State) (hv : v.ctx = s.ctx) : RecId.row r ∈ (touchFault v r).units.touched := by
    rw [touchFault, hv, if_pos h]
    exact List.mem_append_right _ (List.mem_singleton.mpr rfl)
  have after (v : State) (j : Fin 25) (hv : RecId.row r ∈ v.units.touched) : RecId.row r ∈ (touchFault v j).units.touched := by
    rw [touchFault]
    split
    · exact List.mem_append_left _ hv
    · exact hv
  rw [touchFaults_eq]
  exact foldl_turn (l := indices 25) (P := fun v : State => v.ctx = s.ctx) (Q := fun v : State => RecId.row r ∈ v.units.touched)
    (fun v j _ hv => (ctx v j).trans hv) turn (fun v j _ hv => after v j hv) (List.nodup_finRange 25) (mem_indices r) rfl

theorem row_mem_allRecs (r : Fin 25) : RecId.row r ∈ allRecs := List.mem_append_right _ (List.mem_map_of_mem (mem_indices r))

/-! ### The end of the row reads (R173, R177) -/

/-- The context with the rows loaded from memory and queue as they stand. -/
def rowsCtx (s : State) : Ctx := { s.ctx with cfg := loadRows (fun r => stored s (.row r)) s.ctx.cfg }

theorem rowsCtx_sup (s : State) : (rowsCtx s).sup = s.ctx.sup := by rw [rowsCtx]
theorem rowsCtx_pins (s : State) : (rowsCtx s).pins = s.ctx.pins := by rw [rowsCtx]
theorem rowsCtx_cfg (s : State) : (rowsCtx s).cfg = loadRows (fun r => stored s (.row r)) s.ctx.cfg := by rw [rowsCtx]
theorem rowsCtx_lastRow (s : State) : (rowsCtx s).cfg.lastRow = s.ctx.cfg.lastRow := by rw [rowsCtx_cfg, loadRows_rest]

/-- With a context `c`, the rows on their defaults are touched and the generators start. -/
theorem generatorsStart_touchFaults (s : State) (c : Ctx) : ∃ l, (∀ r, c.cfg.fault.get r = true → RecId.row r ∈ l)
    ∧ generatorsStart (touchFaults { s with ctx := c }) =
      { s with ctx := c, units := { s.units with touched := l }, pwm := startGens c s.units s.pwm } := by
  obtain ⟨l, hl⟩ := touchFaults_rest { s with ctx := c }
  refine ⟨l, fun r hr => ?_, by rw [hl]; rfl⟩
  have mem := touchFaults_mem (s := { s with ctx := c }) hr
  rwa [hl] at mem

/-- The rows are loaded, those on their defaults touched, the generators started and the records asked for. -/
theorem rowsRead_eq (s : State) : ∃ l, (∀ r, (rowsCtx s).cfg.fault.get r = true → RecId.row r ∈ l) ∧ rowsRead s = { s with
    ctx := { rowsCtx s with sup := { s.ctx.sup with phase := .records } }, units := { s.units with touched := l },
    pwm := startGens (rowsCtx s) s.units s.pwm, reads := s.reads ++ markLast .records (recordReads s.ctx.sup.cold) } := by
  obtain ⟨l, touched, start⟩ := generatorsStart_touchFaults s (rowsCtx s)
  have load : s.setCfg (loadRows (fun r => stored s (.row r))) = { s with ctx := rowsCtx s } := rfl
  refine ⟨l, touched, ?_⟩
  simp only [rowsRead, load, start, State.setSup, rowsCtx_sup]

/-- A read that is not the last makes way for the next (log 17). -/
theorem exec_notLast {s : State} {read : IRead} {a len : Nat} {rest : List IRead} (hp : s.port = some .internal) (hr : s.reads = read :: rest)
    (h : read = .rows a len false ∨ read = .records a len false) :
    exec .internalReadComplete s = .next (finish s { s with reads := rest, port := none }) := by
  show done s (completeInternal s) = _
  rw [completeInternal, hp, hr]
  rcases h with rfl | rfl <;> rfl

/-- What the last of the row reads ends with. -/
theorem exec_rows {s : State} {a len : Nat} {rest : List IRead} (hp : s.port = some .internal) (hr : s.reads = .rows a len true :: rest) :
    exec .internalReadComplete s = .next (finish s (rowsRead { s with reads := rest, port := none })) := by
  show done s (completeInternal s) = _
  rw [completeInternal, hp, hr]
  rfl

end

end Sys2Proof.Machine
end

section
open Sys2Proof Sys2Proof.Machine

/-- Settles O12: a row of no curve is judged alone (`loadRows_alone`), a curve's two together (`loadRows_curve`), a row on its defaults joins
the pending set (`finish_touched`), and held generators start loaded (`startGens_held`). -/
theorem configurationLoadFillsTheShadow : Obligations.ConfigurationLoadFillsTheShadow := by
  refine ⟨fun s read a len rest hport hreads hread => ⟨_, exec_notLast hport hreads hread, rfl, rfl, rfl, rfl, rfl, rfl, rfl, rfl, rfl⟩,
    fun s a len rest hport hreads => ?_⟩
  let s0 : State := { s with reads := rest, port := none }
  let image (r : Fin 25) : List Byte := stored s0 (.row r)
  have cfg : (rowsCtx s0).cfg = loadRows image s.ctx.cfg := rowsCtx_cfg s0
  have pins : (rowsCtx s0).pins = s.ctx.pins := rowsCtx_pins s0
  have lastRow : (rowsCtx s0).cfg.lastRow = s.ctx.cfg.lastRow := rowsCtx_lastRow s0
  have alone (r : Fin 25) (h : r.val < 14 ∨ 20 ≤ r.val) := loadRows_alone s.ctx.cfg image h
  have curve (z : Fin 3) := loadRows_curve s.ctx.cfg image z
  have faults : FaultsDefault (loadRows image s.ctx.cfg) := loadRows_faults image s.ctx.cfg
  obtain ⟨l, touched, eq⟩ := rowsRead_eq s0
  have run := exec_rows hport hreads
  have join (r : Fin 25) (hr : (rowsCtx s0).cfg.fault.get r = true) :=
    finish_touched (pre := s) (post := rowsRead s0) (by rw [eq]; exact touched r hr) (row_mem_allRecs r)
  rw [eq] at run
  simp only [eq] at join
  rw [← cfg] at alone curve faults
  generalize rowsCtx s0 = c at *
  refine ⟨_, run, rfl, rfl, rfl, ⟨alone, curve⟩, fun r hr => ?_, lastRow, pins, rfl, fun hrun => startGens_running hrun, fun hrun => ?_,
    rfl, rfl, rfl, rfl⟩
  · obtain ⟨e, he, record, content⟩ := join r hr
    exact ⟨e, he, record, content.trans (congrArg rowImage (faults r hr))⟩
  · simp only [finish_pwm, startGens_held (c := c) (u := s0.units) (p := s0.pwm) hrun, ← pins]
    exact ⟨rfl, rfl, rfl, fun f hraw hd i k hk => loadedPwm_full hraw hd i hk, fun f hraw i k => loadedPwm_inactive hraw i k⟩
end

section
/-! PROOFS. The temperature curve of a zone (R113): four points that the row checks have put in order, and the curve as its first demand with
the rises of the three segments on top. -/

namespace Sys2Proof.Machine

/-! ### The rows of a curve (R127, R172) -/

/-- A row that passes its check: its ranges hold, and it is consistent alone and against the shadow. -/
theorem rowCheck_eq_pass {rows : Vector Row 25} {r : Fin 25} {row : Row} : rowCheck rows r row = .pass ↔
    rowRangesHold r row = true ∧ rowAloneConsistent r row = true ∧ rowDemandsOrdered rows r row = true := by
  rw [rowCheck]
  cases rowRangesHold r row <;> cases rowAloneConsistent r row <;> cases rowDemandsOrdered rows r row <;> decide

/-- The points of a curve are in order: temperatures rise strictly, and demands do not fall. -/
structure RisingPoints (c : Ctx) (z : Fin 3) : Prop where
  temp01 : (curvePoint c z 0).1 < (curvePoint c z 1).1
  temp12 : (curvePoint c z 1).1 < (curvePoint c z 2).1
  temp23 : (curvePoint c z 2).1 < (curvePoint c z 3).1
  demand01 : (curvePoint c z 0).2 ≤ (curvePoint c z 1).2
  demand12 : (curvePoint c z 1).2 ≤ (curvePoint c z 2).2
  demand23 : (curvePoint c z 2).2 ≤ (curvePoint c z 3).2

theorem toList_getD {α : Type} {k : Nat} (t : Vector α k) (i : Fin k) (d : α) : t.toList.getD i.val d = t.get i := by
  rw [get_eq, List.getD_eq_getElem _ _ (by simp), Vector.getElem_toList]

/-- Temperatures and lower demands stand in the first row of a curve, and the other row of the check is its second. -/
theorem curveRow_ordered {rows : Vector Row 25} {z : Fin 3} {row : Row} (h : rowCheck rows ⟨14 + 2 * z.val, by omega⟩ row = .pass) :
    (signedAt row 0 < signedAt row 1 ∧ signedAt row 1 < signedAt row 2 ∧ signedAt row 2 < signedAt row 3)
      ∧ wordAt row 4 ≤ wordAt row 6 ∧ wordAt row 6 ≤ wordAt (rows.get ⟨15 + 2 * z.val, by omega⟩) 0 := by
  obtain ⟨-, temps, demands⟩ := rowCheck_eq_pass.mp h
  have second : rows.toList.getD (14 + 2 * z.val + 1) [] = rows.get ⟨15 + 2 * z.val, by omega⟩ := by
    rw [← toList_getD _ _ []]
    exact congrArg (rows.toList.getD · []) (show 14 + 2 * z.val + 1 = 15 + 2 * z.val by omega)
  have range : 14 + 2 * z.val < 20 := by omega
  simp only [rowAloneConsistent, rowDemandsOrdered, range, second] at temps demands
  simpa using And.intro temps demands

/-- The upper demands stand in the second row of a curve. -/
theorem limitRow_ordered {rows : Vector Row 25} {z : Fin 3} {row : Row} (h : rowCheck rows ⟨15 + 2 * z.val, by omega⟩ row = .pass) :
    wordAt row 0 ≤ wordAt row 2 := by
  obtain ⟨-, -, demands⟩ := rowCheck_eq_pass.mp h
  have range : 14 ≤ 15 + 2 * z.val ∧ 15 + 2 * z.val < 20 := by omega
  have odd : ¬ (15 + 2 * z.val) % 2 = 0 := by omega
  rw [rowDemandsOrdered, if_pos range, if_neg odd] at demands
  exact (of_decide_eq_true demands).2

theorem risingPoints_of_rowsPass {s : State} (h : RowsPass s) (z : Fin 3) : RisingPoints s.ctx z := by
  obtain ⟨⟨t01, t12, t23⟩, d01, d12⟩ := curveRow_ordered (z := z) (h _)
  exact ⟨t01, t12, t23, d01, d12, limitRow_ordered (z := z) (h _)⟩

/-! ### Segments -/

/-- What the segment from `a` to `b` adds to the demand up to the temperature `t`: nothing before it, its whole height beyond it. -/
def rise (a b : Int × Nat) (t : Int) : Int := (min (max t a.1) b.1 - a.1) * ((b.2 : Int) - a.2) / (b.1 - a.1)

section segment
variable {a b : Int × Nat} {t t' : Int}

theorem rise_within (h : a.1 ≤ t) (h' : t ≤ b.1) : rise a b t = (t - a.1) * ((b.2 : Int) - a.2) / (b.1 - a.1) := by
  rw [rise, max_eq_left h, min_eq_left h']

variable (temp : a.1 < b.1)
include temp

theorem rise_before (h : t ≤ a.1) : rise a b t = 0 := by
  rw [rise, max_eq_right h, min_eq_left temp.le, sub_self, zero_mul, Int.zero_ediv]

theorem rise_beyond (h : b.1 ≤ t) : rise a b t = (b.2 : Int) - a.2 := by
  rw [rise, min_eq_right (le_max_of_le_left h), Int.mul_ediv_cancel_left _ (by omega)]

theorem rise_mono (demand : a.2 ≤ b.2) (h : t ≤ t') : rise a b t ≤ rise a b t' := by
  refine Int.ediv_le_ediv (by omega) (mul_le_mul_of_nonneg_right ?_ (by omega))
  have := min_le_min_right b.1 (max_le_max_right a.1 h)
  omega

theorem rise_nonneg (demand : a.2 ≤ b.2) (t : Int) : 0 ≤ rise a b t := by
  rw [← rise_before temp (min_le_left a.1 t)]
  exact rise_mono temp demand (min_le_right a.1 t)

theorem rise_le (demand : a.2 ≤ b.2) (t : Int) : rise a b t ≤ (b.2 : Int) - a.2 := by
  rw [← rise_beyond temp (le_max_left b.1 t)]
  exact rise_mono temp demand (le_max_right b.1 t)

end segment

/-! ### The curve -/

section curve
variable {c : Ctx} {z : Fin 3} (p : RisingPoints c z)
include p

/-- The curve is its first demand and the rises of its segments. -/
theorem curveValue_eq_rises (t : Int) : (curveValue c z t : Int) = (curvePoint c z 0).2
    + rise (curvePoint c z 0) (curvePoint c z 1) t + rise (curvePoint c z 1) (curvePoint c z 2) t
    + rise (curvePoint c z 2) (curvePoint c z 3) t := by
  obtain ⟨t01, t12, t23, d01, d12, d23⟩ := p
  simp only [curveValue]
  split
  · next h => rw [rise_before t01 h, rise_before t12 (by omega), rise_before t23 (by omega)]; omega
  · split
    · next h => rw [rise_beyond t23 h, rise_beyond t12 (by omega), rise_beyond t01 (by omega)]; omega
    · split
      · have := rise_nonneg t01 d01 t
        rw [rise_before t12 (by omega), rise_before t23 (by omega), ← rise_within (by omega) (by omega)]; omega
      · split
        · have := rise_nonneg t12 d12 t
          rw [rise_beyond t01 (by omega), rise_before t23 (by omega), ← rise_within (by omega) (by omega)]; omega
        · have := rise_nonneg t23 d23 t
          rw [rise_beyond t01 (by omega), rise_beyond t12 (by omega), ← rise_within (by omega) (by omega)]; omega

/-- At each point the segments before it have risen whole and those behind it not at all. -/
theorem curveValue_point (i : Fin 4) : curveValue c z (curvePoint c z i).1 = (curvePoint c z i).2 := by
  have e := curveValue_eq_rises p (curvePoint c z i).1
  obtain ⟨t01, t12, t23, -, -, -⟩ := p
  match i with
  | 0 => rw [rise_before t01 le_rfl, rise_before t12 (by omega), rise_before t23 (by omega)] at e; omega
  | 1 => rw [rise_beyond t01 le_rfl, rise_before t12 le_rfl, rise_before t23 (by omega)] at e; omega
  | 2 => rw [rise_beyond t01 (by omega), rise_beyond t12 le_rfl, rise_before t23 le_rfl] at e; omega
  | 3 => rw [rise_beyond t01 (by omega), rise_beyond t12 (by omega), rise_beyond t23 le_rfl] at e; omega

theorem curveValue_mono {t t' : Int} (h : t ≤ t') : curveValue c z t ≤ curveValue c z t' := by
  have e := curveValue_eq_rises p t
  have e' := curveValue_eq_rises p t'
  have r01 := rise_mono p.temp01 p.demand01 h
  have r12 := rise_mono p.temp12 p.demand12 h
  have r23 := rise_mono p.temp23 p.demand23 h
  omega

theorem curveValue_bounds (t : Int) : (curvePoint c z 0).2 ≤ curveValue c z t ∧ curveValue c z t ≤ (curvePoint c z 3).2 := by
  have e := curveValue_eq_rises p t
  obtain ⟨t01, t12, t23, d01, d12, d23⟩ := p
  constructor
  · have r01 := rise_nonneg t01 d01 t
    have r12 := rise_nonneg t12 d12 t
    have r23 := rise_nonneg t23 d23 t
    omega
  · have r01 := rise_le t01 d01 t
    have r12 := rise_le t12 d12 t
    have r23 := rise_le t23 d23 t
    omega

end curve

end Sys2Proof.Machine
end

section
open Sys2Proof Sys2Proof.Machine

/-- Settles O59: the row checks put the points in order (`risingPoints_of_rowsPass`), and the curve is a sum of rises
(`curveValue_eq_rises`). -/
theorem curveRisesThroughItsPoints : Obligations.CurveRisesThroughItsPoints := by
  intro s z h
  have p := risingPoints_of_rowsPass h z
  exact ⟨curveValue_point p, curveValue_bounds p, fun _ _ => curveValue_mono p⟩
end

section
/-! PROOFS. The fan unit (R112 to R117, R122 to R125): what it may change, a zone's update, the floors, and the judgment of a tach gate. -/

namespace Sys2Proof.Machine

/-- The fan unit has acted: zones, fans, the gate timer and the chassis event word may have changed, and no event bit is gone. -/
structure FanUnit (u v : Units) : Prop where
  units : v = { u with zones := v.zones, fans := v.fans, gateTimer := v.gateTimer, chassisEvent := v.chassisEvent }
  bits : ∀ b, chassisFlag u b = true → chassisFlag v b = true

section
variable {c : Ctx} {u v w : Units} {z y : Fin 3} {f g : Fin 6}

theorem FanUnit.refl (u : Units) : FanUnit u u := ⟨rfl, fun _ h => h⟩

theorem FanUnit.trans (a : FanUnit u v) (b : FanUnit v w) : FanUnit u w where
  units := by
    have eb := b.units
    rw [a.units] at eb
    exact eb
  bits x h := b.bits x (a.bits x h)

theorem FanUnit.foldl {α : Type} {act : Units → α → Units} (h : ∀ u a, FanUnit u (act u a)) (l : List α) (u : Units) :
    FanUnit u (l.foldl act u) :=
  List.foldlRecOn (motive := fun v : Units => FanUnit u v) l act (.refl u) (fun v hv a _ => hv.trans (h v a))

theorem FanUnit.ite {p : Prop} [Decidable p] (a : FanUnit u v) (b : FanUnit u w) : FanUnit u (if p then v else w) := by split <;> assumption

theorem fanUnit_updZone (z : Fin 3) (act : Zone → Zone) : FanUnit u (u.updZone z act) := ⟨rfl, fun _ h => h⟩
theorem fanUnit_updFan (f : Fin 6) (act : Fan → Fan) : FanUnit u (u.updFan f act) := ⟨rfl, fun _ h => h⟩
theorem fanUnit_setChassisBit (b : ChassisBit) : FanUnit u (setChassisBit b u) := ⟨rfl, fun x h => setChassisBit_keeps x b u h⟩

theorem FanUnit.slot (h : FanUnit u v) (m : Fin 12) : v.slot m = u.slot m := by
  rw [h.units]
  rfl

/-- What the budget unit makes of it keeps the frame of everything that the fan unit does not change. -/
theorem FanUnit.frame (h : FanUnit u v) (k : Keeps dark v w) :
    Frame { u with zones := w.zones, fans := w.fans, gateTimer := w.gateTimer } w.settled := by
  refine (Frame.trans (v := v) ?_ k.frame).settled
  have fan : Frame { u with zones := v.zones, fans := v.fans, gateTimer := v.gateTimer } v := by
    have bits := h.bits
    rw [h.units] at bits ⊢
    exact ⟨rfl, rfl, rfl, rfl, rfl, rfl, rfl, rfl, rfl, rfl, rfl, rfl, rfl, rfl, rfl, fun _ => rfl, fun _ _ h => h, bits, fun _ h => h⟩
  rw [k.frame.zones, k.frame.fans, k.frame.gateTimer]
  exact fan

theorem FanUnit.dark (h : FanUnit u v) (k : Keeps Machine.dark v w) {m : Fin 12} (hd : Machine.dark (u.slot m) = true) :
    w.settled.slot m = u.slot m := (k.slots m (by rw [h.slot]; exact hd)).trans (h.slot m)

/-! ### Zones (R112 to R117) -/

/-- The estimate of a zone at a duty (R125). -/
def estimateAt (u : Units) (z : Fin 3) (d : Nat) : Nat :=
  ((zoneFans z).map (fun f => if fanCounts (u.fans.get f) then fanPower (u.fans.get f).rated d else 0)).sum

theorem fanUnit_zoneUpdate (z : Fin 3) : FanUnit u (zoneUpdate c z u) :=
  ((fanUnit_updZone z _).trans (fanUnit_updZone z _)).trans (fanUnit_updZone z _)

theorem zoneUpdate_other (h : y ≠ z) : (zoneUpdate c z u).zones.get y = u.zones.get y := by
  simp only [zoneUpdate, reEstimate, setDuty, updZone_zone, if_neg h.symm]

/-- A zone after its update. -/
theorem zoneUpdate_zone : (zoneUpdate c z u).zones.get z = { u.zones.get z with
    raw := rawDemand c u z, sources := (zoneDemands c u z).length, boost := zoneBoosts c u z, comp := fanShort u z, target := zoneTarget c u z,
    updTimer := some (c.now + updatePeriod c z), duty := nextDuty c u z,
    gateOk := (u.zones.get z).gateOk && decide (200 ≤ nextDuty c u z), estimate := estimateAt u z (nextDuty c u z) } := by
  simp only [zoneUpdate, reEstimate, setDuty, updZone_zone_self, zoneEstimate]
  rfl

theorem fanUnit_enforceFloor (z : Fin 3) : FanUnit u (enforceFloor c z u) :=
  .ite (((fanUnit_updZone z _).trans (fanUnit_updZone z _)).trans (fanUnit_updZone z _)) (.refl u)

theorem enforceFloor_other (h : y ≠ z) : (enforceFloor c z u).zones.get y = u.zones.get y := by
  rw [enforceFloor]
  split
  · simp only [reEstimate, setDuty, updZone_zone, if_neg h.symm]
  · rfl

theorem enforceFloor_duty : lowerLimit c z ≤ ((enforceFloor c z u).zones.get z).duty := by
  rw [enforceFloor]
  split
  · simp only [reEstimate, setDuty, updZone_zone_self, le_refl]
  · next h => exact Nat.not_lt.mp h

theorem enforceFloor_fans (z : Fin 3) : (enforceFloor c z u).fans = u.fans ∧ (enforceFloor c z u).gateTimer = u.gateTimer := by
  rw [enforceFloor]
  split <;> exact ⟨rfl, rfl⟩

/-- The floors of all zones enforced. -/
def enforceFloors (c : Ctx) (u : Units) : Units := (indices 3).foldl (fun u z => enforceFloor c z u) u

theorem enforceFloors_duty (z : Fin 3) : lowerLimit c z ≤ ((enforceFloors c u).zones.get z).duty :=
  foldl_turn (f := fun u z => enforceFloor c z u) (b := z) (P := fun _ => True)
    (Q := fun v : Units => lowerLimit c z ≤ (v.zones.get z).duty) (fun _ _ _ _ => trivial) (fun _ _ => enforceFloor_duty)
    (fun v y hy hv => by rw [enforceFloor_other hy.symm]; exact hv) (List.nodup_finRange 3) (mem_indices z) trivial

theorem fanUnit_enforceFloors : FanUnit u (enforceFloors c u) := FanUnit.foldl (fun _ z => fanUnit_enforceFloor z) _ _

theorem enforceFloors_fans : (enforceFloors c u).fans = u.fans ∧ (enforceFloors c u).gateTimer = u.gateTimer :=
  List.foldlRecOn (motive := fun v : Units => v.fans = u.fans ∧ v.gateTimer = u.gateTimer) (indices 3) _ ⟨rfl, rfl⟩
    (fun _ hv z _ => ⟨(enforceFloor_fans z).1.trans hv.1, (enforceFloor_fans z).2.trans hv.2⟩)

/-! ### The heartbeat (R175, R176) -/

theorem setChassisBit_other {b b' : ChassisBit} (h : chassisBit b' ≠ chassisBit b) : chassisFlag (setChassisBit b' u) b = chassisFlag u b := by
  simp [chassisFlag, setChassisBit, withBit_getLsbD _ _ _ (chassisBit_lt b'), h]

/-- The context once the heartbeat is lost, in the mode `m`. -/
def lostCtx (c : Ctx) (m : Mode) : Ctx := { c with sup := { c.sup with hbTimer := none, served := false, mode := m } }

theorem lowerLimit_failsafe (h : c.sup.mode = .failsafe) : lowerLimit c z = max (zoneFloor c z) (failsafeDuty c z) := if_pos h

/-- From NORMAL the loss enters FAILSAFE. -/
theorem exec_heartbeat_normal {s : State} {d : Nat} (h : s.ctx.sup.hbTimer = some d) (hm : s.ctx.sup.mode = .normal) :
    let c := lostCtx (atDeadline s.ctx d) .failsafe
    exec .heartbeatTimerExpiry s =
      .next (s.after c (settle c (enforceFloors c (setChassisBit .failsafe (setChassisBit .heartbeatLate s.units))))) := by
  show done s (atTimer _ _ s) = _
  rw [h]
  exact congrArg (done s) (if_pos hm)

/-- In another mode the loss sets its bit alone. -/
theorem exec_heartbeat_else {s : State} {d : Nat} (h : s.ctx.sup.hbTimer = some d) (hm : s.ctx.sup.mode ≠ .normal) :
    exec .heartbeatTimerExpiry s =
      .next (s.after (lostCtx (atDeadline s.ctx d) s.ctx.sup.mode) (setChassisBit .heartbeatLate s.units)) := by
  show done s (atTimer _ _ s) = _
  rw [h]
  exact congrArg (done s) (if_neg hm)

/-! ### Tach gates (R122, R123) -/

theorem tachCount_open {d : Nat} (h : u.gateTimer = some d) :
    tachCount f u = u.updFan f (fun x => { x with count := min 1023 (x.count + 1) }) := if_pos (by rw [h]; rfl)

/-- The fan was there from the opening of the gate to its close. -/
def throughGate (x : Fan) : Bool := x.whole && x.state != .absent

/-- A fan at the close of its gate, before its record is derived again: `ok` says that the duty was high enough throughout. -/
def closedFan (c : Ctx) (ok : Bool) (x : Fan) : Fan :=
  let y := { x with pulses := if throughGate x then x.count else 0, count := 0, whole := x.state != .absent }
  if throughGate x && ok then judgeFan (minRpm c) y else { y with lowRun := 0, highRun := 0 }

/-- The fan whose gate has just closed, as its zone's mark and its own record say. -/
def fanAtClose (c : Ctx) (f : Fin 6) (u : Units) : Fan := closedFan c (u.zones.get (fanZone f)).gateOk (u.fans.get f)

/-- The record of a fan is replaced; a new verdict of failure sets its event bit. -/
def putFan (f : Fin 6) (x : Fan) (u : Units) : Units :=
  if x.verdictFailed && !(u.fans.get f).verdictFailed then setChassisBit .fanFault (u.updFan f (fun _ => x)) else u.updFan f (fun _ => x)

/-- A changed verdict derives the record again. -/
theorem closeGate_eq : closeGate c f u =
    if (fanAtClose c f u).verdictFailed = (u.fans.get f).verdictFailed then putFan f (fanAtClose c f u) u
    else deriveFan c f (putFan f (fanAtClose c f u) u) := rfl

theorem putFan_self (x : Fan) : (putFan f x u).fans.get f = x := by
  rw [putFan]
  split <;> exact updAt_get_self ..

theorem putFan_fault {x : Fan} (hn : x.verdictFailed = true) (ho : (u.fans.get f).verdictFailed = false) :
    chassisFlag (putFan f x u) .fanFault = true := by
  rw [putFan, hn, ho]
  exact setChassisBit_flag _ _

theorem fanUnit_putFan (f : Fin 6) (x : Fan) : FanUnit u (putFan f x u) :=
  .ite ((fanUnit_updFan f _).trans (fanUnit_setChassisBit _)) (fanUnit_updFan f _)

/-- The record of a present fan keeps everything but its state and its identity's values. -/
theorem deriveFan_present (h : bayLevel c (fanBay f) = true) : ∃ rated rpm, (deriveFan c f u).fans.get f = { u.fans.get f with
    state := fanStateOf true (u.fans.get f).verdictFailed (u.inv.get (bayPos (fanBay f))).state, rated := rated, maxRpm := rpm } := by
  simp only [deriveFan, reEstimate, updZone_fans, updFan_fan_self, h, if_true]
  exact ⟨_, _, rfl⟩

theorem fanUnit_deriveFan (f : Fin 6) : FanUnit u (deriveFan c f u) := (fanUnit_updFan f _).trans (fanUnit_updZone _ _)

theorem fanUnit_closeGate (f : Fin 6) : FanUnit u (closeGate c f u) := by
  rw [closeGate_eq]
  exact .ite (fanUnit_putFan f _) ((fanUnit_putFan f _).trans (fanUnit_deriveFan f))

/-- The gate of fan `f` has been closed: no other fan and no zone's gate mark has changed. -/
structure GateOf (f : Fin 6) (u v : Units) : Prop where
  fans : ∀ g, g ≠ f → v.fans.get g = u.fans.get g
  marks : ∀ z, (v.zones.get z).gateOk = (u.zones.get z).gateOk

theorem GateOf.trans (a : GateOf f u v) (b : GateOf f v w) : GateOf f u w :=
  ⟨fun g h => (b.fans g h).trans (a.fans g h), fun z => (b.marks z).trans (a.marks z)⟩

theorem gateOf_updFan (act : Fan → Fan) : GateOf f u (u.updFan f act) := ⟨fun _ h => updAt_get_ne _ _ _ _ h.symm, fun _ => rfl⟩

theorem gateOf_putFan (x : Fan) : GateOf f u (putFan f x u) := by
  rw [putFan]
  split <;> exact ⟨fun _ h => updAt_get_ne _ _ _ _ h.symm, fun _ => rfl⟩

theorem gateOf_reEstimate (z : Fin 3) : GateOf f u (reEstimate z u) := by
  refine ⟨fun _ _ => rfl, fun y => ?_⟩
  rw [reEstimate, updZone_zone]
  split <;> rfl

theorem gateOf_closeGate (f : Fin 6) : GateOf f u (closeGate c f u) := by
  rw [closeGate_eq]
  split
  · exact gateOf_putFan _
  · exact ((gateOf_putFan _).trans (gateOf_updFan _)).trans (gateOf_reEstimate _)

/-! ### The verdict on a fan (R123) -/

theorem judgeFan_low {x : Fan} {m : Nat} (h : x.pulses * 30 < m) : judgeFan m x =
    { x with lowRun := min 3 (x.lowRun + 1), highRun := 0, verdictFailed := x.verdictFailed || min 3 (x.lowRun + 1) == 3 } := if_pos h

theorem judgeFan_high {x : Fan} {m : Nat} (h : ¬ x.pulses * 30 < m) : judgeFan m x =
    { x with lowRun := 0, highRun := min 3 (x.highRun + 1), verdictFailed := x.verdictFailed && min 3 (x.highRun + 1) != 3 } := if_neg h

/-- A fan that was there throughout takes its pulses, judged or not. -/
theorem closedFan_through {x : Fan} (h : throughGate x = true) (ok : Bool) :
    (closedFan c ok x).pulses = x.count ∧ (closedFan c ok x).count = 0 ∧ (closedFan c ok x).whole = true := by
  have present : (x.state != .absent) = true := (Bool.and_eq_true_iff.mp h).2
  simp only [closedFan, h, present, if_true, Bool.true_and]
  split
  · rw [judgeFan]
    split <;> exact ⟨rfl, rfl, rfl⟩
  · exact ⟨rfl, rfl, rfl⟩

theorem closedFan_judged {x : Fan} (h : throughGate x = true) :
    closedFan c true x = judgeFan (minRpm c) { x with pulses := x.count, count := 0, whole := x.state != .absent } := by
  simp only [closedFan, h, if_true, Bool.true_and]

/-- A low gate lengthens the low run, and the third in a row is a failure. -/
theorem closedFan_low {x : Fan} (h : throughGate x = true) (low : x.count * 30 < minRpm c) : let y := closedFan c true x
    y.lowRun = min 3 (x.lowRun + 1) ∧ y.highRun = 0 ∧ (y.verdictFailed = true ↔ x.verdictFailed = true ∨ 2 ≤ x.lowRun) := by
  dsimp only
  rw [closedFan_judged h, judgeFan_low (x := { x with pulses := x.count, count := 0, whole := x.state != .absent }) low]
  refine ⟨rfl, rfl, ?_⟩
  rw [Bool.or_eq_true, beq_iff_eq]
  exact or_congr_right (show min 3 (x.lowRun + 1) = 3 ↔ 2 ≤ x.lowRun by omega)

/-- A good gate lengthens the high run, and the third in a row clears the verdict. -/
theorem closedFan_high {x : Fan} (h : throughGate x = true) (high : ¬ x.count * 30 < minRpm c) : let y := closedFan c true x
    y.highRun = min 3 (x.highRun + 1) ∧ y.lowRun = 0 ∧ (y.verdictFailed = true ↔ x.verdictFailed = true ∧ x.highRun < 2) := by
  dsimp only
  rw [closedFan_judged h, judgeFan_high (x := { x with pulses := x.count, count := 0, whole := x.state != .absent }) high]
  refine ⟨rfl, rfl, ?_⟩
  rw [Bool.and_eq_true, bne_iff_ne]
  exact and_congr_right' (show min 3 (x.highRun + 1) ≠ 3 ↔ x.highRun < 2 by omega)

/-- An absent fan has no pulses and no runs; its verdict stays. -/
theorem closedFan_absent {x : Fan} (h : x.state = .absent) (ok : Bool) :
    closedFan c ok x = { x with pulses := 0, count := 0, whole := false, lowRun := 0, highRun := 0 } := by
  simp [closedFan, throughGate, h]

/-- `y` is the record `x`, but for its state and its identity's values; a verdict of failure that `old` did not have makes it FAILED. -/
structure Rederived (x old y : Fan) : Prop where
  pulses : y.pulses = x.pulses
  count : y.count = x.count
  whole : y.whole = x.whole
  lowRun : y.lowRun = x.lowRun
  highRun : y.highRun = x.highRun
  verdict : y.verdictFailed = x.verdictFailed
  failed : x.verdictFailed = true → old.verdictFailed = false → y.state = .failed

theorem closeGate_fan (h : bayLevel c (fanBay f) = true) :
    Rederived (fanAtClose c f u) (u.fans.get f) ((closeGate c f u).fans.get f) := by
  rw [closeGate_eq]
  split
  · next same =>
    rw [putFan_self]
    exact ⟨rfl, rfl, rfl, rfl, rfl, rfl, fun hn ho => absurd (hn.symm.trans (same.trans ho)) (by decide)⟩
  · obtain ⟨rated, rpm, e⟩ := deriveFan_present (u := putFan f (fanAtClose c f u) u) h
    rw [e, putFan_self]
    exact ⟨rfl, rfl, rfl, rfl, rfl, rfl, fun hn _ => by rw [hn]; rfl⟩

/-- A fan whose verdict stays is not derived again. -/
theorem closeGate_same (h : (fanAtClose c f u).verdictFailed = (u.fans.get f).verdictFailed) :
    (closeGate c f u).fans.get f = fanAtClose c f u := by
  rw [closeGate_eq, if_pos h, putFan_self]

/-- A new verdict of failure sets FAN_FAULT. -/
theorem closeGate_fault (hn : (fanAtClose c f u).verdictFailed = true) (ho : (u.fans.get f).verdictFailed = false) :
    chassisFlag (closeGate c f u) .fanFault = true := by
  have fault := putFan_fault (f := f) hn ho
  rw [closeGate_eq]
  split
  · exact fault
  · exact (fanUnit_deriveFan f).bits _ fault

/-! ### All gates close (R122) -/

/-- Every fan's gate closed, before the next ones open. -/
def closedGates (c : Ctx) (u : Units) : Units := (indices 6).foldl (fun u f => closeGate c f u) u

theorem closeGates_eq (c : Ctx) (u : Units) : closeGates c u = { closedGates c u with
    gateTimer := startTimer c Config.tachGate,
    zones := updAll (closedGates c u).zones (fun x => { x with gateOk := decide (200 ≤ x.duty) }) } := by
  rw [closeGates, closedGates]

theorem closeGates_timer : (closeGates c u).gateTimer = some (c.now + 1000) := by
  rw [closeGates_eq]
  rfl

theorem closeGates_chassisEvent : (closeGates c u).chassisEvent = (closedGates c u).chassisEvent := by rw [closeGates_eq]

theorem closeGates_fans : (closeGates c u).fans = (closedGates c u).fans := by rw [closeGates_eq]

theorem fanUnit_closeGates : FanUnit u (closeGates c u) := by
  have closed : FanUnit u (closedGates c u) := FanUnit.foldl (fun _ f => fanUnit_closeGate f) (indices 6) u
  rw [closeGates_eq]
  generalize closedGates c u = v at *
  exact closed.trans ⟨rfl, fun _ h => h⟩

/-- What the close of its gate makes of fan `f` as it was holds after all gates have closed. -/
theorem closedGates_turn {Q : Units → Prop}
    (turn : ∀ v, v.fans.get f = u.fans.get f → fanAtClose c f v = fanAtClose c f u → Q (closeGate c f v))
    (after : ∀ v g, g ≠ f → Q v → Q (closeGate c g v)) : Q (closedGates c u) :=
  foldl_turn (f := fun u f => closeGate c f u) (b := f)
    (P := fun v : Units => v.fans.get f = u.fans.get f ∧ ∀ z, (v.zones.get z).gateOk = (u.zones.get z).gateOk)
    (fun _ g hg hv => ⟨((gateOf_closeGate g).fans f hg.symm).trans hv.1, fun z => ((gateOf_closeGate g).marks z).trans (hv.2 z)⟩)
    (fun v hv => turn v hv.1 (by rw [fanAtClose, hv.1, hv.2, fanAtClose])) after (List.nodup_finRange 6) (mem_indices f) ⟨rfl, fun _ => rfl⟩

theorem closeGates_fan (h : bayLevel c (fanBay f) = true) :
    Rederived (fanAtClose c f u) (u.fans.get f) ((closeGates c u).fans.get f) := by
  rw [closeGates_fans]
  refine closedGates_turn (Q := fun v : Units => Rederived (fanAtClose c f u) (u.fans.get f) (v.fans.get f)) (f := f)
    (fun v hf hx => ?_) (fun v g hg hv => ?_)
  · rw [← hf, ← hx]
    exact closeGate_fan h
  · rw [(gateOf_closeGate g).fans f hg.symm]
    exact hv

theorem closeGates_fault (hn : (fanAtClose c f u).verdictFailed = true) (ho : (u.fans.get f).verdictFailed = false) :
    chassisFlag (closeGates c u) .fanFault = true := by
  have closed : chassisFlag (closedGates c u) .fanFault = true := closedGates_turn (f := f) (Q := fun v : Units => chassisFlag v .fanFault = true)
    (fun v hf hx => closeGate_fault (hx ▸ hn) (hf ▸ ho)) (fun v g _ hv => (fanUnit_closeGate g).bits _ hv)
  rw [chassisFlag, closeGates_chassisEvent]
  exact closed

theorem closeGates_absent (h : (u.fans.get f).state = .absent) : (closeGates c u).fans.get f =
    { u.fans.get f with pulses := 0, count := 0, whole := false, lowRun := 0, highRun := 0 } := by
  have still : fanAtClose c f u = { u.fans.get f with pulses := 0, count := 0, whole := false, lowRun := 0, highRun := 0 } :=
    closedFan_absent h _
  rw [closeGates_fans, ← still]
  refine closedGates_turn (Q := fun v : Units => v.fans.get f = fanAtClose c f u) (f := f) (fun v hf hx => ?_)
    (fun v g hg hv => ((gateOf_closeGate g).fans f hg.symm).trans hv)
  rw [closeGate_same (by rw [hx, still, hf]), hx]

end

end Sys2Proof.Machine
end

section
open Sys2Proof Sys2Proof.Machine

/-- Settles O47: the zone is as its update makes it (`zoneUpdate_zone`), and the budget unit leaves zones alone. -/
theorem zoneUpdateSlewsTheDuty : Obligations.ZoneUpdateSlewsTheDuty := by
  intro s z d h
  let c := atDeadline s.ctx d
  have fan : FanUnit s.units (zoneUpdate c z s.units) := fanUnit_zoneUpdate z
  have keeps : Keeps dark (zoneUpdate c z s.units) (settleAfter c s.units (zoneUpdate c z s.units)) := settleAfter_keeps
  have zones : (settleAfter c s.units (zoneUpdate c z s.units)).settled.zones = (zoneUpdate c z s.units).zones := keeps.frame.zones
  refine ⟨_, done_atTimer_settle s (fun c u => zoneUpdate c z u) h, rfl, after_sameOutside _ _ _ rfl rfl, ?_, fun y hy => ?_, ?_,
    fun m hm => fan.dark keeps hm⟩
  · rw [after_units, zones, zoneUpdate_zone]
    exact ⟨rfl, rfl, rfl, rfl, rfl⟩
  · rw [after_units, zones, zoneUpdate_other hy]
  · have frame := fan.frame keeps
    rw [keeps.frame.fans, keeps.frame.gateTimer] at frame
    exact frame

/-- Settles O48: `closedFan` says what the close of a gate makes of a fan (`closeGates_fan`), by `judgeFan` when it is judged. -/
theorem tachGateJudgesTheFans : Obligations.TachGateJudgesTheFans := by
  refine ⟨fun s f d h => ⟨s.after s.ctx (tachCount f s.units), rfl, rfl, after_sameOutside _ _ _ rfl rfl, ?_⟩, fun s d h => ?_⟩
  · rw [after_units, tachCount_open h]
  let c := atDeadline s.ctx d
  have fan : FanUnit s.units (closeGates c s.units) := fanUnit_closeGates
  have keeps : Keeps dark (closeGates c s.units) (settleAfter c s.units (closeGates c s.units)) := settleAfter_keeps
  have fans : (settleAfter c s.units (closeGates c s.units)).settled.fans = (closeGates c s.units).fans := keeps.frame.fans
  have frame := fan.frame keeps
  refine ⟨_, done_atTimer_settle s closeGates h, rfl, after_sameOutside _ _ _ rfl rfl, keeps.frame.gateTimer.trans closeGates_timer,
    fun f hw hs hb => ?_, fun f hs => ?_, frame, fun m hm => fan.dark keeps hm⟩
  · have through : throughGate (s.units.fans.get f) = true := by simp [throughGate, hw, hs]
    have derived := closeGates_fan (c := c) (u := s.units) (f := f) hb
    have fault := closeGates_fault (c := c) (u := s.units) (f := f)
    rw [after_units, fans]
    rw [fanAtClose] at derived fault
    obtain ⟨pulses, count, whole⟩ := closedFan_through (c := c) through (s.units.zones.get (fanZone f)).gateOk
    refine ⟨derived.pulses.trans pulses, derived.count.trans count, derived.whole.trans whole, fun hok => ?_⟩
    rw [hok] at derived fault
    rw [derived.verdict, derived.lowRun, derived.highRun]
    split
    · next hlow =>
      obtain ⟨low, high, verdict⟩ := closedFan_low (c := c) through hlow
      refine ⟨low, high, verdict, fun ho h2 => ?_⟩
      have hn := verdict.mpr (.inr h2)
      exact ⟨derived.failed hn ho, keeps.frame.chassisBits .fanFault (fault hn ho)⟩
    · next hhigh => exact closedFan_high (c := c) through hhigh
  · rw [after_units, fans, closeGates_absent hs]
    exact ⟨rfl, rfl, rfl⟩

/-- Settles O53: from NORMAL every zone's floor is enforced (`enforceFloors_duty`), in any other mode the bit is all. -/
theorem lostHeartbeatEntersFailsafe : Obligations.LostHeartbeatEntersFailsafe := by
  intro s d h
  by_cases hm : s.ctx.sup.mode = .normal
  · let c := lostCtx (atDeadline s.ctx d) .failsafe
    let u := setChassisBit .failsafe (setChassisBit .heartbeatLate s.units)
    have floors : FanUnit u (enforceFloors c u) := fanUnit_enforceFloors
    have fan : FanUnit s.units (enforceFloors c u) := ((fanUnit_setChassisBit _).trans (fanUnit_setChassisBit _)).trans floors
    have keeps : Keeps dark (enforceFloors c u) (settle c (enforceFloors c u)) := settle_keeps
    have flag (b : ChassisBit) (hb : chassisFlag u b = true) : chassisFlag (settle c (enforceFloors c u)) b = true :=
      keeps.frame.chassisBits b (floors.bits b hb)
    refine ⟨_, exec_heartbeat_normal h hm, rfl, rfl, rfl, rfl, flag .heartbeatLate (setChassisBit_keeps _ _ _ (setChassisBit_flag _ _)),
      rfl, rfl, rfl, rfl, rfl, fun _ => ⟨rfl, flag .failsafe (setChassisBit_flag _ _), fun z => ?_, ?_, fun m hd => fan.dark keeps hd⟩,
      fun hf => absurd (hm.symm.trans hf) (by decide)⟩
    · have duty := enforceFloors_duty (c := c) (u := u) z
      rw [← keeps.frame.zones, lowerLimit_failsafe rfl] at duty
      exact duty
    · have frame := fan.frame keeps
      rw [keeps.frame.fans.trans enforceFloors_fans.1, keeps.frame.gateTimer.trans enforceFloors_fans.2] at frame
      exact frame
  · exact ⟨_, exec_heartbeat_else h hm, rfl, rfl, rfl, rfl, setChassisBit_flag _ _, rfl, rfl, rfl, rfl, rfl, fun hn => absurd hn hm,
      fun hf => ⟨hf, rfl, setChassisBit_other (by decide)⟩⟩
end

section
/-! PROOFS. The laws of the channel table and of the uplink wait list (R130, R132, R136, R140), as a predicate on the units: `Uplinked`. The
changes that keep them are of four kinds: `Steady` ones, which leave channels, wait list and the slots in ON and QUIESCING alone; a slot that
changes (`Uplinked.updSlot`); a channel that gains no holder (`Uplinked.putChan`), and one that gains one (`Uplinked.hold`). -/

namespace Sys2Proof.Machine

/-- ON or QUIESCING: the slot may hold active channels (R132). -/
def Engaged (x : Slot) : Prop := x.state = .on ∨ x.state = .quiescing

/-- The channel table is empty and no slot waits, as before the rebuild at start-up (R145). -/
def Unwired (u : Units) : Prop := u.upWait = [] ∧ ∀ ch, u.chans.get ch = .reset

/-- The laws of `UplinkSound` on the units, `b` for the table having been built. A slot `e` may stand in the wait list although none of its
channels is pending any longer: it is being served, and `syncWait` follows. -/
structure Uplinked (e : Option (Fin 12)) (b : Bool) (u : Units) : Prop where
  holder : ∀ ch, (u.chans.get ch).held.isSome = isHeld (u.chans.get ch)
  places : OnePerPlace u
  active : ∀ ch n k, isActive (u.chans.get ch) = true → (u.chans.get ch).held = some (n, k) → Engaged (u.slot n) ∧ k.val < laneLimit u n
  unused : ∀ ch, (u.chans.get ch).inUse = false → (u.chans.get ch).state = .unavailable ∧ (u.chans.get ch).held = none
  once : u.upWait.Nodup
  waiting : ∀ n ∈ u.upWait, (u.slot n).state = .on ∧ (e ≠ some n → 0 < pendingCount u n)
  unbuilt : b = false → Unwired u

/-- Channels and wait list stay, and of the slots in ON and QUIESCING state and claim; no lane limit of theirs falls. -/
structure Steady (u v : Units) : Prop where
  chans : v.chans = u.chans
  upWait : v.upWait = u.upWait
  slots : ∀ n, Engaged (u.slot n) →
    (v.slot n).state = (u.slot n).state ∧ (v.slot n).claimed = (u.slot n).claimed ∧ laneLimit u n ≤ laneLimit v n

/-- The slot has no active channel and does not wait for one. -/
structure Detached (n : Fin 12) (u : Units) : Prop where
  inactive : ∀ ch k, isActive (u.chans.get ch) = true → (u.chans.get ch).held ≠ some (n, k)
  unlisted : n ∉ u.upWait

section
variable {u v w : Units} {c : Ctx} {n m : Fin 12} {e : Option (Fin 12)} {b : Bool} {ch : Fin 32}

theorem uplinkSound_iff {s : State} : UplinkSound s ↔ Uplinked none s.ctx.sup.built s.units :=
  ⟨fun h => ⟨h.holder, h.places, h.active, h.unused, h.once, fun n hn => ⟨(h.waiting n hn).1, fun _ => (h.waiting n hn).2⟩, h.unbuilt⟩,
    fun h => ⟨h.holder, h.places, h.active, h.unused, h.once, fun n hn => ⟨(h.waiting n hn).1, (h.waiting n hn).2 (by simp)⟩, h.unbuilt⟩⟩

/-- An empty table without waiting slots is sound, built or not. -/
theorem Unwired.uplinked (h : Unwired u) : Uplinked e b u where
  holder ch := by rw [h.2]; rfl
  places ch ch' p hp := by rw [h.2] at hp; cases hp
  active ch n k ha := by rw [h.2] at ha; cases ha
  unused ch _ := by rw [h.2]; exact ⟨rfl, rfl⟩
  once := by rw [h.1]; exact List.nodup_nil
  waiting n hn := by rw [h.1] at hn; cases hn
  unbuilt _ := h

/-- A place that is not UNAVAILABLE shows that the table has been built. -/
theorem Uplinked.built_of_chan (h : Uplinked e b u) (hs : (u.chans.get ch).state ≠ .unavailable) : b = true := by
  cases b with
  | true => rfl
  | false => exact absurd (by rw [(h.unbuilt rfl).2 ch]; rfl) hs

/-- A waiting slot shows it too. -/
theorem Uplinked.built_of_waiting (h : Uplinked e b u) (hn : n ∈ u.upWait) : b = true := by
  cases b with
  | true => rfl
  | false => rw [(h.unbuilt rfl).1] at hn; cases hn

/-- Service of a slot begins. -/
theorem Uplinked.serving (h : Uplinked none b u) (n : Fin 12) : Uplinked (some n) b u :=
  { h with waiting := fun m hm => ⟨(h.waiting m hm).1, fun _ => (h.waiting m hm).2 (by simp)⟩ }

/-- Service of a slot ends: it has left the list, or its channels are still pending. -/
theorem Uplinked.served (h : Uplinked (some n) b u) (hw : n ∈ u.upWait → 0 < pendingCount u n) : Uplinked none b u :=
  { h with waiting := fun m hm => ⟨(h.waiting m hm).1, fun _ => by
      by_cases e : n = m
      · subst e; exact hw hm
      · exact (h.waiting m hm).2 (by simpa using e)⟩ }

/-! ### Counts and limits -/

theorem activeCount_congr (h : v.chans = u.chans) : activeCount v n = activeCount u n := by
  rw [activeCount_eq_card, activeCount_eq_card, activeSet_congr h]

theorem pendingCount_congr (h : v.chans = u.chans) (hc : (v.slot n).claimed = (u.slot n).claimed) : pendingCount v n = pendingCount u n := by
  rw [pendingCount, pendingCount, hc, activeCount_congr h]

theorem laneLimit_congr (hi : v.inv = u.inv) (hu : (v.slot n).unvalidated = (u.slot n).unvalidated) : laneLimit v n = laneLimit u n := by
  rw [laneLimit, laneLimit, hu, bladeVals_congr hi]

/-! ### Steady changes -/

theorem Steady.refl (u : Units) : Steady u u := ⟨rfl, rfl, fun _ _ => ⟨rfl, rfl, le_rfl⟩⟩

theorem Steady.trans (a : Steady u v) (b : Steady v w) : Steady u w where
  chans := b.chans.trans a.chans
  upWait := b.upWait.trans a.upWait
  slots n hn := by
    obtain ⟨hs, hc, hl⟩ := a.slots n hn
    obtain ⟨hs', hc', hl'⟩ := b.slots n (by rw [Engaged, hs]; exact hn)
    exact ⟨hs'.trans hs, hc'.trans hc, hl.trans hl'⟩

theorem Steady.foldl {α : Type} {f : Units → α → Units} (h : ∀ u a, Steady u (f u a)) (l : List α) (u : Units) : Steady u (l.foldl f u) :=
  List.foldlRecOn (motive := Steady u) l f (.refl u) (fun v hv a _ => hv.trans (h v a))

theorem Steady.ite {p : Prop} [Decidable p] (a : Steady u v) (b : Steady u w) : Steady u (if p then v else w) := by split <;> assumption

/-- None of the four parts of the units that the laws read has changed. -/
theorem Steady.of_eq (hc : v.chans = u.chans) (hw : v.upWait = u.upWait) (hs : v.slots = u.slots) (hi : v.inv = u.inv) : Steady u v where
  chans := hc
  upWait := hw
  slots n _ := by
    have e : v.slot n = u.slot n := by rw [Units.slot, hs, Units.slot]
    rw [e, laneLimit_congr hi (by rw [e])]
    exact ⟨rfl, rfl, le_rfl⟩

/-- One slot has changed that was neither in ON nor in QUIESCING. -/
theorem Steady.of_off (hn : ¬ Engaged (u.slot n)) (hs : ∀ m, m ≠ n → v.slot m = u.slot m) (hc : v.chans = u.chans) (hw : v.upWait = u.upWait)
    (hi : v.inv = u.inv) : Steady u v where
  chans := hc
  upWait := hw
  slots m hm := by
    have e : v.slot m = u.slot m := hs m (by rintro rfl; exact hn hm)
    rw [e, laneLimit_congr hi (by rw [e])]
    exact ⟨rfl, rfl, le_rfl⟩

/-- A slot without part in the uplinks may change in any way. -/
theorem steady_updSlot_off {f : Slot → Slot} (h : ¬ Engaged (u.slot n)) : Steady u (u.updSlot n f) :=
  .of_off h (fun m hm => (updSlot_slot u n f m).trans (if_neg (Ne.symm hm))) rfl rfl rfl

/-- Any slot may change in other fields than state, claim and unvalidated mark. -/
theorem steady_updSlot {f : Slot → Slot} (hs : (f (u.slot n)).state = (u.slot n).state) (hc : (f (u.slot n)).claimed = (u.slot n).claimed)
    (hu : (f (u.slot n)).unvalidated = (u.slot n).unvalidated) : Steady u (u.updSlot n f) where
  chans := rfl
  upWait := rfl
  slots m _ := by
    have same (g : Slot → Bool × Nat × SlotState) (hg : g (f (u.slot n)) = g (u.slot n)) : g ((u.updSlot n f).slot m) = g (u.slot m) := by
      rw [updSlot_slot]
      split
      · next h => subst h; exact hg
      · rfl
    have h := same (fun x => (x.unvalidated, x.claimed, x.state)) (by rw [hs, hc, hu])
    simp only [Prod.mk.injEq] at h
    obtain ⟨h1, h2, h3⟩ := h
    exact ⟨h3, h2, (laneLimit_congr (updSlot_inv ..) h1).ge⟩

theorem Uplinked.steady (h : Uplinked e b u) (s : Steady u v) : Uplinked e b v where
  holder ch := by rw [s.chans]; exact h.holder ch
  places := by rw [OnePerPlace, s.chans]; exact h.places
  active ch n k := by
    rw [s.chans]
    intro ha hh
    obtain ⟨hn, hk⟩ := h.active ch n k ha hh
    obtain ⟨hs, -, hl⟩ := s.slots n hn
    exact ⟨by rw [Engaged, hs]; exact hn, hk.trans_le hl⟩
  unused ch := by rw [s.chans]; exact h.unused ch
  once := by rw [s.upWait]; exact h.once
  waiting n := by
    rw [s.upWait]
    intro hn
    obtain ⟨hon, hp⟩ := h.waiting n hn
    obtain ⟨hs, hc, -⟩ := s.slots n (.inl hon)
    exact ⟨hs.trans hon, by rw [pendingCount_congr s.chans hc]; exact hp⟩
  unbuilt hb := by rw [Unwired, s.upWait, s.chans]; exact h.unbuilt hb

theorem Uplinked.foldl {α : Type} {f : Units → α → Units} (h : Uplinked e b u) (hf : ∀ u a, Uplinked e b u → Uplinked e b (f u a))
    (l : List α) : Uplinked e b (l.foldl f u) :=
  List.foldlRecOn (motive := Uplinked e b) l f h (fun v hv a _ => hf v a hv)

theorem Uplinked.ite {p : Prop} [Decidable p] (hv : p → Uplinked e b v) (hw : ¬ p → Uplinked e b w) : Uplinked e b (if p then v else w) := by
  split
  · next h => exact hv h
  · next h => exact hw h

/-! ### A slot changes -/

/-- A slot may change while its active channels keep their lanes, and while it waits its claim does not fall. -/
theorem Uplinked.updSlot (h : Uplinked e b u) {f : Slot → Slot}
    (ha : ∀ ch k, isActive (u.chans.get ch) = true → (u.chans.get ch).held = some (n, k) →
      Engaged (f (u.slot n)) ∧ k.val < laneLimit (u.updSlot n f) n)
    (hw : n ∈ u.upWait → (f (u.slot n)).state = .on ∧ (e ≠ some n → (u.slot n).claimed ≤ (f (u.slot n)).claimed)) :
    Uplinked e b (u.updSlot n f) :=
  have other : ∀ m, m ≠ n → (u.updSlot n f).slot m = u.slot m := fun m hm => (updSlot_slot u n f m).trans (if_neg (Ne.symm hm))
  { h with
    active := fun ch m k hact hheld => by
      by_cases hm : m = n
      · subst hm
        rw [updSlot_slot_self]
        exact ha ch k hact hheld
      · rw [other m hm, laneLimit_congr (updSlot_inv ..) (by rw [other m hm])]
        exact h.active ch m k hact hheld
    waiting := fun m hmem => by
      obtain ⟨hon, hp⟩ := h.waiting m hmem
      by_cases hm : m = n
      · subst hm
        obtain ⟨hs, hc⟩ := hw hmem
        rw [updSlot_slot_self, pendingCount, updSlot_slot_self, activeCount_congr (updSlot_chans ..)]
        refine ⟨hs, fun he => ?_⟩
        have hpos := hp he
        have hle := hc he
        rw [pendingCount] at hpos
        omega
      · rw [other m hm, pendingCount_congr (updSlot_chans ..) (by rw [other m hm])]
        exact ⟨hon, hp⟩ }

/-- A detached slot may change in any way. -/
theorem Uplinked.updSlot_detached (h : Uplinked e b u) (hd : Detached n u) (f : Slot → Slot) : Uplinked e b (u.updSlot n f) :=
  h.updSlot (fun ch k ha hh => absurd hh (hd.inactive ch k ha)) (fun hw => absurd hw hd.unlisted)

/-- The claim of a slot that is being served may change in any way. -/
theorem Uplinked.updSlot_claim (h : Uplinked (some n) b u) {f : Slot → Slot} (hs : (f (u.slot n)).state = (u.slot n).state)
    (hu : (f (u.slot n)).unvalidated = (u.slot n).unvalidated) : Uplinked (some n) b (u.updSlot n f) := by
  refine h.updSlot (fun ch k ha hh => ?_) (fun hw => ⟨hs.trans (h.waiting n hw).1, fun he => absurd rfl he⟩)
  rw [Engaged, hs, laneLimit_congr (updSlot_inv ..) (by rw [updSlot_slot_self, hu])]
  exact h.active ch n k ha hh

/-- A slot leaves the wait list, whatever its pending count. -/
theorem Uplinked.leaveWait (h : Uplinked (some n) b u) : Uplinked none b { u with upWait := u.upWait.filter (· != n) } := by
  have kept : ∀ m ∈ u.upWait.filter (· != n), m ∈ u.upWait ∧ n ≠ m := fun m hm => by
    obtain ⟨h1, h2⟩ := List.mem_filter.mp hm
    exact ⟨h1, Ne.symm (by simpa using h2)⟩
  exact { h with
    once := h.once.filter _
    waiting := fun m hm => ⟨(h.waiting m (kept m hm).1).1, fun _ => (h.waiting m (kept m hm).1).2 (by simpa using (kept m hm).2)⟩
    unbuilt := fun hb => ⟨by rw [(h.unbuilt hb).1]; rfl, (h.unbuilt hb).2⟩ }

/-! ### A channel changes -/

theorem activeCount_le (h : ∀ j, isActive (v.chans.get j) = true → heldBy n (v.chans.get j) = true →
    isActive (u.chans.get j) = true ∧ heldBy n (u.chans.get j) = true) : activeCount v n ≤ activeCount u n := by
  rw [activeCount_eq_card, activeCount_eq_card]
  refine Finset.card_le_card (fun j hj => ?_)
  obtain ⟨ha, hh⟩ := mem_activeSet.mp hj
  exact mem_activeSet.mpr (h j ha hh)

/-- What a place may take for no new holder: none, or the holder it has, in no more active a state. -/
structure NoNewHolder (b : Bool) (old new : Chan) : Prop where
  holder : new.held.isSome = isHeld new
  held : new.held = none ∨ new.held = old.held ∧ (isActive new = true → isActive old = true)
  unused : new.inUse = false → new.state = .unavailable ∧ new.held = none
  unbuilt : b = false → new = .reset

/-- The place is idle: out of the four held states, and UNAVAILABLE when it is not in use. -/
theorem NoNewHolder.idle {old new : Chan} (hb : b = true) (hn : new.held = none) (hh : isHeld new = false)
    (hu : new.inUse = false → new.state = .unavailable) : NoNewHolder b old new :=
  ⟨by rw [hn, hh]; rfl, .inl hn, fun h => ⟨hu h, hn⟩, fun h => by rw [hb] at h; cases h⟩

theorem NoNewHolder.reset (b : Bool) (old : Chan) : NoNewHolder b old .reset := ⟨rfl, .inl rfl, fun _ => ⟨rfl, rfl⟩, fun _ => rfl⟩

theorem Uplinked.putChan (h : Uplinked e b u) {x : Chan} (hx : NoNewHolder b (u.chans.get ch) x) : Uplinked e b (putChan ch x u) where
  holder j := by
    rw [putChan_chans]; split
    · exact hx.holder
    · exact h.holder j
  places := by
    have was : ∀ j p, ((Machine.putChan ch x u).chans.get j).held = some p → (u.chans.get j).held = some p := fun j p hp => by
      rw [putChan_chans] at hp; split at hp
      · next hj =>
        subst hj
        rcases hx.held with hn | ⟨hn, -⟩
        · rw [hn] at hp; cases hp
        · rw [← hn]; exact hp
      · exact hp
    exact fun j j' p hp hp' => h.places j j' p (was j p hp) (was j' p hp')
  active j n k := by
    rw [putChan_chans]; split
    · next hj =>
      subst hj
      intro ha hh
      rcases hx.held with hn | ⟨hn, hact⟩
      · rw [hn] at hh; cases hh
      · exact h.active ch n k (hact ha) (by rw [← hn]; exact hh)
    · exact h.active j n k
  unused j := by
    rw [putChan_chans]; split
    · exact hx.unused
    · exact h.unused j
  once := h.once
  waiting n hn := by
    obtain ⟨hon, hp⟩ := h.waiting n hn
    have hle : activeCount (Machine.putChan ch x u) n ≤ activeCount u n := activeCount_le (fun j => by
      rw [putChan_chans]; split
      · next hj =>
        subst hj
        intro ha hh
        rcases hx.held with hn | ⟨hn, hact⟩
        · rw [heldBy, hn] at hh; cases hh
        · exact ⟨hact ha, by rw [heldBy, ← hn]; exact hh⟩
      · exact fun ha hh => ⟨ha, hh⟩)
    refine ⟨hon, fun he => ?_⟩
    have hpos := hp he
    rw [pendingCount] at hpos ⊢
    exact lt_of_lt_of_le hpos (Nat.sub_le_sub_left hle _)
  unbuilt hb := by
    refine ⟨(h.unbuilt hb).1, fun j => ?_⟩
    rw [putChan_chans]; split
    · exact hx.unbuilt hb
    · exact (h.unbuilt hb).2 j

/-- A place that is in use keeps its holder, in a state that is as active and as held as its old one. -/
theorem Uplinked.updChan_keep (h : Uplinked e b u) {f : Chan → Chan} (hb : b = true) (hheld : (f (u.chans.get ch)).held = (u.chans.get ch).held)
    (hst : isHeld (f (u.chans.get ch)) = isHeld (u.chans.get ch)) (hact : isActive (f (u.chans.get ch)) = true → isActive (u.chans.get ch) = true)
    (huse : (f (u.chans.get ch)).inUse = true) : Uplinked e b (updChan ch f u) :=
  h.putChan ⟨by rw [hheld, hst]; exact h.holder ch, .inr ⟨hheld, hact⟩, fun hf => absurd (huse.symm.trans hf) (by decide),
    fun hf => absurd (hb.symm.trans hf) (by decide)⟩

/-- A place in another state than UNAVAILABLE is in use. -/
theorem Uplinked.inUse (h : Uplinked e b u) (hs : (u.chans.get ch).state ≠ .unavailable) : (u.chans.get ch).inUse = true := by
  by_contra hf
  exact hs (h.unused ch (by simpa using hf)).1

/-- Another state for the same holder, with no more activity: the channel was and is held, or was not and is not. -/
theorem Uplinked.updChan_state (h : Uplinked e b u) {f : Chan → Chan} (hs : (u.chans.get ch).state ≠ .unavailable)
    (hheld : (f (u.chans.get ch)).held = (u.chans.get ch).held) (hst : isHeld (f (u.chans.get ch)) = isHeld (u.chans.get ch))
    (hact : isActive (f (u.chans.get ch)) = true → isActive (u.chans.get ch) = true)
    (huse : (f (u.chans.get ch)).inUse = (u.chans.get ch).inUse) : Uplinked e b (updChan ch f u) :=
  h.updChan_keep (h.built_of_chan hs) hheld hst hact (huse.trans (h.inUse hs))

/-- A channel in use loses its holder (R138, R139, R144). -/
theorem Uplinked.vacate (h : Uplinked e b u) {st : ChanState} (hs : (u.chans.get ch).state ≠ .unavailable)
    (hst : st ∉ [ChanState.switching, .assigned, .stranded, .draining]) : Uplinked e b (updChan ch (vacate st) u) := by
  refine h.putChan (.idle (h.built_of_chan hs) rfl ?_ (fun hu => ?_))
  · cases st <;> simp_all [isHeld, isActive, Machine.vacate]
  · rw [show (Machine.vacate st (u.chans.get ch)).inUse = (u.chans.get ch).inUse from rfl, h.inUse hs] at hu
    cases hu

/-- A place in use takes a slot's empty lane place; an active channel does so for a slot in ON or QUIESCING below its limit. -/
theorem Uplinked.hold (h : Uplinked e b u) {x : Chan} {k : Fin 4} (hb : b = true) (hx : x.held = some (n, k)) (hheld : isHeld x = true)
    (huse : x.inUse = true) (hempty : ∀ j, (u.chans.get j).held ≠ some (n, k))
    (hact : isActive x = true → Engaged (u.slot n) ∧ k.val < laneLimit u n ∧ (n ∈ u.upWait → e = some n)) :
    Uplinked e b (Machine.putChan ch x u) where
  holder j := by
    rw [putChan_chans]; split
    · rw [hx, hheld]; rfl
    · exact h.holder j
  places j j' p := by
    rw [putChan_chans, putChan_chans]
    split <;> split
    · next hj hj' => exact fun _ _ => hj.symm.trans hj'
    · intro hp hp'
      rw [hx] at hp; cases hp
      exact absurd hp' (hempty j')
    · intro hp hp'
      rw [hx] at hp'; cases hp'
      exact absurd hp (hempty j)
    · exact h.places j j' p
  active j m i := by
    rw [putChan_chans]; split
    · intro ha hh
      rw [hx] at hh; cases hh
      exact ⟨(hact ha).1, (hact ha).2.1⟩
    · exact h.active j m i
  unused j := by
    rw [putChan_chans]; split
    · intro hf; rw [huse] at hf; cases hf
    · exact h.unused j
  once := h.once
  waiting m hm := by
    obtain ⟨hon, hp⟩ := h.waiting m hm
    refine ⟨hon, fun he => ?_⟩
    have hle : activeCount (Machine.putChan ch x u) m ≤ activeCount u m := activeCount_le (fun j => by
      rw [putChan_chans]; split
      · intro ha hh
        obtain ⟨i, hi⟩ := heldBy_iff.mp hh
        rw [hx] at hi; cases hi
        exact absurd ((hact ha).2.2 hm) he
      · exact fun ha hh => ⟨ha, hh⟩)
    have hpos := hp he
    rw [pendingCount] at hpos ⊢
    exact lt_of_lt_of_le hpos (Nat.sub_le_sub_left hle _)
  unbuilt hf := by rw [hb] at hf; cases hf

end

end Sys2Proof.Machine
end

section
/-! PROOFS. The uplink unit keeps the laws `Uplinked` (R130 to R144): channels taken and released, the wait list served, ports that come, go,
fall and rise, and the answers of the crossbar. -/

namespace Sys2Proof.Machine

section
variable {u v w : Units} {c : Ctx} {n m : Fin 12} {e : Option (Fin 12)} {b : Bool} {ch : Fin 32}

/-! ### Ports, event bits and the crossbar queue -/

theorem steady_updPort (p : Fin 4) (f : Port → Port) : Steady u (u.updPort p f) := .of_eq rfl rfl rfl rfl
theorem steady_setSlotBit (x : SlotBit) : Steady u (setSlotBit n x u) := .of_eq rfl rfl rfl rfl
theorem steady_setChassisBit (x : ChassisBit) : Steady u (setChassisBit x u) := .of_eq rfl rfl rfl rfl
theorem steady_flight (l : List XCmd) (f : Option XFlight) : Steady u { u with xq := l, xFlight := f } := .of_eq rfl rfl rfl rfl

theorem steady_sendNext : Steady u (sendNext c u) := by
  rw [sendNext]; split
  · exact .of_eq rfl rfl rfl rfl
  · exact .refl u

theorem steady_queueCmd (cmd : XCmd) : Steady u (queueCmd c cmd u) := (steady_flight (u.xq ++ [cmd]) u.xFlight).trans steady_sendNext

theorem steady_disableIdle : Steady u (disableIdle u) :=
  .foldl (f := fun u p => disablePort u p) (fun u p => by rw [disablePort]; exact .ite (.of_eq rfl rfl rfl rfl) (.refl u)) _ u

/-! ### Channels taken (R134 to R136) -/

/-- A channel taken for a slot's lane place (R135). -/
def takenChan (n : Fin 12) (k : Fin 4) (x : Chan) : Chan :=
  { x with state := .switching, held := some (n, k), cmd := .connect, answer := false, drain := none }

/-- Apart from the channel itself, `takeChannel` acts on its port and on the crossbar queue. -/
theorem steady_takeChannel (k : Fin 4) : Steady (updChan ch (takenChan n k) u) (takeChannel c ch n k u) := by
  rw [takeChannel]
  refine Steady.trans ?_ (steady_queueCmd _)
  split <;> exact .of_eq rfl rfl rfl rfl

theorem Uplinked.takeChannel (h : Uplinked e b u) {k : Fin 4} (hfree : (u.chans.get ch).state = .free)
    (hempty : ∀ j, (u.chans.get j).held ≠ some (n, k)) (hn : Engaged (u.slot n)) (hk : k.val < laneLimit u n) (hw : n ∈ u.upWait → e = some n) :
    Uplinked e b (takeChannel c ch n k u) := by
  have hs : (u.chans.get ch).state ≠ .unavailable := by rw [hfree]; decide
  have held : Uplinked e b (updChan ch (takenChan n k) u) :=
    h.hold (h.built_of_chan hs) rfl rfl (h.inUse hs) hempty (fun _ => ⟨hn, hk, hw⟩)
  exact held.steady (steady_takeChannel k)

theorem lanePlace_none {k : Fin 4} (h : lanePlace u n k = none) (j : Fin 32) : (u.chans.get j).held ≠ some (n, k) := by
  simpa using List.find?_eq_none.mp h j (mem_indices j)

theorem Uplinked.fillSlot (h : Uplinked (some n) b u) (hn : Engaged (u.slot n)) : Uplinked (some n) b (fillSlot c n u) := by
  refine (List.foldlRecOn (motive := fun v : Units => Uplinked (some n) b v ∧ Wired u v) _ _ ⟨h, .refl u⟩ ?_ : _ ∧ _).1
  rintro v ⟨hv, hw⟩ k -
  split
  · next hk =>
    simp only [Bool.and_eq_true, decide_eq_true_eq, Option.isNone_iff_eq_none] at hk
    obtain ⟨⟨-, hlimit⟩, hplace⟩ := hk
    split
    · next ch hch =>
      exact ⟨hv.takeChannel (chooseChannel_free hch) (lanePlace_none hplace) (by rw [hw.slot]; exact hn) hlimit (fun _ => rfl),
        hw.trans (wired_takeChannel _ k)⟩
    · exact ⟨hv, hw⟩
  · exact ⟨hv, hw⟩

/-- After a slot in ON has been served its entry follows its pending count (R136). -/
theorem Uplinked.syncWait (h : Uplinked (some n) b u) (hb : b = true) (hon : (u.slot n).state = .on) : Uplinked none b (syncWait n u) := by
  rw [Machine.syncWait]
  split
  · exact h.leaveWait
  · next hp =>
    have hpos : 0 < pendingCount u n := Nat.pos_of_ne_zero hp
    split
    · exact h.served (fun _ => hpos)
    · next hnot =>
      have hmem : n ∉ u.upWait := by simpa using hnot
      exact { h with
        once := by
          rw [List.nodup_append]
          refine ⟨h.once, List.nodup_singleton n, fun a ha j hj => ?_⟩
          rw [List.mem_singleton] at hj
          rintro rfl
          exact hmem (hj ▸ ha)
        waiting := fun m hm => by
          rw [List.mem_append, List.mem_singleton] at hm
          rcases hm with hm | rfl
          · exact ⟨(h.waiting m hm).1, fun _ => (h.waiting m hm).2 (by rintro e; cases e; exact hmem hm)⟩
          · exact ⟨hon, fun _ => hpos⟩
        unbuilt := fun hf => by rw [hb] at hf; cases hf }

theorem Uplinked.serveWait (h : Uplinked none b u) : Uplinked none b (serveWait c u) := by
  refine (List.foldlRecOn (motive := fun v : Units => Uplinked none b v ∧ Wired u v) u.upWait _ ⟨h, .refl u⟩ ?_ : _ ∧ _).1
  rintro v ⟨hv, hw⟩ n hn
  have hon : (v.slot n).state = .on := by rw [hw.slot]; exact (h.waiting n hn).1
  have hfill := (hv.serving n).fillSlot (c := c) (.inl hon)
  exact ⟨hfill.syncWait (h.built_of_waiting hn) (by rw [wired_fillSlot.slot]; exact hon), hw.trans (wired_fillSlot.trans wired_syncWait)⟩

theorem Uplinked.serveIf (h : Uplinked none b u) (call : Bool) : Uplinked none b (serveIf c call u) := .ite (fun _ => h.serveWait) (fun _ => h)

/-! ### Channels released (R139, R140) -/

theorem Uplinked.releaseChan (h : Uplinked e b u) : Uplinked e b (releaseChan c ch u) := by
  rw [Machine.releaseChan]
  split
  iterate 3
    next hs => exact h.updChan_state (by rw [hs]; decide) rfl (by simp [isHeld, isActive, hs]) (by simp [isActive, hs]) rfl
  · exact h

theorem Uplinked.releases (h : Uplinked e b u) (l : List (Fin 32)) : Uplinked e b (l.foldl (fun u ch => Machine.releaseChan c ch u) u) :=
  h.foldl (fun _ _ hv => hv.releaseChan) l

theorem Uplinked.releaseSlot (h : Uplinked none b u) : Uplinked none b (releaseSlot c n u) :=
  (((h.releases (c := c) (activeOf u n)).serving n).updSlot_claim (n := n) (f := fun x => { x with claimed := 0, group := .any }) rfl rfl).leaveWait

/-- A slot that has released its channels has no part in the uplinks any longer. -/
theorem Uplinked.detached_releaseSlot (h : Uplinked e b u) : Detached n (Machine.releaseSlot c n u) where
  inactive ch k ha hh := by
    have hc : (Machine.releaseSlot c n u).chans.get ch = _ := releases_chans (activeOf u n) ch
    rw [hc] at ha hh
    split at ha
    · rw [isActive_releasedChan] at ha; cases ha
    · next hnot =>
      rw [if_neg hnot] at hh
      exact hnot ⟨(mem_activeOf_iff h.places).mpr (mem_activeSet.mpr ⟨ha, heldBy_iff.mpr ⟨k, hh⟩⟩), ha⟩
  unlisted := by
    have hw : (Machine.releaseSlot c n u).upWait = _ := releaseSlot_upWait
    rw [hw]
    exact not_mem_filter_ne _

theorem Detached.congr (h : Detached n u) (hc : v.chans = u.chans) (hw : v.upWait = u.upWait) : Detached n v :=
  ⟨by rw [hc]; exact h.inactive, by rw [hw]; exact h.unlisted⟩

/-- A claim that follows the active channels (R140). -/
theorem Uplinked.quiesceClaim (h : Uplinked none b u) : Uplinked none b (quiesceClaim n u) :=
  ((h.serving n).updSlot_claim (n := n) (f := fun x => { x with claimed := activeCount u n }) rfl rfl).leaveWait

/-! ### Failover (R142 to R144) -/

theorem chans_ext (h : ∀ j, v.chans.get j = u.chans.get j) : v.chans = u.chans := Vector.ext fun i hi => h ⟨i, hi⟩

/-- A lane place changes its channel for another: the count of active channels stays (R142). -/
theorem Uplinked.replaceChan (h : Uplinked none b u) (ha : isActive (u.chans.get ch) = true) (hr : replaceChan c ch u = some v) :
    Uplinked none b v := by
  rw [Machine.replaceChan] at hr
  split at hr
  · next n k new hheld hnew =>
    cases hr
    have hfree := chooseChannel_free hnew
    have hne : new ≠ ch := fun e => by rw [e] at hfree; rw [isActive, hfree] at ha; cases ha
    obtain ⟨hn, hk⟩ := h.active ch n k ha hheld
    let u1 := updChan ch (Machine.vacate .unavailable) u
    have hu1 : Uplinked none b u1 := h.vacate (fun hs => by rw [isActive, hs] at ha; cases ha) (by decide)
    have hempty : ∀ j, (u1.chans.get j).held ≠ some (n, k) := fun j hj => by
      rw [updChan_chans] at hj
      split at hj
      · cases hj
      · next hne' => exact hne' (h.places ch j _ hheld hj)
    have hfree1 : (u1.chans.get new).state = .free := by rw [updChan_chans, if_neg (Ne.symm hne)]; exact hfree
    have hlimit : laneLimit u1 n = laneLimit u n := laneLimit_congr rfl rfl
    have hu2 : Uplinked (some n) b (Machine.takeChannel c new n k u1) :=
      (hu1.serving n).takeChannel hfree1 hempty hn (by rw [hlimit]; exact hk) (fun _ => rfl)
    have hupWait : (Machine.takeChannel c new n k u1).upWait = u.upWait := (steady_takeChannel k).upWait
    have hcount : activeCount (Machine.takeChannel c new n k u1) n ≤ activeCount u n := by
      have hmem : ch ∈ activeSet u n := mem_activeSet.mpr ⟨ha, heldBy_iff.mpr ⟨k, hheld⟩⟩
      have herase : activeSet u1 n ⊆ (activeSet u n).erase ch := fun j hj => by
        rw [mem_activeSet, updChan_chans] at hj
        split at hj
        · exact absurd hj.1 (by simp [isActive, Machine.vacate])
        · next hj' => exact Finset.mem_erase.mpr ⟨Ne.symm hj', mem_activeSet.mpr hj⟩
      rw [activeCount_eq_card, activeCount_eq_card, activeSet_takeChannel]
      have h1 := Finset.card_insert_le new (activeSet u1 n)
      have h2 := Finset.card_le_card herase
      rw [Finset.card_erase_of_mem hmem] at h2
      have h3 := Finset.card_pos.mpr ⟨ch, hmem⟩
      omega
    have hu3 : Uplinked none b (Machine.takeChannel c new n k u1) := hu2.served (fun hw => by
      rw [hupWait] at hw
      have hp := (h.waiting n hw).2 (by simp)
      rw [pendingCount] at hp ⊢
      rw [(wired_takeChannel new k).slot]
      exact lt_of_lt_of_le hp (Nat.sub_le_sub_left hcount _))
    refine hu3.steady (.of_eq (chans_ext fun j => ?_) ?_ ?_ ?_)
    · rw [updChan_chans, takeChannel_chans, takeChannel_chans, updChan_chans]
      by_cases hj : ch = j
      · subst hj; rw [if_pos rfl, if_neg hne, if_neg hne, if_pos rfl]
      · rw [if_neg hj, if_neg hj]
    · rw [hupWait]; exact (steady_takeChannel k).upWait
    · exact ((wired_takeChannel (c := c) (u := u) new k).trans (wired_updChan ch _)).slots.trans (wired_takeChannel (u := u1) new k).slots.symm
    · exact ((wired_takeChannel (c := c) (u := u) new k).trans (wired_updChan ch _)).inv.trans (wired_takeChannel (u := u1) new k).inv.symm
  · cases hr

theorem ne_unavailable_of_active (ha : isActive (u.chans.get ch) = true) : (u.chans.get ch).state ≠ .unavailable := fun hs => by
  rw [isActive, hs] at ha; cases ha

theorem Uplinked.failover (h : Uplinked none b u) (ha : isActive (u.chans.get ch) = true) : Uplinked none b (failover c ch u) := by
  rw [Machine.failover]
  split
  · next hr => exact h.replaceChan ha hr
  · have hst : Uplinked none b (updChan ch (fun x => { x with state := .stranded }) u) :=
      h.updChan_state (ne_unavailable_of_active ha) rfl (by rw [isHeld, isHeld, ha]; rfl) (fun _ => ha) rfl
    dsimp only
    split
    · exact hst.steady (steady_setSlotBit _)
    · exact hst

theorem Uplinked.holderLost (h : Uplinked e b u) : Uplinked e b (holderLost n u) := by
  rw [Machine.holderLost]
  refine .ite (fun hq => ?_) (fun _ => h)
  refine h.updSlot (fun ch k ha hh => ?_) (fun hw => absurd ((h.waiting n hw).1.symm.trans hq) (by decide))
  rw [laneLimit_congr (updSlot_inv ..) (by rw [updSlot_slot_self])]
  exact h.active ch n k ha hh

/-- Step 2 of R144: the channel leaves its holder's place, and a holder in ON waits for another one. -/
theorem Uplinked.dropChan (h : Uplinked none b u) (ha : isActive (u.chans.get ch) = true) :
    let v := Machine.holderLost n (setSlotBit n .uplinkStranded (updChan ch (Machine.vacate .unavailable) u))
    Uplinked none b (if (v.slot n).state = .on then Machine.syncWait n v else v) := by
  have hs := ne_unavailable_of_active ha
  have hv := ((h.vacate hs (st := .unavailable) (by decide)).steady (steady_setSlotBit (n := n) .uplinkStranded)).holderLost (n := n)
  exact .ite (fun hon => (hv.serving n).syncWait (h.built_of_chan hs) hon) (fun _ => hv)

theorem Uplinked.leavePlace (h : Uplinked none b u) : Uplinked none b (leavePlace c ch u) := by
  have drop (ha : isActive (u.chans.get ch) = true) : Uplinked none b (match (u.chans.get ch).held with
      | some (n, _) =>
        let v := Machine.holderLost n (setSlotBit n .uplinkStranded (updChan ch (Machine.vacate .unavailable) u))
        if (v.slot n).state = .on then Machine.syncWait n v else v
      | none => u) := by
    split
    · exact h.dropChan ha
    · exact h
  rw [Machine.leavePlace]
  dsimp only
  split
  iterate 2
    next hs =>
      have ha : isActive (u.chans.get ch) = true := by simp [isActive, hs]
      split
      · next hr => exact h.replaceChan ha hr
      · exact drop ha
  · next hs => exact drop (by simp [isActive, hs])
  · next hs => exact h.vacate (by rw [hs]; decide) (by decide)
  · exact h

/-! ### Ports (R129, R131, R142 to R144) -/

theorem Uplinked.portLeavesUse (h : Uplinked none b u) (p : Fin 4) : Uplinked none b (portLeavesUse c p u) :=
  ((h.steady (steady_flight _ _)).foldl (fun _ _ hv => hv.leavePlace) _).foldl (fun _ _ hv => hv.putChan (.reset _ _)) _

theorem idleState_cases (u : Units) (p : Fin 4) : idleState u p = .free ∨ idleState u p = .unavailable := by
  rw [idleState]; split
  · exact .inl rfl
  · exact .inr rfl

theorem idleState_idle (u : Units) (p : Fin 4) : idleState u p ∉ [ChanState.switching, .assigned, .stranded, .draining] := by
  rcases idleState_cases u p with h | h <;> rw [h] <;> decide

/-- A place of a port that comes into use (R131). -/
theorem noNewHolder_inUse (u : Units) (p : Fin 4) (old : Chan) : NoNewHolder true old { Chan.reset with inUse := true, state := idleState u p } :=
  .idle rfl rfl (by rcases idleState_cases u p with h | h <;> rw [h] <;> rfl) (fun hu => by cases hu)

theorem Uplinked.portComesIntoUse (h : Uplinked e true u) (p : Fin 4) : Uplinked e true (portComesIntoUse p u) :=
  h.foldl (fun _ _ hv => .ite (fun _ => hv.putChan (noNewHolder_inUse _ _ _)) (fun _ => hv)) _

theorem Uplinked.portDown (h : Uplinked none b u) (p : Fin 4) : Uplinked none b (portDown c p u) := by
  rw [Machine.portDown]
  refine Uplinked.steady (Uplinked.foldl (Uplinked.foldl h (fun v ch hv => ?_) _) (fun v ch hv => ?_) _) steady_disableIdle
  · exact .ite (fun hs => hv.failover (by rw [isActive, hs]; rfl)) (fun _ => hv)
  · exact .ite (fun hs => hv.updChan_state (by rw [hs]; decide) rfl (by rw [isHeld, isHeld, isActive, isActive, hs]; rfl) (by simp [isActive]) rfl)
      (fun _ => hv)

theorem Uplinked.portUp (h : Uplinked none true u) (p : Fin 4) : Uplinked none true (portUp c p u) := by
  rw [Machine.portUp]
  refine Uplinked.serveWait (Uplinked.foldl h (fun v ch hv => ?_) _)
  split
  · next hu hs => exact hv.updChan_state (by rw [hs]; decide) rfl (by simp [isHeld, isActive, hs]) (by simp [isActive, hs]) rfl
  · next hu hs => exact hv.updChan_keep rfl rfl (by rw [isHeld, isHeld, isActive, isActive, hs]; rfl) (by simp [isActive]) hu
  · exact hv

theorem Uplinked.derivePort (h : Uplinked none c.sup.built u) (p : Fin 4) : Uplinked none c.sup.built (derivePort c p u) := by
  rw [Machine.derivePort]
  generalize portStateOf c u p = new
  refine .ite (fun _ => h) (fun _ => ?_)
  let v := if (u.ports.get p).state = .up ∧ new = .down then setChassisBit .uplinkDown (u.updPort p (fun x => { x with state := new }))
    else u.updPort p (fun x => { x with state := new })
  have hv : Uplinked none c.sup.built v := h.steady (.ite ((steady_updPort p _).trans (steady_setChassisBit _)) (steady_updPort p _))
  refine .ite (fun _ => hv) (fun hb => ?_)
  have hb' : c.sup.built = true := by simpa using hb
  rw [hb'] at hv ⊢
  show Uplinked none true _
  split
  · exact hv.portDown p
  · exact hv.portUp p
  · exact (hv.portComesIntoUse p).serveWait
  · exact hv.portComesIntoUse p
  · exact ((hv.portLeavesUse p).steady steady_disableIdle).serveIf _
  · exact hv

theorem Uplinked.uplinkReadDone (h : Uplinked none c.sup.built u) (p : Fin 4) : Uplinked none c.sup.built (uplinkReadDone c p u) := by
  rw [Machine.uplinkReadDone]
  split
  · exact h
  · refine .ite (fun _ => h) (fun hb => ?_)
    have hb' : c.sup.built = true := by simpa using hb
    rw [hb'] at h ⊢
    refine Uplinked.serveIf (Uplinked.steady (.ite (fun _ => ?_) (fun _ => ?_)) (steady_updPort p _)) _
    · exact h.foldl (fun v ch hv => .ite (fun hs => hv.vacate (by rw [hs]; decide) (idleState_idle v p)) (fun _ => hv)) _
    · exact (((h.steady (steady_updPort p _)).portLeavesUse p).steady (steady_disableIdle.trans (steady_updPort p _))).portComesIntoUse p

/-! ### Crossbar answers (R137 to R139) -/

/-- A mark of the channel that the laws do not read changes, and stays as it is in an empty table. -/
theorem Uplinked.updChan_mark (h : Uplinked e b u) {f : Chan → Chan} (hs : ∀ x, (f x).state = x.state) (hh : ∀ x, (f x).held = x.held)
    (hu : ∀ x, (f x).inUse = x.inUse) (hr : f .reset = .reset) : Uplinked e b (updChan ch f u) := by
  have ha : ∀ x, isActive (f x) = isActive x := fun x => by rw [isActive, hs, isActive]
  have hheld : ∀ x, isHeld (f x) = isHeld x := fun x => by rw [isHeld, ha, hs, isHeld]
  refine h.putChan ⟨?_, .inr ⟨hh _, ?_⟩, ?_, ?_⟩
  · rw [hh, hheld]; exact h.holder ch
  · rw [ha]; exact id
  · rw [hu, hs, hh]; exact h.unused ch
  · intro hb; rw [(h.unbuilt hb).2, hr]

theorem Uplinked.noCommand (h : Uplinked e b u) : Uplinked e b (updChan ch (fun x => { x with cmd := .none }) u) :=
  h.updChan_mark (fun _ => rfl) (fun _ => rfl) (fun _ => rfl) rfl

theorem Uplinked.channelAnswered (h : Uplinked none b u) (cmd : XCmd) : Uplinked none b (channelAnswered c cmd u) := by
  cases cmd with
  | clear => exact h
  | connect ch n k =>
    have h1 := h.noCommand (ch := ch)
    refine Uplinked.ite (fun hs => .ite (fun _ => ?_) (fun _ => ?_)) (fun _ => .ite (fun hd => ?_) (fun _ => h1))
    · exact h1.updChan_state (by rw [hs]; decide) rfl (by simp [isHeld, isActive, hs]) (by simp [isActive, hs]) rfl
    · exact (h1.failover (by simp [isActive, hs])).steady steady_disableIdle
    · exact h1.updChan_state (by rw [hd.1]; decide) rfl (by simp [isHeld, isActive]) (by simp [isActive]) rfl
  | disconnect ch =>
    have h1 := h.noCommand (ch := ch)
    exact Uplinked.ite (fun hd => (h1.vacate (by rw [hd]; decide) (idleState_idle _ _)).steady steady_disableIdle) (fun _ => h1)

/-- A slot in ON has lost the channel of a lane place to a fault and seeks another one (R138). -/
theorem Uplinked.seekChan (h : Uplinked none b u) (hb : b = true) {k : Fin 4} (hon : (u.slot n).state = .on)
    (hempty : ∀ j, (u.chans.get j).held ≠ some (n, k)) (choice : Option (Fin 32)) :
    (∀ new, choice = some new → (u.chans.get new).state = .free) →
    Uplinked none b (Machine.syncWait n (match choice with
      | some new => if k.val < laneLimit u n ∧ 0 < pendingCount u n then Machine.takeChannel c new n k u else u
      | none => u)) := by
  intro hfree
  cases choice with
  | none => exact (h.serving n).syncWait hb hon
  | some new =>
    refine Uplinked.syncWait (.ite (fun hk => ?_) (fun _ => h.serving n)) hb ?_
    · exact (h.serving n).takeChannel (hfree new rfl) hempty (.inl hon) hk.1 (fun _ => rfl)
    · dsimp only
      split
      · rw [(wired_takeChannel _ k).slot]; exact hon
      · exact hon

theorem holderLost_chans : (Machine.holderLost n u).chans = u.chans := by rw [Machine.holderLost]; split <;> rfl

theorem Uplinked.channelTimedOut (h : Uplinked none b u) (cmd : XCmd) : Uplinked none b (channelTimedOut c cmd u) := by
  rw [Machine.channelTimedOut]
  split
  · exact h
  · next ch _ =>
    refine .ite (fun hst => ?_) (fun _ => h.noCommand)
    have hs : (u.chans.get ch).state ≠ .unavailable := by rcases hst with hst | hst <;> rw [hst] <;> decide
    have hv : Uplinked none b (disableIdle (updChan ch (Machine.vacate .faulted) u)) :=
      (h.vacate hs (by decide)).steady steady_disableIdle
    have hleft : ∀ n k, (u.chans.get ch).held = some (n, k) →
        ∀ j, ((disableIdle (updChan ch (Machine.vacate .faulted) u)).chans.get j).held ≠ some (n, k) := fun n k hheld j hj => by
      rw [steady_disableIdle.chans, updChan_chans] at hj
      split at hj
      · cases hj
      · next hne => exact hne (h.places ch j _ hheld hj)
    generalize disableIdle (updChan ch (Machine.vacate .faulted) u) = w at hv hleft ⊢
    split
    · next n k hheld =>
      refine .ite (fun _ => .ite (fun hon => ?_) (fun _ => hv.holderLost)) (fun _ => hv)
      have hl := hleft n k hheld
      rw [← holderLost_chans (n := n)] at hl
      exact hv.holderLost.seekChan (h.built_of_chan hs) hon hl _ (fun _ => chooseChannel_free)
    · exact hv

theorem Uplinked.endCommand (h : Uplinked none b u) (f : XFlight) (ack : Bool) : Uplinked none b (endCommand c f ack u) := by
  have h1 : Uplinked none b { u with xFlight := none } := h.steady (steady_flight u.xq none)
  exact Uplinked.steady (.ite (fun _ => h1) (fun _ => .ite (fun _ => h1.channelAnswered _) (fun _ => h1.channelTimedOut _))) steady_sendNext

theorem Uplinked.drainEnds (h : Uplinked e b u) : Uplinked e b (drainEnds ch c u) :=
  .ite (fun hd => (h.updChan_state (by rw [hd]; decide) rfl (by simp [isHeld, isActive]) (by simp [isActive]) rfl).steady (steady_queueCmd _))
    (fun _ => h)

theorem steady_lateCarry : Steady u (lateCarry u) := by
  rw [lateCarry]
  refine Steady.trans (v := { u with xLate := [] }) (.of_eq rfl rfl rfl rfl) (.foldl (fun u cmd => ?_) _ _)
  exact .ite (.of_eq rfl rfl rfl rfl) (.of_eq rfl rfl rfl rfl)

theorem steady_carryOut (cmd : XCmd) : Steady u (carryOut cmd u) := steady_lateCarry.trans (.of_eq rfl rfl rfl rfl)

end

end Sys2Proof.Machine
end

section
/-! PROOFS. Slot operations and the budget unit keep the laws `Uplinked` (R15, R18, R56 to R77): a slot that loses power leaves the uplinks
first, a slot that quiesces leaves the wait list, and a grant reaches a slot that has no part in them. -/

namespace Sys2Proof.Machine

section
variable {u v w : Units} {c : Ctx} {n m : Fin 12} {e : Option (Fin 12)} {b : Bool}

/-- A slot that does not wait stays or comes within power; its active channels keep their lanes. -/
theorem Uplinked.updSlot_engaged (h : Uplinked e b u) {f : Slot → Slot} (hw : n ∉ u.upWait) (hs : Engaged (f (u.slot n)))
    (hu : (f (u.slot n)).unvalidated = (u.slot n).unvalidated) : Uplinked e b (u.updSlot n f) :=
  h.updSlot (fun ch k ha hh => ⟨hs, by
    rw [laneLimit_congr (updSlot_inv ..) (by rw [updSlot_slot_self, hu])]; exact (h.active ch n k ha hh).2⟩) (fun hn => absurd hn hw)

theorem not_engaged {x : Slot} (h : x.state ≠ .on ∧ x.state ≠ .quiescing) : ¬ Engaged x := fun he => he.elim h.1 h.2

/-! ### Lists of the budget unit -/

theorem steady_waitQ (l : List WaitEntry) (j : Nat) : Steady u { u with waitQ := l, joinNext := j } := .of_eq rfl rfl rfl rfl
theorem steady_removeWait : Steady u (removeWait n u) := .of_eq rfl rfl rfl rfl
theorem steady_leaveOnLists : Steady u (leaveOnLists n u) := .of_eq rfl rfl rfl rfl
theorem steady_lists (g k l : List (Fin 12)) : Steady u { u with grantOrder := g, capped := k, shed := l } := .of_eq rfl rfl rfl rfl
theorem steady_shedTimer (t : Timer) (d a : Bool) : Steady u { u with shedTimer := t, deficit := d, emergency := a } := .of_eq rfl rfl rfl rfl
theorem steady_toGrantEnd : Steady u (toGrantEnd n u) := .of_eq rfl rfl rfl rfl

/-! ### Power ends (R15 to R18) -/

theorem Uplinked.powerOff (h : Uplinked none b u) : Uplinked none b (powerOff c n u) :=
  (h.releaseSlot.steady (v := { leaveOnLists n (removeWait n (Machine.releaseSlot c n u)) with
    shed := (Machine.releaseSlot c n u).shed.filter (· != n) }) (.of_eq rfl rfl rfl rfl)).updSlot_detached
    (h.detached_releaseSlot.congr rfl rfl) darkSlot

theorem Uplinked.detached_powerOff (h : Uplinked none b u) : Detached n (Machine.powerOff c n u) := h.detached_releaseSlot.congr rfl rfl

theorem Uplinked.cutToSettling (h : Uplinked none b u) : Uplinked none b (cutToSettling c n u) :=
  .ite (fun _ => h.powerOff.updSlot_detached h.detached_powerOff _) (fun _ => h)

theorem Uplinked.cutToFault (h : Uplinked none b u) (r : FaultReason) : Uplinked none b (cutToFault c n r u) :=
  .ite (fun _ => ((h.powerOff.updSlot_detached h.detached_powerOff _).steady (steady_setSlotBit .fault)).steady (steady_setChassisBit .slotFault))
    (fun _ => h)

theorem Uplinked.enterQuiesce (h : Uplinked none b u) (r : QReason) : Uplinked none b (enterQuiesce c n r u) :=
  ((h.steady steady_removeWait).steady steady_leaveOnLists).quiesceClaim.updSlot_engaged (not_mem_filter_ne _) (.inr rfl) rfl

theorem Uplinked.thermalTrip (h : Uplinked none b u) : Uplinked none b (thermalTrip c n u) := by
  rw [Machine.thermalTrip]
  split
  · exact h.cutToSettling
  · exact h.enterQuiesce .thermal
  · exact .ite (fun _ => h) (fun _ => h.steady (steady_updSlot rfl rfl rfl))
  · exact h

theorem Uplinked.leaveWaitPower (h : Uplinked none b u) (hs : (u.slot n).state = .waitPower) : Uplinked none b (leaveWaitPower n u) :=
  (h.steady steady_removeWait).steady (steady_updSlot_off (not_engaged (by rw [removeWait_slot, hs]; decide)))

theorem Uplinked.leverOpened (h : Uplinked none b u) : Uplinked none b (leverOpened c n u) := by
  rw [Machine.leverOpened]
  split
  · next hs => exact h.leaveWaitPower hs
  · exact h.cutToSettling
  · exact h.enterQuiesce .eject
  · exact h.steady (steady_updSlot rfl rfl rfl)
  · exact h.steady (steady_updSlot rfl rfl rfl)
  · exact h

theorem Uplinked.holdSlot (h : Uplinked none b u) : Uplinked none b (holdSlot c n u) := by
  rw [Machine.holdSlot]
  split
  · next hs => exact h.leaveWaitPower hs
  iterate 3 exact h.cutToSettling
  · exact h

theorem Uplinked.railFaults (h : Uplinked none b u) : Uplinked none b (railFaults c n u) := .ite (fun _ => h.cutToFault _) (fun _ => h)

theorem Uplinked.pgoodFalls (h : Uplinked none b u) : Uplinked none b (pgoodFalls c n u) := by
  rw [Machine.pgoodFalls]
  split
  iterate 2 exact h.cutToFault .railLost
  · exact h

theorem Uplinked.pgoodRises (h : Uplinked none b u) : Uplinked none b (pgoodRises c n u) := by
  rw [Machine.pgoodRises]
  split
  · next hs => exact h.steady (steady_updSlot_off (not_engaged (by rw [hs]; decide)))
  iterate 3 exact h.steady (steady_setSlotBit .railAnomaly)
  · exact h

/-! ### Power begins (R12, R59, R86) -/

theorem Uplinked.startCharge (h : Uplinked none b u) (hn : ¬ Engaged (u.slot n)) (watts : Nat) : Uplinked none b (startCharge c n watts u) := by
  have hv : Uplinked none b ((toGrantEnd n u).updSlot n (fun x =>
      { coolSlot x with state := .charging, grant := watts, allowance := watts, mainEn := true,
                        chargeTimer := startTimer c (chargeTime c n), chargeStart := some c.now })) :=
    (h.steady steady_toGrantEnd).steady (steady_updSlot_off hn)
  refine .ite (fun _ => hv.cutToFault .overcurrent) (fun _ => .ite (fun _ => hv.steady (steady_updSlot_off (not_engaged ?_))) (fun _ => hv))
  rw [updSlot_slot_self]
  exact ⟨nofun, nofun⟩

theorem steady_newAllowance (f : Slot → Nat) : Steady u (u.updSlot n (fun x => newAllowance c (f x) x)) :=
  steady_updSlot (by rw [newAllowance_eq]) (by rw [newAllowance_eq]) (by rw [newAllowance_eq])

theorem steady_setAllowance (k : Nat) : Steady u (setAllowance c n k u) := steady_newAllowance (fun _ => k)

theorem steady_applyRaise (k : Nat) : Steady u (applyRaise c n k u) := by
  rw [applyRaise]
  refine steady_toGrantEnd.trans (steady_updSlot ?_ ?_ ?_) <;> dsimp only <;> rw [newAllowance_eq]

/-! ### The budget unit -/

theorem steady_deficit (d : Bool) (t : Timer) : Steady u { u with deficit := d, shedTimer := t } := .of_eq rfl rfl rfl rfl

theorem steady_recompute : Steady u (recompute c u) := by
  rw [recompute]
  exact (Steady.ite (steady_setChassisBit .deficit) (.refl u)).trans (steady_deficit _ _)

/-- A slot joins the capped list, or the shed list. -/
theorem steady_capped {p : Prop} [Decidable p] (l : List (Fin 12)) : Steady u (if p then u else { u with capped := l }) :=
  .ite (.refl u) (.of_eq rfl rfl rfl rfl)

theorem steady_shed {p : Prop} [Decidable p] (l : List (Fin 12)) : Steady u (if p then u else { u with shed := l }) :=
  .ite (.refl u) (.of_eq rfl rfl rfl rfl)

theorem steady_capOne : Steady u (capOne c u n) := by
  rw [capOne]
  exact .ite (.refl u) (((steady_setAllowance _).trans (steady_capped _)).trans (steady_setSlotBit _))

theorem steady_capStep : Steady u (capStep c u) := .foldl (fun _ _ => steady_capOne) _ u

theorem steady_markVictim : Steady u (markVictim n u) :=
  ((steady_shed _).trans (steady_setSlotBit _)).trans (steady_setChassisBit _)

theorem Uplinked.emergencyShed (h : Uplinked none b u) : Uplinked none b (emergencyShed c u) :=
  .ite (fun _ => h) (fun _ => Uplinked.steady
    (h.foldl (fun _ _ hv => .ite (fun _ => (hv.steady steady_markVictim).cutToSettling) (fun _ => hv)) _) (steady_setChassisBit _))

theorem Uplinked.plannedShed (h : Uplinked none b u) : Uplinked none b (plannedShed c u) := by
  refine h.foldl (fun v n hv => .ite (fun _ => ?_) (fun _ => hv)) _
  split
  · exact (hv.steady steady_markVictim).enterQuiesce .shed
  · exact (hv.steady steady_markVictim).cutToSettling
  · exact hv

theorem Uplinked.shedDecision (h : Uplinked none b u) : Uplinked none b (shedDecision c u) :=
  .ite (fun _ => h.steady (steady_shedTimer _ _ _))
    (fun _ => .ite (fun _ => .ite (fun _ => h.emergencyShed.steady (steady_shedTimer _ _ _)) (fun _ => h.emergencyShed))
      (fun _ => .ite (fun _ => h.steady (steady_shedTimer _ _ _)) (fun _ => h)))

theorem Uplinked.deficitHandling (h : Uplinked none b u) : Uplinked none b (deficitHandling c u) :=
  .ite (fun _ => (h.steady steady_capStep).shedDecision) (fun _ => h)

theorem Uplinked.losePower (h : Uplinked none b u) : Uplinked none b (losePower c u) := by
  have hv := (h.steady (steady_setChassisBit .powerLost)).foldl (f := fun u n => Machine.cutToSettling c n (markVictim n u))
    (fun _ _ hv => (hv.steady steady_markVictim).cutToSettling) ((indices 12).filter (fun n => powered (u.slot n)))
  exact (Uplinked.ite (fun _ => hv) (fun _ => hv.steady (steady_setChassisBit _))).steady (steady_shedTimer _ _ _)

theorem Uplinked.supplyEmergency (h : Uplinked none b u) : Uplinked none b (supplyEmergency c u) :=
  .ite (fun _ => .ite (fun _ => h.steady (steady_shedTimer _ _ _)) (fun _ => h.steady (steady_shedTimer _ _ _)))
    (fun _ => .ite (fun _ => h.losePower) (fun _ => h))

theorem steady_restoreOne : Steady u (restoreOne c u n) :=
  .ite (.refl u) (.ite ((steady_setAllowance _).trans (steady_lists _ _ _)) (steady_setAllowance _))

theorem Uplinked.applyGrant (h : Uplinked none b u) (g : WaitEntry) : Uplinked none b (applyGrant c g u) := by
  rw [Machine.applyGrant]
  split
  · next hs => exact h.startCharge (not_engaged (by rw [hs]; decide)) _
  · exact h.steady (steady_applyRaise _)
  · exact h

theorem Uplinked.queueScan (h : Uplinked none b u) (fuel : Nat) : Uplinked none b (queueScan c fuel u) := by
  induction fuel generalizing u with
  | zero => exact h
  | succ fuel ih =>
    rw [Machine.queueScan]
    split
    · exact h
    · exact ih ((h.steady (steady_waitQ _ _)).applyGrant _)

theorem Uplinked.restoreAndScan (h : Uplinked none b u) : Uplinked none b (restoreAndScan c u) := by
  have hr : Uplinked none b (restoration c u) := h.foldl (fun _ _ hv => hv.steady steady_restoreOne) _
  have hq : Uplinked none b (if (restoration c u).capped.any (fun n => !passedOver (restoration c u) n) then restoration c u
      else Machine.queueScan c (restoration c u).waitQ.length (restoration c u)) := .ite (fun _ => hr) (fun _ => hr.queueScan _)
  exact .ite (fun _ => .ite (fun _ => hq.serveWait) (fun _ => hq)) (fun _ => h)

theorem Uplinked.settle (h : Uplinked none b u) : Uplinked none b (settle c u) :=
  .ite (fun _ => ((h.steady steady_recompute).supplyEmergency.deficitHandling.steady steady_recompute).restoreAndScan) (fun _ => h)

theorem Uplinked.settleAfter (h : Uplinked none b v) : Uplinked none b (settleAfter c u v) :=
  .ite (fun _ => h.settle) (fun _ => .ite (fun _ => h.restoreAndScan) (fun _ => h))

end

end Sys2Proof.Machine
end

section
/-! PROOFS. Inventory, module bus, seating and removal keep the laws `Uplinked` (R7, R25, R29 to R42, R146). An entry that changes keeps them
when no slot in ON or QUIESCING loses its VALID identity by it (`steady_storeEntry`). -/

namespace Sys2Proof.Machine

section
variable {u v w : Units} {c : Ctx} {n m : Fin 12} {e : Option (Fin 12)} {b : Bool} {i : Fin 26}

/-! ### Entries -/

theorem laneLimit_zero (hu : (u.slot n).unvalidated = false) (hv : (bladeEntry u n).state ≠ .valid) : laneLimit u n = 0 := by
  rw [laneLimit, hu, bladeVals, if_neg (c := bladeValid u n = true) (by simp [bladeValid, hv])]; rfl

theorem steady_storeEntry (i : Fin 26) (x : Entry) (h : ∀ n, bladePos n = i → Engaged (u.slot n) → (u.inv.get i).state ≠ .valid) :
    Steady u (storeEntry i x u) where
  chans := storeEntry_chans i x
  upWait := storeEntry_upWait i x
  slots m hm := by
    refine ⟨by rw [storeEntry_slot], by rw [storeEntry_slot], ?_⟩
    by_cases hp : bladePos m = i
    · by_cases hu : (u.slot m).unvalidated = true
      · rw [laneLimit, laneLimit, storeEntry_slot, if_pos hu, if_pos hu]
      · rw [laneLimit_zero (by simpa using hu) (by rw [bladeEntry, hp]; exact h m hp hm)]
        exact Nat.zero_le _
    · have he : bladeEntry (storeEntry i x u) m = bladeEntry u m := storeEntry_other i x (Ne.symm hp)
      rw [laneLimit, laneLimit, bladeVals, bladeVals, bladeValid, bladeValid, he, storeEntry_slot]

/-- A module position belongs to no slot. -/
theorem steady_storeEntry_bay (k : Fin 14) (x : Entry) : Steady u (storeEntry (bayPos k) x u) :=
  steady_storeEntry _ x (fun n hn => absurd (congrArg Fin.val hn) (by simp only [bladePos, bayPos]; omega))

theorem steady_storeEntry_blade (x : Entry) (h : ¬ Engaged (u.slot n)) : Steady u (storeEntry (bladePos n) x u) :=
  steady_storeEntry _ x (fun m hm he => by
    have e : m = n := Fin.ext (Fin.val_eq_of_eq hm :)
    exact absurd (e ▸ he) h)

theorem steady_deriveSupply (k : Fin 4) : Steady u (deriveSupply c k u) := by
  rw [deriveSupply]
  have hv : ∀ s : Vector Supply 4, Steady u { u with supplies := s } := fun _ => .of_eq rfl rfl rfl rfl
  exact .ite ((hv _).trans (steady_setChassisBit _)) (.ite ((hv _).trans (steady_setChassisBit _)) (hv _))

theorem steady_updFan (k : Fin 6) (f : Fan → Fan) : Steady u (u.updFan k f) := .of_eq rfl rfl rfl rfl
theorem steady_updZone (z : Fin 3) (f : Zone → Zone) : Steady u (u.updZone z f) := .of_eq rfl rfl rfl rfl
theorem steady_deriveFan (k : Fin 6) : Steady u (deriveFan c k u) := (steady_updFan k _).trans (steady_updZone _ _)

theorem Uplinked.reportEntry (h : Uplinked none c.sup.built u) (i : Fin 26) : Uplinked none c.sup.built (reportEntry c i u) := by
  rw [Machine.reportEntry]
  split
  · exact h
  · split
    · exact h.steady (steady_deriveSupply _)
    · split
      · exact h.steady (steady_deriveFan _)
      · exact h.derivePort _

/-! ### Promotion (R7, R34, R146) -/

theorem releases_updSlot (l : List (Fin 32)) (f : Slot → Slot) :
    l.foldl (fun u ch => releaseChan c ch u) (u.updSlot n f) = (l.foldl (fun u ch => releaseChan c ch u) u).updSlot n f :=
  List.foldl_hom (fun u : Units => u.updSlot n f) (fun v ch => by rw [releaseChan, releaseChan]; rw [updSlot_chans]; split <;> rfl)

/-- The active channels of a slot that stay when those in lane places from the limit on are released. -/
theorem activeAbove_released (hp : OnePerPlace u) {limit : Nat} {ch : Fin 32} {k : Fin 4}
    (ha : isActive (((activeAbove u n limit).foldl (fun u ch => releaseChan c ch u) u).chans.get ch) = true)
    (hh : (((activeAbove u n limit).foldl (fun u ch => releaseChan c ch u) u).chans.get ch).held = some (n, k)) : k.val < limit := by
  rw [releases_chans] at ha hh
  split at ha
  · rw [isActive_releasedChan] at ha; cases ha
  · next hnot =>
    rw [if_neg hnot] at hh
    by_contra hk
    refine hnot ⟨List.mem_filter.mpr ⟨(mem_activeOf_iff hp).mpr (mem_activeSet.mpr ⟨ha, heldBy_iff.mpr ⟨k, hh⟩⟩), ?_⟩, ha⟩
    rw [hh]
    simpa using hk

theorem Uplinked.clearMark (h : Uplinked none b u) : Uplinked none b (clearMark c n u) := by
  refine .ite (fun _ => ?_) (fun _ => h)
  let f := fun x : Slot => { x with unvalidated := false }
  let limit := laneLimit (u.updSlot n f) n
  have hrel : Uplinked (some n) b ((activeAbove (u.updSlot n f) n limit).foldl (fun u ch => Machine.releaseChan c ch u) (u.updSlot n f)) := by
    have hu := h.releases (c := c) (activeAbove (u.updSlot n f) n limit)
    have kept := fun ch k => activeAbove_released (u := u.updSlot n f) (n := n) (c := c) (limit := limit) h.places (ch := ch) (k := k)
    have hinv := (wired_releases (c := c) (u := u) (activeAbove (u.updSlot n f) n limit)).inv
    rw [releases_updSlot] at kept ⊢
    refine (hu.serving n).updSlot (fun ch k ha hh => ⟨(hu.active ch n k ha hh).1, ?_⟩)
      (fun hw => ⟨(hu.waiting n hw).1, fun he => absurd rfl he⟩)
    rw [laneLimit_congr (u := u.updSlot n f) (by rw [updSlot_inv, updSlot_inv, hinv]) (by rw [updSlot_slot_self, updSlot_slot_self])]
    exact kept ch k ha hh
  have hclaim := hrel.updSlot_claim (f := fun x => { x with claimed := min x.claimed (laneLimit
    ((activeAbove (u.updSlot n f) n limit).foldl (fun u ch => Machine.releaseChan c ch u) (u.updSlot n f)) n) }) rfl rfl
  exact .ite (fun _ => hclaim.leaveWait) (fun hp => hclaim.served (fun _ => Nat.pos_of_ne_zero hp))

theorem Uplinked.promoted (h : Uplinked none b u) (i : Fin 26) : Uplinked none b (promoted c i u) := by
  rw [Machine.promoted]
  split
  · exact h
  · exact Uplinked.clearMark (.ite (fun hs => h.steady (steady_updSlot_off (not_engaged (by rw [hs]; decide)))) (fun _ => h))

theorem Uplinked.recheck (h : Uplinked none c.sup.built u) (l : List (Fin 26)) : Uplinked none c.sup.built (recheck c l u) := by
  refine h.foldl (fun v i hv => .ite (fun hd => ?_) (fun _ => hv)) l
  refine Uplinked.promoted (.ite (fun _ => hv) (fun _ => Uplinked.reportEntry (hv.steady (steady_storeEntry _ _ fun _ _ _ => ?_)) i)) i
  rw [hd.1]
  decide

theorem Uplinked.changeThen {x : Entry} {report : Units → Units} (h : Uplinked none c.sup.built (storeEntry i x u))
    (hr : ∀ v, Uplinked none c.sup.built v → Uplinked none c.sup.built (report v)) :
    Uplinked none c.sup.built (changeThen c i x report u) :=
  .ite (fun _ => (hr _ (h.recheck _)).recheck _) (fun _ => hr _ h)

theorem Uplinked.reportChange (h : Uplinked none c.sup.built u) (old x : Entry) : Uplinked none c.sup.built (reportChange c i old x u) :=
  .ite (fun _ => h) (fun _ => h.reportEntry i)

theorem Uplinked.changeEntry {x : Entry} (h : Uplinked none c.sup.built (storeEntry i x u)) :
    Uplinked none c.sup.built (changeEntry c i x u) := Uplinked.changeThen h (fun _ hv => hv.reportChange _ _)

theorem Uplinked.applyValidation (h : Uplinked none c.sup.built u) (hn : ¬ Engaged (u.slot n)) (r : Validation) :
    Uplinked none c.sup.built (applyValidation c (bladePos n) r u) := (h.steady (steady_storeEntry_blade _ hn)).changeEntry

/-! ### The module bus (R35 to R42) -/

theorem BusOnly.steady (h : BusOnly u v) : Steady u v :=
  .of_eq (h.view (·.chans)) (h.view (·.upWait)) (h.view (·.slots)) (h.view (·.inv))

theorem Uplinked.moduleArrives (h : Uplinked none c.sup.built u) (k : Fin 14) : Uplinked none c.sup.built (moduleArrives c k u) :=
  ((h.steady (steady_storeEntry_bay k _)).changeEntry.reportEntry _).steady (busOnly_queueBus _ _).steady

theorem Uplinked.moduleLeaves (h : Uplinked none c.sup.built u) (k : Fin 14) : Uplinked none c.sup.built (moduleLeaves c k u) := by
  rw [Machine.moduleLeaves]
  exact ((h.steady (busOnly_readsGone k u).steady).steady (steady_storeEntry_bay k _)).changeEntry.reportEntry _

theorem Uplinked.readEnds (h : Uplinked none c.sup.built u) (k : Fin 14) (r : Validation) : Uplinked none c.sup.built (readEnds c k r u) := by
  rw [Machine.readEnds]
  refine Uplinked.changeThen (h.steady (steady_storeEntry_bay k _)) (fun v hv => ?_)
  have hr := hv.reportChange (i := bayPos k) (u.inv.get (bayPos k)) (validatedEntry u (bayPos k) r)
  dsimp only
  split
  · exact hr.uplinkReadDone _
  · exact hr

theorem Uplinked.attemptEnds (h : Uplinked none c.sup.built u) (r : AttemptResult) : Uplinked none c.sup.built (attemptEnds c r u) := by
  have ended : ∀ v, Uplinked none c.sup.built v → Uplinked none c.sup.built (endBus v) := fun v hv => hv.steady (busOnly_endBus v).steady
  rw [Machine.attemptEnds]
  split
  · refine .ite (fun _ => ended _ h) (fun _ => ?_)
    split
    · exact ended _ (h.readEnds _ _)
    · exact .ite (fun _ => h.steady (busOnly_busOp u _).steady)
        (fun _ => ended _ ((Uplinked.ite (fun _ => h.steady (steady_setChassisBit .moduleBusFault)) (fun _ => h)).readEnds _ _))
  · exact h

theorem steady_nextAttempt : Steady u (nextAttempt u) := by
  rw [nextAttempt]; split
  · exact (busOnly_busOp u _).steady
  · exact .refl u

theorem Uplinked.queueRead (h : Uplinked none c.sup.built u) (k : Fin 14) (x : Entry) :
    Uplinked none c.sup.built (queueBus (.read k) (putEntry c (bayPos k) x u)) :=
  (Uplinked.ite (fun _ => h) (fun _ => (h.steady (steady_storeEntry_bay k x)).reportEntry _)).steady (busOnly_queueBus _ _).steady

theorem Uplinked.buildCold (h : Uplinked none c.sup.built u) (k : Fin 14) : Uplinked none c.sup.built (buildCold c k u) :=
  .ite (fun _ => h.queueRead k _) (fun _ => h)

theorem Uplinked.buildWarm (h : Uplinked none c.sup.built u) (k : Fin 14) (st : EntryState) (id : Ident) (ok : Bool) :
    Uplinked none c.sup.built (buildWarm c k st id ok u) :=
  .ite (fun _ => h.queueRead k _) (fun _ => h)

/-! ### Seating, removal, end of settling (R5, R17, R25) -/

theorem Uplinked.seatSlot (h : Uplinked none c.sup.built u) (hn : ¬ Engaged (u.slot n)) : Uplinked none c.sup.built (seatSlot c n u) := by
  rw [seatSlot_eq]
  have hb : Steady u (seatBegun n u) := .of_off hn (fun _ => seatBegun_other) rfl rfl rfl
  refine ((h.steady hb).steady (steady_storeEntry_blade _ (not_engaged ?_))).changeEntry
  rw [seatBegun_slot]
  exact ⟨nofun, nofun⟩

theorem Uplinked.removeSlot (h : Uplinked none c.sup.built u) : Uplinked none c.sup.built (removeSlot c n u) := by
  rw [Machine.removeSlot]
  split
  · exact h
  · next hs => exact h.steady (steady_updSlot_off (not_engaged (by rw [hs]; decide)))
  · have hoff : Uplinked none c.sup.built (emptied c n u) := h.powerOff.updSlot_detached h.detached_powerOff _
    refine ((hoff.steady (steady_storeEntry_blade _ (not_engaged ?_))).changeEntry).steady (steady_setChassisBit .slotRemoved)
    rw [emptied_slot]
    exact ⟨nofun, nofun⟩

theorem Uplinked.settlingEnds (h : Uplinked none b u) (hn : ¬ Engaged (u.slot n)) : Uplinked none b (settlingEnds c n u) :=
  have hu := h.steady (steady_updSlot_off hn)
  .ite (fun _ => hu.steady (steady_setSlotBit .railAnomaly)) (fun _ => hu)

/-! ### Identity (R6) -/

theorem Uplinked.identityResult (h : Uplinked none b u) (hn : ¬ Engaged (u.slot n)) : Uplinked none b (identityResult n u).2 := by
  rw [Machine.identityResult]
  split <;> exact h.steady (steady_updSlot_off hn)

theorem Uplinked.takeIdentity (h : Uplinked none c.sup.built u) (bs : List Byte) : Uplinked none c.sup.built (takeIdentity c n bs u).2 := by
  rw [Machine.takeIdentity]
  split
  · next hs =>
    have hn : ¬ Engaged (u.slot n) := not_engaged (by rcases hs with hs | hs <;> rw [hs] <;> decide)
    exact (h.applyValidation hn _).identityResult (by rw [applyValidation_slot]; exact hn)
  · exact h

/-! ### The end of a crossbar command (R136, R137) -/

theorem Uplinked.flightEnds (h : Uplinked none b u) (f : XFlight) (ack : Bool) : Uplinked none b (flightEnds f ack c u) :=
  have hu := (h.endCommand (c := c) f ack).settleAfter (c := c) (u := u)
  .ite (fun _ => hu.serveWait) (fun _ => hu)

theorem steady_xLate (l : List XCmd) : Steady u { u with xLate := l } := .of_eq rfl rfl rfl rfl

theorem Uplinked.flightTimesOut (h : Uplinked none b u) (f : XFlight) (carriedOut : Bool) :
    Uplinked none b (flightTimesOut f carriedOut c u) := by
  rw [Machine.flightTimesOut]
  exact ((Uplinked.ite (fun _ => h.steady (steady_carryOut f.cmd))
    (fun _ => (h.steady steady_lateCarry).steady (steady_xLate _))).steady (steady_setChassisBit .crossbarTimeout)).flightEnds f false

end

end Sys2Proof.Machine
end

section
/-! PROOFS. Requests, manager commands and committed rows keep the laws `Uplinked` (R8 to R11, R19, R26, R97, R133, R134, R153, R171). A part
in service carries them with the built table (`Live`). -/

namespace Sys2Proof.Machine

section
variable {u v w : Units} {c : Ctx} {n m : Fin 12} {e : Option (Fin 12)} {b : Bool} {bs : List Byte}

/-! ### Power requests (R8 to R11) -/

theorem Uplinked.enterWaitPower (h : Uplinked none b u) (hs : (u.slot n).state = .identified) (k : Nat) :
    Uplinked none b (enterWaitPower c n k u) :=
  (h.steady (steady_updSlot_off (not_engaged (by rw [hs]; decide)))).steady (steady_waitQ _ _)

theorem steady_wantRaise (k : Nat) : Steady u (wantRaise c n k u) := .ite (steady_waitQ _ _) (steady_waitQ _ _)

theorem steady_lowerGrant (k : Nat) : Steady u (lowerGrant c n k u) := by
  have hv : Steady u ((removeWait n u).updSlot n (fun x => { newAllowance c (min x.allowance k) x with grant := k })) := by
    refine steady_removeWait.trans (steady_updSlot ?_ ?_ ?_) <;> dsimp only <;> rw [newAllowance_eq]
  exact .ite (hv.trans (steady_lists _ _ _)) hv

theorem steady_changeGrant (k : Nat) : Steady u (changeGrant c n k u) :=
  (steady_updSlot rfl rfl rfl).trans (.ite (steady_wantRaise _) (.ite steady_removeWait (steady_lowerGrant _)))

theorem Uplinked.powerDown (h : Uplinked none b u) : Uplinked none b (powerDown c n u) := by
  rw [Machine.powerDown]
  split
  · next hs => exact h.leaveWaitPower hs
  iterate 3 exact h.cutToSettling
  · exact h

theorem Uplinked.powerUp (h : Uplinked none b u) (k : Nat) : Uplinked none b (powerUp c n k u) := by
  rw [Machine.powerUp]
  split
  · next hs => exact h.enterWaitPower hs k
  · exact (h.steady (steady_updSlot rfl rfl rfl)).steady (steady_waitQ _ _)
  · exact h.steady (steady_changeGrant k)
  · exact h

theorem Uplinked.powerOnRequest (h : Uplinked none b u) (k : Nat) : Uplinked none b (powerOnRequest c n k u).2 := by
  rw [Machine.powerOnRequest]
  split
  · exact h
  · split
    · exact h
    · exact h.powerUp _

theorem Uplinked.takePower (h : Uplinked none b u) : Uplinked none b (takePower c n bs u).2 := by
  rw [Machine.takePower]
  split_ifs
  iterate 4 exact h
  · exact h.powerDown
  · exact h.powerOnRequest _

/-! ### Thermal reports (R97 to R103) -/

theorem steady_judgeWarning : Steady u (judgeWarning c n u) := by
  rw [judgeWarning]
  split
  · exact .refl u
  · exact .ite (.ite (steady_updSlot rfl rfl rfl) (.refl u))
      (.ite (((steady_updSlot rfl rfl rfl).trans (steady_setSlotBit _)).trans (steady_setChassisBit _)) (.refl u))

theorem Uplinked.judgeTrip (h : Uplinked none b u) : Uplinked none b (judgeTrip c n u) := by
  rw [Machine.judgeTrip]
  split
  · exact h
  · exact .ite (fun _ => h.cutToFault _) (fun _ => .ite (fun _ => h.thermalTrip) (fun _ => h))

theorem steady_refreshZoneInput : Steady u (refreshZoneInput c n u) := steady_updSlot rfl rfl rfl

theorem Uplinked.acceptReport (h : Uplinked none b u) : Uplinked none b (acceptReport c n bs u) :=
  (((h.steady (steady_updSlot rfl rfl rfl)).steady steady_refreshZoneInput).steady steady_judgeWarning).judgeTrip

theorem Uplinked.takeReport (h : Uplinked none b u) : Uplinked none b (takeReport c n bs u).2 := by
  rw [Machine.takeReport]
  split
  · exact h
  · split
    · exact h
    · exact h.acceptReport

/-! ### Uplink claims (R133, R134) -/

theorem Uplinked.applyClaim (h : Uplinked none true u) (hon : (u.slot n).state = .on) (count : Nat) (g : Group) :
    Uplinked none true (applyClaim c n count g u) := by
  have hcut : Uplinked (some n) true (claimCut c n count g u) :=
    ((h.serving n).updSlot_claim (n := n) (f := fun x => { x with claimed := count, group := g }) rfl rfl).releases _
  have hstate : ((claimCut c n count g u).slot n).state = .on := by rw [claimCut_slot, if_pos rfl]; exact hon
  rw [applyClaim_eq]
  exact (hcut.fillSlot (.inl hstate)).syncWait rfl (by rw [wired_fillSlot.slot]; exact hstate)

theorem Uplinked.takeClaim (h : Uplinked none true u) : Uplinked none true (takeClaim c n bs u).2 := by
  rw [Machine.takeClaim]
  dsimp only
  split
  · exact h
  · split
    · exact h
    · split
      · exact h
      · next hon =>
        split
        · exact h
        · dsimp only
          exact Uplinked.applyClaim h (not_not.mp hon) _ _

/-! ### Quiesce answers (R19, R20) -/

theorem Uplinked.takeAnswer (h : Uplinked none b u) : Uplinked none b (takeAnswer c n bs u).2 := by
  rw [Machine.takeAnswer]
  split_ifs
  iterate 2 exact h
  · exact h.cutToSettling
  · exact h.steady (steady_updSlot rfl rfl rfl)
  · exact h

/-! ### Slot commands (R26, R40) -/

theorem Uplinked.cmdSlotOn (h : Uplinked none b u) : Uplinked none b (cmdSlotOn c n u).2 := by
  rw [Machine.cmdSlotOn]
  split
  · exact h
  · split
    · exact h
    · next hs =>
      split
      · exact h.enterWaitPower (by simpa using (not_or.mp hs).1) _
      · exact h

theorem Uplinked.cmdSlotOff (h : Uplinked none b u) : Uplinked none b (cmdSlotOff c n u).2 := by
  rw [Machine.cmdSlotOff]
  split
  · exact h.enterQuiesce _
  · next hs => exact h.leaveWaitPower hs
  · exact h.cutToSettling
  · exact h

theorem Uplinked.cmdSlotCut (h : Uplinked none b u) : Uplinked none b (cmdSlotCut c n u).2 := by
  rw [Machine.cmdSlotCut]
  split
  · next hs => exact h.leaveWaitPower hs
  iterate 3 exact h.cutToSettling
  · exact h

theorem Uplinked.cmdSlotClear (h : Uplinked none b u) : Uplinked none b (cmdSlotClear n u).2 := by
  rw [Machine.cmdSlotClear]
  split
  · next hs => exact h.steady (steady_updSlot_off (not_engaged (by rw [hs]; decide)))
  · exact h

theorem Uplinked.cmdRescan (h : Uplinked none b u) (target : Nat) : Uplinked none b (cmdRescan c target u).2 := by
  rw [Machine.cmdRescan]
  split
  · dsimp only
    split_ifs
    iterate 2 exact h
    exact h.steady (busOnly_queueBus _ _).steady
  · exact h

/-! ### Rows (R171) -/

theorem steady_repositionWait : Steady u (repositionWait c n u) := by
  rw [repositionWait]
  split
  · exact .of_eq rfl rfl rfl rfl
  · exact .refl u

theorem Uplinked.applySlotRow (h : Uplinked none b u) : Uplinked none b (applySlotRow c n u) := by
  have hv : Uplinked none b (if (u.slot n).state = .empty then
        let was := (u.slot n).enabled
        let u := u.updSlot n (fun x => { x with enabled := rowEnable c n })
        if rowEnable c n && !was && presLLevel c n then enterSeating c n u else u
      else u) := by
    refine .ite (fun hs => ?_) (fun _ => h)
    have hu := h.steady (steady_updSlot_off (n := n) (f := fun x => { x with enabled := rowEnable c n }) (not_engaged (by rw [hs]; decide)))
    refine .ite (fun _ => hu.steady (steady_updSlot_off (not_engaged ?_))) (fun _ => hu)
    rw [updSlot_slot_self]
    exact (by rw [hs]; decide : (u.slot n).state ≠ .on ∧ (u.slot n).state ≠ .quiescing)
  exact ((Uplinked.ite (fun _ => hv.holdSlot) (fun _ => hv)).steady steady_repositionWait).settleAfter

theorem steady_reEstimate (z : Fin 3) : Steady u (reEstimate z u) := .of_eq rfl rfl rfl rfl

theorem steady_enforceFloor (z : Fin 3) : Steady u (enforceFloor c z u) := .ite (.of_eq rfl rfl rfl rfl) (.refl u)

theorem Uplinked.applyLimitRow (h : Uplinked none b u) (z : Fin 3) (old : Nat) : Uplinked none b (applyLimitRow c z old u) :=
  have hv := h.steady (steady_enforceFloor (c := c) z)
  (Uplinked.ite (fun _ => hv) (fun _ => hv.steady (steady_updZone z _))).settleAfter

theorem steady_goStale : Steady u (goStale n u) :=
  ((steady_updSlot rfl rfl rfl).trans (steady_setSlotBit _)).trans (steady_setChassisBit _)

theorem steady_checkAges : Steady u (checkAges c u) :=
  .foldl (fun v n => by split; exacts [.ite steady_goStale (.refl v), .refl v]) _ u

theorem steady_applyThermalRow : Steady u (applyThermalRow c u) := (Steady.foldl (fun _ _ => steady_refreshZoneInput) _ u).trans steady_checkAges

end

/-! ### A part in service -/

/-- The channel table has been built, and the laws hold. -/
structure Live (s : State) : Prop where
  laws : Uplinked none true s.units
  built : s.ctx.sup.built = true

section
variable {s t : State} {u : Units}

theorem Live.sound (h : Live s) : Uplinked none s.ctx.sup.built s.units := by rw [h.built]; exact h.laws

theorem Live.units (h : Live s) (hu : Uplinked none s.ctx.sup.built u) : Live { s with units := u } := ⟨by rw [← h.built]; exact hu, h.built⟩

/-- The rest of the state may change while the table stays built. -/
theorem Live.of_eq (h : Live s) (hu : t.units = s.units) (hb : t.ctx.sup.built = s.ctx.sup.built) : Live t :=
  ⟨by rw [hu]; exact h.laws, hb.trans h.built⟩

theorem Live.ite {p : Prop} [Decidable p] (hs : Live s) (ht : Live t) : Live (if p then s else t) := by split <;> assumption

theorem Live.setSup (h : Live s) {f : Sup → Sup} (hf : (f s.ctx.sup).built = s.ctx.sup.built) : Live (s.setSup f) := h.of_eq rfl hf
theorem Live.setCfg (h : Live s) (f : Cfg → Cfg) : Live (s.setCfg f) := h.of_eq rfl rfl
theorem Live.updLink (h : Live s) (l : Fin 13) (f : Link → Link) : Live (s.updLink l f) := h.of_eq rfl rfl

theorem Live.touch (h : Live s) (r : RecId) : Live (s.touch r) := h.units (h.sound.steady (.of_eq rfl rfl rfl rfl))

theorem Live.settle (h : Live s) : Live (s.act settle) := h.units h.sound.settle

/-! ### Rows (R171, R172) -/

theorem Live.applyRow1 (h : Live s) (old : Ctx) : Live (applyRow1 old s) := by
  rw [Machine.applyRow1]
  have h1 : Live (if hbTimeout s.ctx = hbTimeout old then s else
      s.setSup (fun x => { x with hbTimer := timerOf s.ctx (hbTimeout s.ctx) })) := .ite h (h.setSup rfl)
  exact (Live.ite h1 (h1.setCfg _)).settle

theorem Live.applyRow (h : Live s) (old : Ctx) (r : Fin 25) : Live (applyRow old r s) := by
  rw [Machine.applyRow]
  split
  · exact h.settle
  · split
    · exact h.applyRow1 old
    · split
      · exact h.units h.sound.applySlotRow
      · split
        · split
          · exact h
          · exact h.units (h.sound.applyLimitRow _ _)
        · split
          · exact h.units (h.sound.steady (steady_updZone _ _))
          · split
            · exact h
            · exact h.units (h.sound.steady steady_applyThermalRow)

theorem Live.takeRow (h : Live s) (r : Fin 25) (bs : Row) : Live (takeRow r bs s) := by
  have fail : ∀ reason : Byte, Live ((((s.setCfg (fun g => { g with lastRow := { row := byteOf r.val, seq := bs.getD 14 0, outcome := 2, reason := reason } })).touch
      (.row r)).touch .configAudit).act (fun _ u => setChassisBit .configReject u)) := fun reason =>
    have hf := (((h.setCfg _).touch (.row r)).touch .configAudit)
    hf.units (hf.sound.steady (steady_setChassisBit .configReject))
  rw [Machine.takeRow]
  split
  · exact fail 1
  · exact fail 2
  · exact (((h.setCfg _).touch (.row r)).touch .configAudit).applyRow s.ctx r

/-! ### Manager commands (R153) -/

theorem Live.unitsCmd (h : Live s) {f : Ctx → Units → CmdResult × Units} (hf : Uplinked none s.ctx.sup.built (f s.ctx s.units).2) :
    Live (unitsCmd f s).2 := h.units hf.settleAfter

theorem Live.slotCmd (h : Live s) (kind : Nat) (n : Fin 12) : Live (slotCmd kind n s).2 := by
  rw [Machine.slotCmd]
  split
  · exact h.unitsCmd h.sound.cmdSlotOn
  · split
    · exact h.unitsCmd h.sound.cmdSlotOff
    · split
      · exact h.unitsCmd h.sound.cmdSlotCut
      · exact h.unitsCmd h.sound.cmdSlotClear

theorem Live.cmdClearFailsafe (h : Live s) : Live (cmdClearFailsafe s).2 := by
  rw [Machine.cmdClearFailsafe]
  split
  · exact h
  · split
    · exact h
    · exact Live.settle (h.of_eq rfl rfl)

theorem Live.runCommand (h : Live s) (kind target : Nat) : Live (runCommand kind target s).2 := by
  rw [Machine.runCommand]
  split
  · split
    · exact h.slotCmd _ _
    · exact h
  · split
    · exact h.unitsCmd (h.sound.cmdRescan target)
    · split
      · split
        · exact h
        · exact h.of_eq rfl rfl
      · split
        · exact h.cmdClearFailsafe
        · split
          · exact h.of_eq rfl rfl
          · exact h

theorem Live.takeCommand (h : Live s) (bs : List Byte) : Live (takeCommand bs s) := by
  rw [Machine.takeCommand]
  exact ((h.runCommand _ _).setSup (by rfl)).touch _

/-! ### Record takes (R148 to R151) -/

theorem Live.ownerActs (h : Live s) (t : TakeRec) (bs : List Byte) : Uplinked none s.ctx.sup.built (ownerActs t bs s.ctx s.units).2 := by
  cases t with
  | identity n => exact h.sound.takeIdentity bs
  | power n => exact h.sound.takePower
  | report n => exact h.sound.takeReport
  | claim n => rw [h.built]; exact h.laws.takeClaim
  | answer n => exact h.sound.takeAnswer
  | command => exact h.sound
  | row r => exact h.sound

theorem Live.takeForSlot (h : Live s) (n : Fin 12) (t : TakeRec) (bs : List Byte) : Live (takeForSlot n t bs s) := by
  have hu := (h.ownerActs t bs).settleAfter (c := s.ctx) (u := s.units)
  refine h.units ((hu.steady (steady_updSlot ?_ ?_ ?_)).steady (.of_eq rfl rfl rfl rfl)) <;> cases t <;> rfl

theorem Live.handOver (h : Live s) (t : TakeRec) (bs : List Byte) : Live (handOver t bs s) := by
  cases t with
  | command => exact h.takeCommand bs
  | row r => exact h.takeRow r bs
  | identity n => exact h.takeForSlot n _ bs
  | power n => exact h.takeForSlot n _ bs
  | report n => exact h.takeForSlot n _ bs
  | claim n => exact h.takeForSlot n _ bs
  | answer n => exact h.takeForSlot n _ bs

theorem Live.completeTake (h : Live s) (l : Fin 13) (bs : List Byte) : Live (completeTake l bs s) := by
  rw [Machine.completeTake]
  split
  · exact h
  · next t rest _ =>
    have hl : Live (s.updLink l (fun x => { x with takes := rest })) := h.of_eq rfl rfl
    dsimp only
    split
    · exact hl
    · exact hl.handOver _ bs

theorem Live.runTakes (h : Live s) (l : Fin 13) (fuel : Nat) : Live (runTakes l fuel s) := by
  induction fuel generalizing s with
  | zero => exact h
  | succ fuel ih =>
    rw [Machine.runTakes]
    split
    · exact h
    · split
      · exact ih (h.completeTake l _)
      · exact h.of_eq rfl rfl

theorem Live.markChanged (h : Live s) (rs : List TakeRec) : Live (markChanged rs s) := by
  rw [Machine.markChanged]
  split
  · exact h.setCfg _
  · exact h

theorem Live.commitRecords (h : Live s) (l : Fin 13) (rs : List TakeRec) : Live (commitRecords l rs s) :=
  ((h.markChanged rs).updLink l _).runTakes l _

theorem Live.takeRead (h : Live s) (l : Fin 13) : Live (takeRead l s) := by
  rw [Machine.takeRead]
  split
  · exact h
  · exact (h.completeTake l _).runTakes l _

end

end Sys2Proof.Machine
end

section
/-! PROOFS. Start-up keeps the laws `Uplinked` (R27, R42, R145, R177). Until the channel table is rebuilt it is empty (`Unbuilt`); a cold start
fills no place, and the rebuild of a warm restart takes the lane places one by one (`Rebuilding`), no slot being in CHARGING. -/

namespace Sys2Proof.Machine

section
variable {u v w : Units} {c : Ctx} {n m : Fin 12} {e : Option (Fin 12)} {b : Bool}

/-! ### No slot begins to charge -/

/-- A slot in CHARGING was so before. -/
def NoCharge (u v : Units) : Prop := ∀ n, (v.slot n).state = .charging → (u.slot n).state = .charging

theorem NoCharge.refl (u : Units) : NoCharge u u := fun _ h => h
theorem NoCharge.trans (a : NoCharge u v) (b : NoCharge v w) : NoCharge u w := fun n h => a n (b n h)
theorem NoCharge.ite {p : Prop} [Decidable p] (a : NoCharge u v) (b : NoCharge u w) : NoCharge u (if p then v else w) := by split <;> assumption
theorem NoCharge.foldl {α : Type} {f : Units → α → Units} (h : ∀ u a, NoCharge u (f u a)) (l : List α) (u : Units) : NoCharge u (l.foldl f u) :=
  List.foldlRecOn (motive := NoCharge u) l f (.refl u) (fun v hv a _ => hv.trans (h v a))

theorem Built.noCharge (h : Built u v) : NoCharge u v := fun n hn => by
  obtain ⟨k, hk⟩ := h.slots n
  rw [hk] at hn
  exact hn

theorem noCharge_updSlot {f : Slot → Slot} (h : (f (u.slot n)).state = .charging → (u.slot n).state = .charging) :
    NoCharge u (u.updSlot n f) := fun m hm => by
  rw [updSlot_slot] at hm
  split at hm
  · next e => subst e; exact h hm
  · exact hm

theorem Wired.noCharge (h : Wired u v) : NoCharge u v := fun n hn => by rw [h.slot] at hn; exact hn

theorem noCharge_storeEntry (i : Fin 26) (x : Entry) : NoCharge u (storeEntry i x u) := fun n hn => by rw [storeEntry_slot] at hn; exact hn

theorem noCharge_clearMark : NoCharge u (clearMark c n u) := by
  refine .ite ?_ (.refl u)
  have h1 (l : List (Fin 32)) (v : Units) : NoCharge v (l.foldl (fun u ch => releaseChan c ch u) v) := (wired_releases l).noCharge
  exact .ite (((noCharge_updSlot id).trans (h1 _ _)).trans (noCharge_updSlot id)) (((noCharge_updSlot id).trans (h1 _ _)).trans (noCharge_updSlot id))

theorem noCharge_promoted (i : Fin 26) : NoCharge u (promoted c i u) := by
  rw [promoted]
  split
  · exact .refl u
  · exact NoCharge.trans (.ite (noCharge_updSlot (fun h => by cases h)) (.refl u)) noCharge_clearMark

theorem noCharge_reportEntry (i : Fin 26) : NoCharge u (reportEntry c i u) := (derived_reportEntry i).built.noCharge

theorem noCharge_recheck (l : List (Fin 26)) : NoCharge u (recheck c l u) :=
  .foldl (fun v i => .ite (NoCharge.trans (.ite (.refl v) ((noCharge_storeEntry i _).trans (noCharge_reportEntry i))) (noCharge_promoted i))
    (.refl v)) l u

theorem noCharge_changeEntry (i : Fin 26) (x : Entry) : NoCharge u (changeEntry c i x u) := by
  have hr : ∀ v, NoCharge v (reportChange c i (u.inv.get i) x v) := fun v => .ite (.refl v) (noCharge_reportEntry i)
  exact .ite ((((noCharge_storeEntry i x).trans (noCharge_recheck _)).trans (hr _)).trans (noCharge_recheck _)) ((noCharge_storeEntry i x).trans (hr _))

/-! ### Before the table is built (R27) -/

/-- The channel table is empty, no slot waits, and none is in CHARGING. -/
structure Bare (u : Units) : Prop where
  unwired : Unwired u
  uncharged : ∀ n, (u.slot n).state ≠ .charging

theorem Bare.laws (h : Bare u) : Uplinked e b u := h.unwired.uplinked

theorem Bare.keep (h : Bare u) (hv : Uplinked none false v) (hn : NoCharge u v) : Bare v := ⟨hv.unbuilt rfl, fun n hc => h.uncharged n (hn n hc)⟩

theorem Bare.updSlot (h : Bare u) {f : Slot → Slot} (hf : (f (u.slot n)).state ≠ .charging) : Bare (u.updSlot n f) :=
  h.keep (v := u.updSlot n f) (Unwired.uplinked ⟨h.unwired.1, h.unwired.2⟩) (noCharge_updSlot (fun hc => absurd hc hf))

theorem Bare.state (h : Bare u) {f : Slot → Slot} (hf : ∀ x, (f x).state = x.state) : Bare (u.updSlot n f) :=
  h.updSlot (by rw [hf]; exact h.uncharged n)

theorem Bare.ite {p : Prop} [Decidable p] (hu : Bare u) (hv : Bare v) : Bare (if p then u else v) := by split <;> assumption

theorem Bare.changeEntry (h : Bare u) (hb : c.sup.built = false) (i : Fin 26) (x : Entry) : Bare (changeEntry c i x u) := by
  have hs : Unwired (storeEntry i x u) := by rw [Unwired, storeEntry_upWait, storeEntry_chans]; exact h.unwired
  exact h.keep (by rw [← hb]; exact hs.uplinked.changeEntry) (noCharge_changeEntry i x)

theorem Bare.applyValidation (h : Bare u) (hb : c.sup.built = false) (i : Fin 26) (r : Validation) : Bare (applyValidation c i r u) :=
  h.changeEntry hb i _

theorem Bare.identityResult (h : Bare u) : Bare (identityResult n u).2 := by
  rw [Machine.identityResult]
  split <;> exact h.updSlot nofun

theorem Bare.takeIdentity (h : Bare u) (hb : c.sup.built = false) (bs : List Byte) : Bare (takeIdentity c n bs u).2 := by
  rw [Machine.takeIdentity]
  split
  · exact (h.applyValidation hb _ _).identityResult
  · exact h

theorem Bare.adoptOn (h : Bare u) (hb : c.sup.built = false) (image identity : List Byte) : Bare (adoptOn c n image identity u) := by
  have hv := (h.applyValidation hb (bladePos n) (validateBlade identity)).updSlot (n := n) (f := fun x =>
    { enterOn c x with
      grant := min (max (imageAllowance image) (minPower (Machine.applyValidation c (bladePos n) (validateBlade identity) u) n))
        (maxPower (Machine.applyValidation c (bladePos n) (validateBlade identity) u) n)
      allowance := min (max (imageAllowance image) (minPower (Machine.applyValidation c (bladePos n) (validateBlade identity) u) n))
        (maxPower (Machine.applyValidation c (bladePos n) (validateBlade identity) u) n)
      unvalidated := !bladeValid (Machine.applyValidation c (bladePos n) (validateBlade identity) u) n, stbyEn := true, mainEn := true })
    nofun
  exact ⟨hv.unwired, hv.uncharged⟩

theorem Bare.adoptStandby (h : Bare u) (hb : c.sup.built = false) (id : Option (List Byte)) : Bare (adoptStandby c n id u) := by
  have hu : Bare (u.updSlot n (fun x => { darkSlot x with state := .standby, stbyEn := true })) := h.updSlot nofun
  cases id with
  | some bs => exact (hu.takeIdentity hb bs).state (fun _ => rfl)
  | none => exact hu.changeEntry hb _ _

theorem Bare.settleSlot (h : Bare u) (hb : c.sup.built = false) (id : Option (List Byte)) : Bare (settleSlot n id c u) := by
  have hu : Bare (settleBegun c n u) := ⟨h.unwired, (h.state (n := n) (f := fun x => { x with enabled := rowEnable c n, settled := true })
    (fun _ => rfl)).uncharged⟩
  refine Bare.ite (hu.updSlot nofun) (.ite ?_ ?_)
  · cases id with
    | some bs => exact (hu.applyValidation hb _ _).updSlot nofun
    | none => exact hu.updSlot nofun
  · cases id with
    | some bs => exact .ite (hu.adoptOn hb _ bs) (hu.adoptStandby hb _)
    | none => exact hu.adoptStandby hb none

theorem Bare.of_built (h : Bare u) (hv : Uplinked none false v) (hb : Built u v) : Bare v := h.keep hv hb.noCharge

/-! ### The channel table is rebuilt (R145) -/

/-- The rebuild under way, with these lane places to come. -/
structure Rebuilding (rest : List (Fin 12 × Fin 4)) (u : Units) : Prop where
  laws : Uplinked none true u
  unlisted : u.upWait = []
  uncharged : ∀ n, (u.slot n).state ≠ .charging
  empty : ∀ p ∈ rest, ∀ ch, (u.chans.get ch).held ≠ some p

section
variable {rest : List (Fin 12 × Fin 4)} {p : Fin 12 × Fin 4} {k : Fin 4} {ch : Fin 32}

theorem engaged_of_powered {x : Slot} (h : powered x = true) (hc : x.state ≠ .charging) : Engaged x := by
  cases hs : x.state <;> simp_all [powered, Engaged]

/-- A step at one lane place fills no other. -/
theorem Rebuilding.next (h : Rebuilding (p :: rest) u) (hp : p ∉ rest) (hv : Uplinked none true v) (hw : Wired u v) (hl : v.upWait = u.upWait)
    (hh : ∀ ch, (v.chans.get ch).held = (u.chans.get ch).held ∨ (v.chans.get ch).held = some p) : Rebuilding rest v where
  laws := hv
  unlisted := hl.trans h.unlisted
  uncharged n := by rw [hw.slot]; exact h.uncharged n
  empty q hq ch := by
    rcases hh ch with e | e
    · rw [e]; exact h.empty q (List.mem_cons_of_mem p hq) ch
    · rw [e]; rintro ⟨⟩; exact hp hq

/-- What `keepChan` makes of the channel. -/
theorem Uplinked.keepChan (h : Rebuilding ((n, k) :: rest) u) (huse : (u.chans.get ch).inUse = true) (recorded : Nat) :
    Uplinked none true (keepChan c n k ch recorded u) := by
  have hempty := h.empty (n, k) List.mem_cons_self
  rw [Machine.keepChan]
  refine .ite (fun hp => ?_) (fun _ => h.laws.hold rfl rfl rfl huse hempty nofun)
  simp only [Bool.and_eq_true, decide_eq_true_eq] at hp
  obtain ⟨⟨hpow, hk⟩, -⟩ := hp
  have hn : Engaged (u.slot n) := engaged_of_powered hpow (h.uncharged n)
  have hact : Engaged (u.slot n) ∧ k.val < laneLimit u n ∧ (n ∈ u.upWait → (none : Option (Fin 12)) = some n) :=
    ⟨hn, hk, fun hw => by rw [h.unlisted] at hw; cases hw⟩
  refine .ite (fun _ => ?_) (fun _ => h.laws.hold rfl rfl ?_ huse hempty (fun _ => hact))
  · have hv : Uplinked none true (updChan ch (fun x => { x with state := .switching, held := some (n, k), cmd := .connect }) u) :=
      h.laws.hold rfl rfl rfl huse hempty (fun _ => hact)
    exact hv.steady (steady_queueCmd _)
  · cases (u.ports.get (portOf ch)).state == .up <;> rfl

theorem Uplinked.reconnect (h : Uplinked e b u) : Uplinked e b (reconnect c ch u) := by
  rw [Machine.reconnect]
  split
  iterate 2
    next hs hheld =>
      exact Uplinked.steady (h.updChan_state (f := fun x => { x with state := .switching, cmd := .connect }) (by rw [hs]; decide) rfl
        (by simp [isHeld, isActive, hs]) (by simp [isActive, hs]) rfl) (steady_queueCmd _)
  · exact h

theorem updChan_held {f : Chan → Chan} {q : Fin 12 × Fin 4} (hf : (f (u.chans.get ch)).held = some q) (j : Fin 32) :
    ((updChan ch f u).chans.get j).held = (u.chans.get j).held ∨ ((updChan ch f u).chans.get j).held = some q := by
  rw [updChan_chans]
  split
  · next e => subst e; exact .inr hf
  · exact .inl rfl

theorem keepChan_held (recorded : Nat) (j : Fin 32) : ((keepChan c n k ch recorded u).chans.get j).held = (u.chans.get j).held
    ∨ ((keepChan c n k ch recorded u).chans.get j).held = some (n, k) := by
  rw [keepChan]
  split
  · split
    · rw [queueCmd_chans]; exact updChan_held rfl j
    · exact updChan_held rfl j
  · exact updChan_held rfl j

theorem reconnect_held (j : Fin 32) : ((reconnect c ch u).chans.get j).held = (u.chans.get j).held := by
  rw [reconnect]
  split
  iterate 2
    rw [queueCmd_chans, updChan_chans]
    split <;> rfl
  · rfl

theorem keepChan_upWait (recorded : Nat) : (keepChan c n k ch recorded u).upWait = u.upWait := by
  rw [keepChan]
  split
  · split
    · exact (steady_queueCmd _).upWait
    · rfl
  · rfl

theorem reconnect_upWait : (reconnect c ch u).upWait = u.upWait := by
  rw [reconnect]
  split
  iterate 2 exact (steady_queueCmd _).upWait
  · rfl

theorem Rebuilding.rebuildLane (h : Rebuilding ((n, k) :: rest) u) (hp : (n, k) ∉ rest) : Rebuilding rest (rebuildLane c u n k) := by
  have same : Rebuilding rest u := h.next hp h.laws (.refl u) rfl (fun _ => .inl rfl)
  rw [Machine.rebuildLane]
  split
  · exact same
  · next ch recorded _ =>
    split
    · exact same
    · next huse =>
      split
      · split
        · exact same
        · exact h.next hp h.laws.reconnect (wired_reconnect ch) reconnect_upWait (fun j => .inl (reconnect_held j))
      · exact h.next hp (Uplinked.keepChan h (by simpa using huse) recorded) (wired_keepChan k ch recorded) (keepChan_upWait recorded)
          (keepChan_held recorded)

/-- The lane places one by one. -/
theorem Rebuilding.lanes (h : Rebuilding rest u) (hr : rest.Nodup) :
    Rebuilding [] (rest.foldl (fun u p => Machine.rebuildLane c u p.1 p.2) u) := by
  induction rest generalizing u with
  | nil => exact h
  | cons p rest ih =>
    obtain ⟨hp, hr⟩ := List.nodup_cons.mp hr
    exact ih (h.rebuildLane hp) hr

end

/-- All lane places, slot by slot. -/
def lanePlaces : List (Fin 12 × Fin 4) := (indices 12).flatMap (fun n => (indices 4).map (fun k => (n, k)))

theorem lanePlaces_nodup : lanePlaces.Nodup := (List.nodup_finRange 12).product (List.nodup_finRange 4)

theorem foldl_lanePlaces (f : Units → Fin 12 → Fin 4 → Units) (u : Units) :
    (indices 12).foldl (fun u n => (indices 4).foldl (fun u k => f u n k) u) u = lanePlaces.foldl (fun u p => f u p.1 p.2) u := by
  simp only [lanePlaces, List.foldl_flatMap, List.foldl_map]

/-- The places of the ports come into use, all of them empty. -/
theorem portsComeIntoUse_held (h : ∀ ch, (u.chans.get ch).held = none) (ch : Fin 32) :
    (((indices 4).foldl (fun u p => portComesIntoUse p u) u).chans.get ch).held = none := by
  refine List.foldlRecOn (motive := fun v : Units => ∀ ch, (v.chans.get ch).held = none) _ _ h (fun v hv p _ => ?_) ch
  refine List.foldlRecOn (motive := fun v : Units => ∀ ch, (v.chans.get ch).held = none) _ _ hv (fun w hw j _ ch => ?_)
  split
  · rw [putChan_chans]; split
    · rfl
    · exact hw ch
  · exact hw ch

theorem portComesIntoUse_upWait (p : Fin 4) : (portComesIntoUse p u).upWait = u.upWait :=
  List.foldlRecOn (motive := fun v : Units => v.upWait = u.upWait) _ _ rfl (fun v hv j _ => by split <;> exact hv)

theorem Bare.rebuilding (h : Bare u) (rest : List (Fin 12 × Fin 4)) :
    Rebuilding rest ((indices 4).foldl (fun u p => portComesIntoUse p u) u) where
  laws := (h.laws (b := true)).foldl (fun _ p hv => hv.portComesIntoUse p) _
  unlisted := List.foldlRecOn (motive := fun v : Units => v.upWait = []) _ _ h.unwired.1 (fun _ hv p _ => (portComesIntoUse_upWait p).trans hv)
  uncharged n := by rw [(Wired.foldl (fun _ p => wired_portComesIntoUse p) _ _).slot]; exact h.uncharged n
  empty p _ ch := by rw [portsComeIntoUse_held (fun j => by rw [h.unwired.2 j]; rfl)]; nofun

/-- The claims are the active channels, while no slot waits. -/
theorem Uplinked.claimsFollow (h : Uplinked none b u) (hl : u.upWait = []) : Uplinked none b ((indices 12).foldl (fun u n =>
    if powered (u.slot n) then u.updSlot n (fun x => { x with claimed := activeCount u n, group := .any }) else u) u) := by
  refine (List.foldlRecOn (motive := fun v : Units => Uplinked none b v ∧ v.upWait = []) _ _ ⟨h, hl⟩ (fun v hv n _ => ?_)).1
  split
  · refine ⟨((hv.1.serving n).updSlot_claim rfl rfl).served (fun hn => ?_), hv.2⟩
    rw [updSlot_upWait, hv.2] at hn
    cases hn
  · exact hv

theorem Bare.rebuildChannels (h : Bare u) : Uplinked none true (rebuildChannels c u) := by
  have hlanes := (h.rebuilding lanePlaces).lanes (c := c) lanePlaces_nodup
  rw [← foldl_lanePlaces (fun u n k => rebuildLane c u n k)] at hlanes
  exact (hlanes.laws.claimsFollow hlanes.unlisted).steady (.foldl (fun _ p => steady_updPort p _) _ _)

end

/-! ### The end of start-up (R177) -/

section
variable {s : State} {u : Units} {c : Ctx} {b : Bool}

theorem Uplinked.slotConditions (h : Uplinked none b u) (n : Fin 12) : Uplinked none b (slotConditions c u n) := by
  let u1 := if railFltLevel c n then Machine.settleAfter c u (Machine.railFaults c n u) else u
  let u2 := if !pgoodLevel c n then Machine.settleAfter c u1 (Machine.pgoodFalls c n u1) else u1
  let u3 := if pgoodLevel c n && !(u2.slot n).mainEn then Machine.pgoodRises c n u2 else u2
  let u4 := if held c n then Machine.settleAfter c u3 (Machine.holdSlot c n u3) else u3
  have h1 : Uplinked none b u1 := .ite (fun _ => h.railFaults.settleAfter) (fun _ => h)
  have h2 : Uplinked none b u2 := .ite (fun _ => h1.pgoodFalls.settleAfter) (fun _ => h1)
  have h3 : Uplinked none b u3 := .ite (fun _ => h2.pgoodRises) (fun _ => h2)
  have h4 : Uplinked none b u4 := .ite (fun _ => h3.holdSlot.settleAfter) (fun _ => h3)
  have h5 : Uplinked none b (if !leverClosed c n && (u4.slot n).state == .on then Machine.settleAfter c u4 (Machine.leverOpened c n u4) else u4) :=
    .ite (fun _ => h4.leverOpened.settleAfter) (fun _ => h4)
  exact h5

theorem steady_startUnitTimers : Steady u (startUnitTimers c u) where
  chans := rfl
  upWait := rfl
  slots m _ := by
    have hs : (startUnitTimers c u).slot m = startSlotTimers c (u.slot m) := startUnitTimers_slot m
    have hl : laneLimit (startUnitTimers c u) m = laneLimit u m := laneLimit_congr rfl (by rw [hs]; rfl)
    rw [hs, hl]
    exact ⟨rfl, rfl, le_rfl⟩

theorem Live.enterFailsafe (h : Live s) : Live (enterFailsafe s) := by
  have h1 : Live (s.setSup (fun x => { x with mode := .failsafe })) := h.setSup rfl
  have h2 : Live ((s.setSup (fun x => { x with mode := .failsafe })).act (fun _ u => setChassisBit .failsafe u)) :=
    h1.units (h1.sound.steady (steady_setChassisBit .failsafe))
  exact h2.units (h2.sound.foldl (fun _ z hv => hv.steady (steady_enforceFloor z)) _).settle

theorem Live.leaveStartup (h : Live s) : Live (leaveStartup s) := by
  have hstart : ∀ c : Ctx, c.sup.built = s.ctx.sup.built → Live { s with ctx := c, units := startUnitTimers c s.units } := fun c hc =>
    ⟨h.laws.steady steady_startUnitTimers, hc.trans h.built⟩
  have hopen : ∀ t, Live t → Live (openPorts t) := fun t ht => ht.of_eq rfl rfl
  rw [Machine.leaveStartup]
  exact hopen _ (.ite (Live.settle (hstart _ rfl)) (Live.enterFailsafe (hstart _ rfl)))

/-- Before the table is built: it is empty, and no slot is in CHARGING. -/
structure Unbuilt (s : State) : Prop where
  bare : Bare s.units
  built : s.ctx.sup.built = false

theorem Live.uplinkSound (h : Live s) : UplinkSound s := uplinkSound_iff.mpr h.sound
theorem Unbuilt.uplinkSound (h : Unbuilt s) : UplinkSound s := uplinkSound_iff.mpr h.bare.laws

theorem Live.of_act {f : Ctx → Units → Units} (hu : Uplinked none true (f s.ctx s.units)) (hb : s.ctx.sup.built = true) : Live (s.act f) :=
  ⟨hu, hb⟩

theorem Unbuilt.finishCold (h : Unbuilt s) : Live (finishCold s) := by
  have hs : ∀ c : Ctx, Uplinked none true (Machine.settle c (placeSlots c (sendClear c s.units))) := fun c => by
    have hw : Unwired (placeSlots c (sendClear c s.units)) := by rw [placeSlots_rest]; exact h.bare.unwired
    exact hw.uplinked.settle
  exact Live.leaveStartup (Live.of_act (hs _) rfl)

theorem Unbuilt.finishWarm (h : Unbuilt s) : Live (finishWarm s) := by
  have hs : ∀ c : Ctx, Uplinked none true ((indices 12).foldl (slotConditions c) (Machine.settle c (rebuildChannels s.ctx s.units))) := fun c =>
    Uplinked.foldl (f := slotConditions c) h.bare.rebuildChannels.settle (fun _ n hv => hv.slotConditions n) _
  exact Live.leaveStartup (Live.of_act (hs _) rfl)

theorem Unbuilt.settleSlot (h : Unbuilt s) (n : Fin 12) (id : Option (List Byte)) : Unbuilt (s.act (settleSlot n id)) :=
  ⟨h.bare.settleSlot h.built id, h.built⟩

theorem Unbuilt.adoptFrom (h : Unbuilt s) (fuel k : Nat) : UplinkSound (adoptFrom fuel k s) := by
  induction fuel generalizing s k with
  | zero => exact h.finishWarm.uplinkSound
  | succ fuel ih =>
    rw [Machine.adoptFrom]
    split
    · split
      · exact Unbuilt.uplinkSound ⟨h.bare, h.built⟩
      · exact ih (h.settleSlot _ none) _
    · exact h.finishWarm.uplinkSound

theorem Unbuilt.adoptRead (h : Unbuilt s) (n : Fin 12) : UplinkSound (adoptRead n s) := (h.settleSlot n _).adoptFrom _ _

theorem Bare.deriveAll (h : Bare u) (hb : c.sup.built = false) (image : Fin 26 → List Byte) (warm : Bool) :
    Bare (deriveAll c (buildInventory image warm c u)) := by
  refine h.of_built ?_ ((built_buildInventory image warm).trans derived_deriveAll.built)
  rw [← hb]
  have hinv : Uplinked none c.sup.built (buildInventory image warm c u) :=
    (h.laws (e := none) (b := c.sup.built)).foldl (fun _ k hv => .ite (fun _ => hv.buildWarm k _ _ _) (fun _ => hv.buildCold k)) _
  have hsup := hinv.foldl (f := fun u k => deriveSupply c k u) (fun _ k hv => hv.steady (steady_deriveSupply k)) (indices 4)
  have hfan := hsup.foldl (f := fun u k => deriveFan c k u) (fun _ k hv => hv.steady (steady_deriveFan k)) (indices 6)
  exact hfan.foldl (f := fun u p => derivePort c p u) (fun _ p hv => hv.derivePort p) (indices 4)

theorem Unbuilt.act (h : Unbuilt s) {f : Ctx → Units → Units} (hf : Bare (f s.ctx s.units)) : Unbuilt (s.act f) := ⟨hf, h.built⟩
theorem Unbuilt.setCfg (h : Unbuilt s) (f : Cfg → Cfg) : Unbuilt (s.setCfg f) := ⟨h.bare, h.built⟩
theorem Unbuilt.setSup (h : Unbuilt s) {f : Sup → Sup} (hf : (f s.ctx.sup).built = s.ctx.sup.built) : Unbuilt (s.setSup f) :=
  ⟨h.bare, hf.trans h.built⟩
theorem Unbuilt.setPhase (h : Unbuilt s) (p : Phase) : Unbuilt (s.setSup (fun x => { x with phase := p })) := h.setSup rfl
theorem Unbuilt.setPwm (h : Unbuilt s) (p : Pwm) : Unbuilt { s with pwm := p } := ⟨h.bare, h.built⟩

/-- Steps 4 and 5: inputs sampled, inventory and records built. -/
def builtState (image : Fin 26 → List Byte) (s : State) : State :=
  let s := { s with ctx := { s.ctx with pins := samplePins s.ctx.pins } }
  (s.act (buildInventory image (!s.ctx.sup.cold && s.ctx.sup.memOk))).act Machine.deriveAll

theorem buildAll_eq (image : Fin 26 → List Byte) (s : State) : buildAll image s =
    if !s.ctx.sup.cold then adoptFrom 12 0
      ({ builtState image s with pwm := restGens (builtState image s).units s.pwm }.setSup (fun x => { x with phase := .adopt 0 }))
    else finishCold { builtState image s with pwm := restGens (builtState image s).units s.pwm } := rfl

theorem Unbuilt.update (h : Unbuilt s) {c : Ctx} (hc : c.sup.built = s.ctx.sup.built) (hu : Bare u) : Unbuilt { s with ctx := c, units := u } :=
  ⟨hu, hc.trans h.built⟩

theorem Unbuilt.builtState (h : Unbuilt s) (image : Fin 26 → List Byte) : Unbuilt (builtState image s) := by
  have hd := h.bare.deriveAll (c := { s.ctx with pins := samplePins s.ctx.pins }) h.built image (!s.ctx.sup.cold && s.ctx.sup.memOk)
  dsimp only [Machine.builtState, State.act]
  exact h.update rfl hd

theorem Unbuilt.buildAll (h : Unbuilt s) (image : Fin 26 → List Byte) : UplinkSound (buildAll image s) := by
  have hb := (h.builtState image).setPwm (restGens (Machine.builtState image s).units s.pwm)
  rw [buildAll_eq]
  split
  · exact (hb.setPhase (.adopt 0)).adoptFrom 12 0
  · exact hb.finishCold.uplinkSound

/-! ### Steps 1 to 3 -/

theorem steady_touchOwned : Steady u (touchOwned u) := .of_eq rfl rfl rfl rfl

theorem steady_setRestart : Steady u (setRestart u) :=
  (steady_setChassisBit .restart).trans (.foldl (f := fun u n => setSlotBit n .restart u) (fun _ n => steady_setSlotBit (n := n) .restart) _ _)

theorem Bare.setRestart (h : Bare u) : Bare (touchOwned (setRestart u)) :=
  h.of_built ((h.laws (e := none)).steady (steady_setRestart.trans steady_touchOwned)) (setRestart_derived.trans touchOwned_derived).built

theorem Bare.takeStored (h : Bare u) (s : State) (c : Ctx) : Bare (takeStored s c u) where
  unwired := h.unwired
  uncharged n := by
    cases hc : c.sup.cold with
    | true => rw [takeStored_slot_cold hc]; exact h.uncharged n
    | false => rw [takeStored_slot_warm hc]; exact h.uncharged n

theorem Unbuilt.recordsRead (h : Unbuilt s) : UplinkSound (recordsRead s) := by
  rw [Machine.recordsRead]
  exact Unbuilt.buildAll (h.update (by rfl) (h.bare.takeStored s s.ctx).setRestart) _

theorem Unbuilt.setReads (h : Unbuilt s) (l : List IRead) : Unbuilt { s with reads := l } := ⟨h.bare, h.built⟩

theorem Unbuilt.touch (h : Unbuilt s) (r : RecId) : Unbuilt (s.touch r) := h.update rfl ⟨h.bare.unwired, h.bare.uncharged⟩

theorem Unbuilt.touchFaults (h : Unbuilt s) : Unbuilt (touchFaults s) := by
  refine List.foldlRecOn (motive := Unbuilt) (indices 25) _ h (fun t ht r _ => ?_)
  split
  · exact ht.touch _
  · exact ht

theorem Unbuilt.rowsRead (h : Unbuilt s) : UplinkSound (rowsRead s) := by
  rw [Machine.rowsRead]
  have ht := (h.setCfg (loadRows (fun r => stored s (.row r)))).touchFaults
  have hp : Unbuilt (generatorsStart (Machine.touchFaults (s.setCfg (loadRows (fun r => stored s (.row r)))))) := ht.setPwm _
  exact ((hp.setPhase .records).setReads _).uplinkSound

theorem Unbuilt.deviceIdEnds (h : Unbuilt s) (answered : Bool) : UplinkSound (deviceIdEnds answered s) := by
  have hw : Unbuilt { s.setCfg loadDefaults with wq := [] } := ⟨h.bare, h.built⟩
  rw [Machine.deviceIdEnds]
  split
  · exact Unbuilt.uplinkSound (Unbuilt.setReads (h.setSup (by rfl)) _)
  · have hg : Unbuilt (generatorsStart { s.setCfg loadDefaults with wq := [] }) := hw.setPwm _
    have hm := hg.setSup (f := fun x => { x with memOk := false, phase := .records }) rfl
    exact (hm.act (f := fun _ u => touchOwned (setRestart u)) hm.bare.setRestart).buildAll (fun _ => [])

/-! ### Restarts (R177) -/

theorem unwired_reset : Unwired Units.reset := ⟨rfl, fun ch => replicate_get _ ch⟩

theorem unbuilt_beginCold (cause : RestartCause) : Unbuilt (beginCold cause s) where
  bare := ⟨unwired_reset, fun n => by rw [show ((beginCold cause s).units.slot n) = Slot.reset from replicate_get _ n]; nofun⟩
  built := rfl

theorem unbuilt_beginWarm (cause : RestartCause) : Unbuilt (beginWarm cause s) where
  bare := ⟨unwired_reset, fun n => by rw [beginWarm_slot]; nofun⟩
  built := rfl

end

end Sys2Proof.Machine
end

section
/-! PROOFS. Every command keeps the laws of the channel table and of the uplink wait list: the unit that takes the event keeps them
(`UplinkSound.act`), the budget unit after it does too (`UplinkSound.settled`), and a restart or the end of a read hands over to start-up or
to a part in service (R136, R149, R177). -/

namespace Sys2Proof.Machine

section
variable {u v : Units} {c : Ctx} {n : Fin 12} {e : Option (Fin 12)} {b : Bool}

/-! ### Units that the laws do not read -/

theorem steady_zoneUpdate (z : Fin 3) : Steady u (zoneUpdate c z u) :=
  ((steady_updZone z _).trans (steady_updZone z _)).trans (steady_reEstimate z)

theorem steady_closeGate (k : Fin 6) : Steady u (closeGate c k u) := by
  rw [closeGate]
  have hv : ∀ x : Fan, Steady u (u.updFan k (fun _ => x)) := fun _ => steady_updFan k _
  have hbit : ∀ (p : Bool) (v : Units), Steady v (if p then setChassisBit .fanFault v else v) := fun _ v => .ite (steady_setChassisBit _) (.refl v)
  exact .ite ((hv _).trans (hbit _ _)) (((hv _).trans (hbit _ _)).trans (steady_deriveFan k))

theorem steady_gates (t : Timer) (z : Vector Zone 3) : Steady u { u with gateTimer := t, zones := z } := .of_eq rfl rfl rfl rfl

theorem steady_closeGates : Steady u (closeGates c u) := by
  rw [closeGates]
  exact (Steady.foldl (fun _ k => steady_closeGate k) _ u).trans (steady_gates _ _)

theorem steady_tachCount (k : Fin 6) : Steady u (tachCount k u) := .ite (steady_updFan k _) (.refl u)

theorem steady_compareZone (z : Fin 3) (x : Bool) : Steady u (compareZone c z x u) := by
  rw [compareZone]
  exact .ite ((steady_updZone z _).trans (steady_setChassisBit _)) (steady_updZone z _)

theorem steady_sampleZone (z : Fin 3) : Steady u (sampleZone c z u) := by
  rw [sampleZone]
  split
  · exact steady_updZone z _
  iterate 3 exact ((steady_updZone z _).trans (steady_compareZone z _)).trans (steady_updZone z _)

theorem steady_sensors (x : Vector Sensor 4) : Steady u { u with sensors := x } := .of_eq rfl rfl rfl rfl

theorem steady_pollEnds (value : Option (BitVec 8)) : Steady u (pollEnds value u) := by
  rw [pollEnds]
  split
  · refine Steady.trans ?_ (busOnly_endBus _).steady
    exact .ite ((steady_sensors _).trans (steady_setChassisBit _)) (steady_sensors _)
  · exact .refl u

theorem steady_pollTimer (t : Timer) : Steady u { u with pollTimer := t } := .of_eq rfl rfl rfl rfl

theorem steady_pollSensors : Steady u (pollSensors c u) := (steady_pollTimer _).trans (busOnly_pollSensors c u).steady

theorem steady_linkErr (x : Vector Nat 13) : Steady u { u with linkErr := x } := .of_eq rfl rfl rfl rfl

theorem steady_linkError (l : Fin 13) : Steady u (linkError l u) := by
  rw [linkError]
  split
  · exact (steady_linkErr _).trans (steady_setSlotBit _)
  · exact (steady_linkErr _).trans (steady_setChassisBit _)

theorem steady_clearWord (l : Fin 13) (a : Nat) (data : List Byte) : Steady u (clearWord l a data u) := by
  rw [clearWord]
  split <;> exact .of_eq rfl rfl rfl rfl

theorem steady_convert (k : Nat) : Steady u (convert n k c u) := by
  rw [convert]
  have hturn : Steady u { u with senseNext := n + 1 } := .of_eq rfl rfl rfl rfl
  refine .ite (.ite (hturn.trans (steady_updSlot ?_ ?_ ?_)) hturn) (.refl u) <;> rw [watchCompare_eq]

/-! ### Slot events -/

theorem Uplinked.leverCloses (h : Uplinked none b u) : Uplinked none b (leverCloses c n u) := by
  rw [Machine.leverCloses]
  split
  · exact h.steady (steady_updSlot rfl rfl rfl)
  · next hs => exact .ite (fun _ => h.steady (steady_updSlot_off (not_engaged (by rw [hs]; decide)))) (fun _ => h)
  · exact h

theorem Uplinked.graceEnds (h : Uplinked none b u) : Uplinked none b (graceEnds c n u) := by
  rw [Machine.graceEnds]
  split
  · exact (h.steady (steady_updSlot rfl rfl rfl)).steady (steady_setSlotBit _)
  · exact h.cutToFault _
  · exact h

theorem Uplinked.assertLine (h : Uplinked none b u) (k : Fin 4) : Uplinked none b (assertLine c k u) :=
  h.foldl (fun _ _ hv => .ite (fun _ => hv.holdSlot) (fun _ => hv)) _

end

/-! ### States -/

section
variable {s t : State} {f : Ctx → Units → Units}

theorem UplinkSound.laws (h : UplinkSound s) : Uplinked none s.ctx.sup.built s.units := uplinkSound_iff.mp h

/-- Units that keep the laws act. -/
theorem UplinkSound.act (hf : Uplinked none s.ctx.sup.built (f s.ctx s.units)) : UplinkSound (s.act f) := uplinkSound_iff.mpr hf

/-- The budget unit follows. -/
theorem UplinkSound.settled (hf : Uplinked none s.ctx.sup.built (f s.ctx s.units)) : UplinkSound (actAndSettle f s) :=
  uplinkSound_iff.mpr hf.settleAfter

/-- Parts of the state that the laws do not read have changed. -/
theorem UplinkSound.of_eq (h : UplinkSound s) (hu : t.units = s.units) (hb : t.ctx.sup.built = s.ctx.sup.built) : UplinkSound t := by
  rw [uplinkSound_iff, hu, hb]; exact h.laws

theorem UplinkSound.inContext (h : UplinkSound s) {c : Ctx} (hc : c.sup = s.ctx.sup) : UplinkSound { s with ctx := c } :=
  h.of_eq rfl (by rw [hc])

theorem UplinkSound.finish (h : UplinkSound t) (s : State) : UplinkSound (finish s t) :=
  uplinkSound_iff.mpr (h.laws.steady (.of_eq rfl rfl rfl rfl))

/-- An event at its deadline. -/
theorem UplinkSound.atTimer {w : Timer} {f : State → State} (h : UplinkSound s)
    (hf : ∀ d, w = some d → ∀ t : State, UplinkSound t → t.units = s.units → t.ctx.sup = s.ctx.sup → UplinkSound (f t)) :
    UplinkSound (atTimer w f s) := by
  cases w with
  | none => exact h
  | some d => exact hf d rfl _ (h.inContext rfl) rfl rfl

theorem debounced_sup {p : Pin} {level : Bool} {c c' : Ctx} (h : debounced c p level = some c') : c'.sup = c.sup := by
  rw [debounced] at h
  dsimp only at h
  split at h
  · split at h
    · cases h; rfl
    · cases h
  · cases h

/-- A debounced event. -/
theorem UplinkSound.onPin {p : Pin} {level : Bool} {f : State → State} (h : UplinkSound s)
    (hf : ∀ t : State, UplinkSound t → t.units = s.units → UplinkSound (f t)) : UplinkSound (onPin p level f s) := by
  rw [Machine.onPin]
  split
  · next c hc => exact hf _ (h.inContext (debounced_sup hc)) rfl
  · exact h

theorem UplinkSound.slotAct {n : Fin 12} (h : UplinkSound s) (hf : Uplinked none s.ctx.sup.built (f s.ctx s.units)) :
    UplinkSound (slotAct n f s) := by
  rw [Machine.slotAct]
  split
  · exact .act hf
  · exact h

theorem UplinkSound.slotEvent {n : Fin 12} (h : UplinkSound s) (hf : Uplinked none s.ctx.sup.built (f s.ctx s.units)) :
    UplinkSound (slotEvent n f s) := by
  rw [Machine.slotEvent]
  split
  · exact .settled hf
  · exact h

/-! ### Where start-up stands -/

/-- The part is in service (R177). -/
theorem StartSound.live (h : StartSound s) (hu : UplinkSound s) (hp : s.ctx.sup.phase = .done) : Live s := by
  have hb := h.built.mpr hp
  exact ⟨by rw [← hb]; exact hu.laws, hb⟩

theorem StartSound.unbuilt (h : StartSound s) (hu : UplinkSound s) (hp : s.ctx.sup.phase ≠ .done) : Unbuilt s := by
  have hb : s.ctx.sup.built = false := by
    rw [← Bool.not_eq_true, h.built]; exact hp
  exact ⟨⟨hu.laws.unbuilt hb, fun n => (h.noGrants hp n).2⟩, hb⟩

/-- A link with a request or a take is one of a part in service. -/
theorem StartSound.done_of_link (h : StartSound s) (l : Fin 13) (hl : (s.links.get l).fifo ≠ [] ∨ (s.links.get l).takes ≠ []) :
    s.ctx.sup.phase = .done := by
  by_contra hp
  obtain ⟨-, hfifo, htakes⟩ := h.links hp l
  exact hl.elim (fun hn => hn hfifo) (fun hn => hn htakes)

/-- An internal read of a part in service: for a take or for the audit (R149, R174). -/
def servesPart : IRead → Bool
  | .take _ | .audit _ => true
  | _ => false

theorem PhaseReads.serves {p : Phase} {rs : List IRead} {r : IRead} (h : PhaseReads p rs) (hr : r ∈ rs) : servesPart r = true ↔ p = .done := by
  cases p with
  | deviceId => rw [show rs = [] from h] at hr; cases hr
  | rows =>
    obtain ⟨pre, a, len, rfl, hpre⟩ := h
    rcases List.mem_append.mp hr with hr | hr
    · obtain ⟨a, len, rfl⟩ := hpre r hr; simp [servesPart]
    · rw [List.mem_singleton.mp hr]; simp [servesPart]
  | records =>
    obtain ⟨pre, a, len, rfl, hpre⟩ := h
    rcases List.mem_append.mp hr with hr | hr
    · obtain ⟨a, len, rfl⟩ := hpre r hr; simp [servesPart]
    · rw [List.mem_singleton.mp hr]; simp [servesPart]
  | adopt n =>
    rw [show rs = [.adopt n] from h, List.mem_singleton] at hr
    rw [hr]; simp [servesPart]
  | done => rcases h r hr with ⟨l, rfl⟩ | ⟨row, rfl⟩ <;> simp [servesPart]

end

end Sys2Proof.Machine
end

section
/-! PROOFS. The laws of the channel table and of the uplink wait list through each command (R130, R132, R136, R140). -/

namespace Sys2Proof.Machine

/-- A next state keeps the laws. -/
def NextSound (o : Host.Outcome State Fault Refusal) : Prop := ∀ t, o = .next t → UplinkSound t

section
variable {s t : State}

theorem nextSound_next (h : UplinkSound t) : NextSound (.next t) := fun _ e => by cases e; exact h

theorem nextSound_done (h : UplinkSound t) : NextSound (done s t) := nextSound_next (h.finish s)

/-! ### Reads, writes and start-up -/

theorem UplinkSound.deviceId (h : UplinkSound s) (hs : StartSound s) (answered : Bool) :
    UplinkSound (if s.ctx.sup.phase = .deviceId then deviceIdEnds answered s else s) := by
  split
  · next hp => exact (hs.unbuilt h (by rw [hp]; decide)).deviceIdEnds answered
  · exact h

theorem Live.auditRead (h : Live s) (r : Fin 25) (bs : List Byte) : UplinkSound (auditRead r bs s) := by
  have hj : Live (judgeRow r bs s) := .ite h (.ite h ((h.setCfg _).touch _))
  rw [Machine.auditRead, nextAudit]
  generalize judgeRow r bs s = t at hj ⊢
  split
  · exact hj.uplinkSound.of_eq rfl rfl
  · exact .act (hj.sound.steady (steady_setChassisBit .auditDone))

theorem UplinkSound.completeInternal (h : UplinkSound s) (hs : StartSound s) : UplinkSound (completeInternal s) := by
  rw [Machine.completeInternal]
  split
  · next r rest _ hr =>
    have hserves := hs.reads.serves (r := r) (by rw [hr]; exact List.mem_cons_self)
    have hv : UplinkSound { s with reads := rest, port := none } := h.of_eq rfl rfl
    have live (hp : servesPart r = true) : Live { s with reads := rest, port := none } := (hs.live h (hserves.mp hp)).of_eq rfl rfl
    have unbuilt (hp : servesPart r = false) : Unbuilt { s with reads := rest, port := none } :=
      have hu := hs.unbuilt h (fun e => by rw [hserves.mpr e] at hp; cases hp)
      ⟨hu.bare, hu.built⟩
    cases r with
    | rows a len last => cases last; exacts [hv, (unbuilt rfl).rowsRead]
    | records a len last => cases last; exacts [hv, (unbuilt rfl).recordsRead]
    | adopt n => exact (unbuilt rfl).adoptRead n
    | take l => exact ((live rfl).takeRead l).uplinkSound
    | audit row => exact (live rfl).auditRead row _
  · exact h.of_eq rfl rfl
  · exact h

theorem headOf_fifo {l : Fin 13} {r : Request} (h : headOf s l = some r) : (s.links.get l).fifo ≠ [] := fun e => by
  rw [headOf, e] at h; cases h

/-- An admissible write is one of a part in service. -/
theorem Live.of_admissible (h : UplinkSound s) (hs : StartSound s) {l : Fin 13} {k : WriteClass} {x : Request × Nat}
    (ha : admissible s l k = some x) : Live s := by
  refine hs.live h (hs.done_of_link l (.inl ?_))
  rw [admissible, waitingWrite] at ha
  split at ha
  · next hw =>
    split at hw
    · next r hr => exact headOf_fifo hr
    · cases hw
  · cases ha

theorem UplinkSound.admitWrite (h : UplinkSound s) (hs : StartSound s) (l : Fin 13) : UplinkSound (admitWrite l s) := by
  rw [Machine.admitWrite]
  split
  · exact h
  · next r a ha =>
    have hq : Live (enterQueue l r a s) := (Live.of_admissible h hs ha).of_eq rfl rfl
    exact (hq.commitRecords l _).uplinkSound

theorem UplinkSound.heartbeatTaken (h : UplinkSound s) (v : Byte) : UplinkSound (heartbeatTaken v s) := by
  rw [Machine.heartbeatTaken]
  split
  · exact h
  · exact h.of_eq rfl rfl

theorem UplinkSound.admitHeartbeat (h : UplinkSound s) : UplinkSound (admitHeartbeat s) := by
  rw [Machine.admitHeartbeat]
  split
  · exact h
  · next r a _ =>
    have hq : UplinkSound (enterQueue 0 r a s) := h.of_eq rfl rfl
    exact hq.heartbeatTaken _

theorem UplinkSound.admitClear (h : UplinkSound s) (l : Fin 13) : UplinkSound (admitClear l s) := by
  rw [Machine.admitClear]
  split
  · exact h
  · next r a _ =>
    have hc : UplinkSound (s.act (fun _ u => clearWord l a r.data u)) := .act (h.laws.steady (steady_clearWord l a r.data))
    exact hc.of_eq rfl rfl

theorem UplinkSound.receive (h : UplinkSound s) (l : Fin 13) (bs : List Byte) : UplinkSound (receive l bs s) := by
  have herr : UplinkSound (s.act (fun _ u => linkError l u)) := .act (h.laws.steady (steady_linkError l))
  rw [Machine.receive]
  split
  · split
    · exact h.of_eq rfl rfl
    · exact herr
  · exact herr

theorem UplinkSound.judgeHead (h : UplinkSound s) (l : Fin 13) : UplinkSound (judgeHead l s) := by
  rw [Machine.judgeHead]
  split
  · exact h
  · split
    · exact h
    · split <;> exact h.of_eq rfl rfl

theorem UplinkSound.grantPort (h : UplinkSound s) : UplinkSound (grantPort s) := by
  rw [Machine.grantPort]
  split
  · exact h
  · split
    · exact h.of_eq rfl rfl
    · split
      · exact h.of_eq rfl rfl
      · exact h

theorem UplinkSound.completeRead (h : UplinkSound s) : UplinkSound (completeRead s) := by
  rw [Machine.completeRead]
  split
  · split
    · split <;> exact h.of_eq rfl rfl
    · exact h.of_eq rfl rfl
  · exact h

theorem UplinkSound.completeDrain (h : UplinkSound s) : UplinkSound (completeDrain s) := by
  rw [Machine.completeDrain]
  split
  iterate 2 exact h.of_eq rfl rfl
  · exact h

theorem UplinkSound.placeNext (h : UplinkSound s) : UplinkSound (placeNext s) := by
  rw [Machine.placeNext]
  split
  · split
    · dsimp only
      split
      · exact (unbuilt_beginWarm .restartCommand).uplinkSound
      · exact h.of_eq rfl rfl
    · exact h
  · exact h

/-! ### Supervision -/

theorem UplinkSound.heartbeatLost (h : UplinkSound s) (hs : s.ctx.sup.mode = .normal → Live s) : UplinkSound (heartbeatLost s) := by
  have hv : UplinkSound ((s.setSup (fun x => { x with hbTimer := none, served := false })).act (fun _ u => setChassisBit .heartbeatLate u)) :=
    .act (h.laws.steady (steady_setChassisBit .heartbeatLate))
  rw [Machine.heartbeatLost]
  split
  · next hm =>
    have hl : Live ((s.setSup (fun x => { x with hbTimer := none, served := false })).act (fun _ u => setChassisBit .heartbeatLate u)) :=
      ⟨(hs hm).laws.steady (steady_setChassisBit .heartbeatLate), (hs hm).built⟩
    exact hl.enterFailsafe.uplinkSound
  · exact hv

theorem UplinkSound.auditExpires (h : UplinkSound s) : UplinkSound (auditExpires s) := by
  rw [Machine.auditExpires]
  split <;> exact h.of_eq rfl rfl

/-! ### Contacts and timers of the slots -/

theorem UplinkSound.presLArrival (h : UplinkSound s) (n : Fin 12) :
    UplinkSound (Machine.slotAct n (fun c u => if (u.slot n).state = .empty then enterSeating c n u else u) s) :=
  h.slotAct (.ite (fun hs => h.laws.steady (steady_updSlot_off (not_engaged (by rw [hs]; decide)))) (fun _ => h.laws))

theorem UplinkSound.presLLoss (h : UplinkSound s) (n : Fin 12) :
    UplinkSound (if (s.units.slot n).state = .empty then s else Machine.slotEvent n (fun c u => removeSlot c n u) (discardTakes n s)) := by
  split
  · exact h
  · have hd : UplinkSound (discardTakes n s) := h.of_eq rfl rfl
    exact hd.slotEvent hd.laws.removeSlot

theorem UplinkSound.leverOpening (h : UplinkSound s) (n : Fin 12) :
    UplinkSound (if presLLevel s.ctx n then Machine.slotEvent n (fun c u => leverOpened c n u) s else s) := by
  split
  · exact h.slotEvent h.laws.leverOpened
  · exact h

theorem UplinkSound.moduleLost (h : UplinkSound s) (k : Fin 14) : UplinkSound (moduleLost k s) := by
  have hm : UplinkSound (actAndSettle (fun c u => moduleLeaves c k u) s) := .settled (h.laws.moduleLeaves k)
  exact hm.of_eq rfl rfl

/-! ### The crossbar -/

theorem UplinkSound.acknowledged (h : UplinkSound s) : UplinkSound (match s.units.xFlight with
    | some f => s.act (fun c u => flightEnds f true c (carryOut f.cmd u))
    | none => s.act (fun _ u => lateCarry u)) := by
  split
  · exact .act ((h.laws.steady (steady_carryOut _)).flightEnds _ true)
  · exact .act (h.laws.steady steady_lateCarry)

theorem UplinkSound.commandTimedOut (h : UplinkSound s) (carriedOut : Bool) : UplinkSound (match s.units.xFlight with
    | some f => Machine.atTimer (some f.deadline) (State.act (flightTimesOut f carriedOut)) s
    | none => s) := by
  split
  · exact h.atTimer fun _ _ _ ht _ _ => .act (ht.laws.flightTimesOut _ carriedOut)
  · exact h

/-- In NORMAL the part is in service. -/
theorem StartSound.live_of_normal (hs : StartSound s) (h : UplinkSound s) (hm : s.ctx.sup.mode = .normal) : Live s :=
  hs.live h (by by_contra hp; rw [hs.mode.mpr hp] at hm; cases hm)

/-! ### Every command -/

theorem startSound_pending (h : StartSound s) (l : List Instr) : StartSound { s with pending := l } :=
  ⟨h.reads, h.mode, h.built, h.links, h.audit, h.noGrants, h.early, h.adopting, h.settled⟩

/-- A slot in SEATING or SETTLING is neither in ON nor in QUIESCING. -/
theorem PowerSound.seating_off {u : Units} (h : PowerSound u) {n : Fin 12} {d : Nat} (ht : (u.slot n).seatTimer = some d) :
    ¬ Engaged (u.slot n) := not_engaged (by rw [h.seating n (by rw [ht]; nofun)]; decide)

theorem PowerSound.settling_off {u : Units} (h : PowerSound u) {n : Fin 12} {d : Nat} (ht : (u.slot n).settleTimer = some d) :
    ¬ Engaged (u.slot n) := not_engaged (by rw [h.settling n (by rw [ht]; nofun)]; decide)

theorem nextSound_exec (i : Instr) (hs : StartSound s) (hp : PowerSound s.units) (h : UplinkSound s) : NextSound (exec i s) := by
  cases i with
  | coldStart cause => exact nextSound_next (unbuilt_beginCold _).uplinkSound
  | warmRestart => exact nextSound_next (unbuilt_beginWarm .restartLine).uplinkSound
  | deviceIdRead answered => exact nextSound_done (h.deviceId hs answered)
  | internalReadComplete => exact nextSound_done (h.completeInternal hs)
  | packetReceived link bytes => exact nextSound_done (h.receive link bytes)
  | headJudgment link => exact nextSound_done (h.judgeHead link)
  | writeAdmission link => exact nextSound_done (h.admitWrite hs link)
  | eventWordClear link => exact nextSound_done (h.admitClear link)
  | heartbeatWrite => exact nextSound_done h.admitHeartbeat
  | arbiterGrant => exact nextSound_done h.grantPort
  | readComplete => exact nextSound_done h.completeRead
  | writeDrain => exact nextSound_done h.completeDrain
  | writeBackPlacement => exact nextSound_next h.placeNext
  | rawInputChange pin level => exact nextSound_done (h.inContext (rawChange_sup s.ctx pin level))
  | presLArrival slot => exact nextSound_done (h.onPin fun _ ht _ => ht.presLArrival slot)
  | presLLoss slot => exact nextSound_done (h.onPin fun _ ht _ => ht.presLLoss slot)
  | leverOpening slot => exact nextSound_done (h.onPin fun _ ht _ => ht.leverOpening slot)
  | presSClosing slot => exact nextSound_done (h.onPin fun _ ht _ => ht.slotAct ht.laws.leverCloses)
  | overrideAssertion line => exact nextSound_done (h.onPin fun _ ht _ => .settled (ht.laws.assertLine line))
  | overrideRelease line => exact nextSound_done (h.onPin fun _ ht _ => ht)
  | pgoodAssertion slot => exact nextSound_done (h.onPin fun _ ht _ => ht.slotAct ht.laws.pgoodRises)
  | pgoodLoss slot => exact nextSound_done (h.onPin fun _ ht _ => ht.slotEvent ht.laws.pgoodFalls)
  | railFltAssertion slot => exact nextSound_done (h.onPin fun _ ht _ => ht.slotEvent ht.laws.railFaults)
  | railFltRelease slot => exact nextSound_done (h.onPin fun _ ht _ => ht)
  | moduleArrival bay => exact nextSound_done (h.onPin fun _ ht _ => .settled (ht.laws.moduleArrives bay))
  | moduleLoss bay => exact nextSound_done (h.onPin fun _ ht _ => ht.moduleLost bay)
  | psuOkLoss supply => exact nextSound_done (h.onPin fun _ ht _ => .settled (ht.laws.steady (steady_deriveSupply supply)))
  | psuOkReturn supply => exact nextSound_done (h.onPin fun _ ht _ => .settled (ht.laws.steady (steady_deriveSupply supply)))
  | uplLinkFall port => exact nextSound_done (h.onPin fun _ ht _ => .settled (ht.laws.derivePort port))
  | uplLinkRise port => exact nextSound_done (h.onPin fun _ ht _ => .settled (ht.laws.derivePort port))
  | tachPulse fan => exact nextSound_done (.act (h.laws.steady (steady_tachCount fan)))
  | seatingTimerExpiry slot =>
    exact nextSound_done (h.atTimer fun d hd t ht hu _ => .settled (ht.laws.seatSlot (by rw [hu]; exact hp.seating_off hd)))
  | settlingTimerExpiry slot =>
    exact nextSound_done (h.atTimer fun d hd t ht hu _ => .act (ht.laws.settlingEnds (by rw [hu]; exact hp.settling_off hd)))
  | quiesceDeadlineExpiry slot =>
    exact nextSound_done (h.atTimer fun d _ t ht _ _ => .settled (ht.laws.steady (steady_setSlotBit .quiesceTimeout)).cutToSettling)
  | chargeTimeout slot => exact nextSound_done (h.atTimer fun d _ t ht _ _ => .settled (ht.laws.cutToFault .chargeTimeout))
  | capGraceExpiry slot => exact nextSound_done (h.atTimer fun d _ t ht _ _ => .settled ht.laws.graceEnds)
  | shedDelayExpiry => exact nextSound_done (h.atTimer fun d _ t ht _ _ => .settled (ht.laws.steady (steady_shedTimer _ _ _)).plannedShed)
  | reportAgeTimeout slot => exact nextSound_done (h.atTimer fun d _ t ht _ _ => .act (ht.laws.steady steady_goStale))
  | pollTimerExpiry => exact nextSound_done (h.atTimer fun d _ t ht _ _ => .act (ht.laws.steady steady_pollSensors))
  | sensorPollEnd value => exact nextSound_done (.act (h.laws.steady (steady_pollEnds value)))
  | identityReadAttemptEnd result => exact nextSound_done (.settled (h.laws.attemptEnds result))
  | retryDelayExpiry => exact nextSound_done (h.atTimer fun d _ t ht _ _ => .act (ht.laws.steady steady_nextAttempt))
  | sampleTimerExpiry zone => exact nextSound_done (h.atTimer fun d _ t ht _ _ => .act (ht.laws.steady (steady_sampleZone zone)))
  | updateTimerExpiry zone => exact nextSound_done (h.atTimer fun d _ t ht _ _ => .settled (ht.laws.steady (steady_zoneUpdate zone)))
  | tachGateClose => exact nextSound_done (h.atTimer fun d _ t ht _ _ => .settled (ht.laws.steady steady_closeGates))
  | groupStart => exact nextSound_done (h.of_eq rfl rfl)
  | senseConversion slot count => exact nextSound_done (.act (h.laws.steady (steady_convert _)))
  | drainTimerExpiry channel => exact nextSound_done (h.atTimer fun d _ t ht _ _ => .act ht.laws.drainEnds)
  | crossbarAcknowledge => exact nextSound_done h.acknowledged
  | crossbarCommandTimeout carriedOut => exact nextSound_done (h.commandTimedOut carriedOut)
  | heartbeatTimerExpiry =>
    exact nextSound_done (h.atTimer fun d _ t ht hu hc => ht.heartbeatLost fun hm => (hs.live_of_normal h (hc ▸ hm)).of_eq hu (by rw [hc]))
  | auditPeriodExpiry => exact nextSound_done (h.atTimer fun d _ t ht _ _ => ht.auditExpires)

end

end Sys2Proof.Machine
end

section
open Sys2Proof Sys2Proof.Machine

/-- Settles O58: a tick changes the clock alone, and each command is one that keeps the laws (`nextSound_exec`). -/
theorem channelLawsAreKept : Obligations.ChannelLawsAreKept := by
  intro s t hs hp h hstep
  rw [step] at hstep
  split at hstep
  · next i rest _ => exact nextSound_exec (s := { s with pending := rest }) i (startSound_pending hs rest) hp (h.of_eq rfl rfl) t hstep
  · cases hstep
    exact h.of_eq rfl rfl
end

section
/-! PROOFS. A port with a VALID entry follows its link (R129): what its fall and its rise do to channels, enables and slot event bits stays
inside the uplink unit, and the budget unit after it leaves port states alone. -/

namespace Sys2Proof.Machine

section
variable {P : Fin 12 → Prop} {u v : Units} {c : Ctx} {n : Fin 12} {p : Fin 4} {ch : Fin 32}

theorem fix_disables (k : Nat) : Fix P u { u with disables := k } :=
  .of_eq (by constructor <;> intros <;> first | rfl | assumption) rfl

theorem fix_disableIdle : Fix P u (disableIdle u) := by
  refine Fix.foldl (f := fun u q => disablePort u q) (fun v q => ?_) _ u
  rw [disablePort]
  split
  · exact (fix_updPort q (f := fun x => { x with enable := false, power := 0 }) (fun _ => rfl)).trans (fix_disables _)
  · exact .refl P v

theorem fix_replaceChan (h : replaceChan c ch u = some v) : Fix P u v := by
  rw [replaceChan] at h
  split at h
  · cases h
    exact (fix_takeChannel _ _).trans (fix_updChan _ _)
  · cases h

theorem fix_failover : Fix P u (failover c ch u) := by
  rw [failover]
  split
  · next h => exact fix_replaceChan h
  · dsimp only
    split
    · exact (fix_updChan _ _).trans (fix_setSlotBit _)
    · exact fix_updChan _ _

theorem fix_portDown : Fix P u (portDown c p u) := by
  rw [portDown]
  refine Fix.trans (Fix.trans (Fix.foldl (fun v x => ?_) _ u) (Fix.foldl (fun v x => ?_) _ _)) fix_disableIdle
  · split
    · exact fix_failover
    · exact .refl P v
  · split
    · exact fix_updChan _ _
    · exact .refl P v

theorem fix_portUp : Fix P u (portUp c p u) := by
  rw [portUp]
  refine Fix.trans (Fix.foldl (fun v x => ?_) _ u) fix_serveWait
  split
  iterate 2 exact fix_updChan _ _
  · exact .refl P v

/-! ### The state that the link gives -/

theorem linkLevel_shown (s : State) (level : Bool) (d : Nat) : linkLevel (Shown s (.uplLink p) level d) p = level := by
  simp [linkLevel, Shown, updFilter]

theorem portStateOf_link (h : (u.inv.get (bayPos (uplinkBay p))).state = .valid) :
    portStateOf c u p = if linkLevel c p then .up else .down := if_pos h

/-- The units with the state of port `p` alone changed. -/
def withPort (p : Fin 4) (st : PortState) (u : Units) : Units := u.updPort p (fun x => { x with state := st })

theorem withPort_state (st : PortState) (q : Fin 4) : ((withPort p st u).ports.get q).state = if p = q then st else (u.ports.get q).state := by
  rw [withPort, Units.updPort, updAt_get]
  split <;> rfl

/-- UP to DOWN: the bit is set, and failover acts on the channels (R142). -/
theorem fix_derivePort_falls (ho : (u.ports.get p).state = .up) (hn : portStateOf c u p = .down) :
    Fix P (setChassisBit .uplinkDown (withPort p .down u)) (derivePort c p u) := by
  simp only [derivePort, ho, hn, reduceCtorEq, and_self, if_true, if_false]
  exact fix_ite (.refl _ _) fix_portDown

/-- DOWN to UP: the channels come back (R143). -/
theorem fix_derivePort_rises (ho : (u.ports.get p).state = .down) (hn : portStateOf c u p = .up) :
    Fix P (withPort p .up u) (derivePort c p u) := by
  simp only [derivePort, ho, hn, reduceCtorEq, and_self, if_false]
  exact fix_ite (.refl _ _) fix_portUp

/-- `t` is `u` with port `p` in this state, what follows from it in the uplink unit, and the account settled. -/
structure PortTaken (p : Fin 4) (st : PortState) (u t : Units) : Prop where
  state : (t.ports.get p).state = st
  others : ∀ q, q ≠ p → (t.ports.get q).state = (u.ports.get q).state
  frame : Frame { u with ports := t.ports } t
  slots : ∀ m, dark (u.slot m) = true → t.slot m = u.slot m

theorem portTaken_settled {st : PortState} (x : Units) (h : AllFix (withPort p st u) v) : PortTaken p st u (settleAfter c x v).settled := by
  have settles := settleAfter_keeps (c := c) (u := x) (v := v)
  have fr : Frame (withPort p st u) (settleAfter c x v).settled := h.frame.trans settles.frame.settled
  have slot (m : Fin 12) : v.slot m = u.slot m := h.slots m trivial
  refine ⟨?_, fun q hq => ?_, { fr with portStates := fun _ => rfl }, fun m hm => ?_⟩
  · rw [fr.portStates, withPort_state, if_pos rfl]
  · rw [fr.portStates, withPort_state, if_neg (Ne.symm hq)]
  · rw [settled_slot, settles.slots m (by rw [slot]; exact hm), slot]

end

end Sys2Proof.Machine
end

section
open Sys2Proof Sys2Proof.Machine

/-- Settles O50: the shown level gives the port its state, and what follows from it keeps port states, entries and slots
(`portTaken_settled`). -/
theorem portStateFollowsItsLink : Obligations.PortStateFollowsItsLink := by
  refine fun s p d hv => ⟨fun h ho => ?_, fun h ho => ?_⟩
  · have hn : portStateOf (Shown s (.uplLink p) false d) s.units p = .down := by rw [portStateOf_link hv, linkLevel_shown]; rfl
    have falls := fix_derivePort_falls (P := fun _ => True) ho hn
    have taken := portTaken_settled (c := Shown s (.uplLink p) false d) s.units ((fix_setChassisBit .uplinkDown).trans falls)
    exact ⟨_, done_onPin_settle s _ h, rfl, after_sameOutside _ _ _ rfl rfl, taken.frame, taken.state,
      settleAfter_keeps.frame.settled.chassisBits _ (falls.frame.chassisBits _ (setChassisBit_flag _ _)), taken.others, taken.slots⟩
  · have hn : portStateOf (Shown s (.uplLink p) true d) s.units p = .up := by rw [portStateOf_link hv, linkLevel_shown]; rfl
    have taken := portTaken_settled (c := Shown s (.uplLink p) true d) s.units (fix_derivePort_rises (P := fun _ => True) ho hn)
    exact ⟨_, done_onPin_settle s _ h, rfl, after_sameOutside _ _ _ rfl rfl, taken.frame, taken.state, taken.others, taken.slots⟩
end

section
/-! PROOFS. What a crossbar command and its end change (R137 to R139): the channel table and the commands (`ChannelsOnly`), and of the crossbar
itself what it carries out (`CrossbarOnly`). Neither is a term of the account. -/

namespace Sys2Proof.Machine

/-- `v` differs from `u` in the channel table and in the crossbar commands that wait or are in flight alone. -/
def ChannelsOnly (u v : Units) : Prop := v = { u with chans := v.chans, chanGen := v.chanGen, xq := v.xq, xFlight := v.xFlight }

/-- `v` differs from `u` in the crossbar's connections and in what it may yet carry out alone. -/
def CrossbarOnly (u v : Units) : Prop := v = { u with xbar := v.xbar, xLate := v.xLate, xChances := v.xChances }

section
variable {u v w : Units} {c : Ctx} {n : Fin 12} {k : Fin 4} {ch : Fin 32}

theorem ChannelsOnly.trans (a : ChannelsOnly u v) (b : ChannelsOnly v w) : ChannelsOnly u w := by
  rw [ChannelsOnly] at *
  rw [a] at b
  exact b

theorem channelsOnly_updChan (f : Chan → Chan) : ChannelsOnly u (updChan ch f u) := rfl
theorem channelsOnly_flight (f : Option XFlight) : ChannelsOnly u { u with xFlight := f } := rfl

/-- The units at the end of a command that changes channels and crossbar commands. -/
theorem ChannelsOnly.settled (h : ChannelsOnly u v) : v.settled = { u with
    chans := v.settled.chans, chanGen := v.settled.chanGen, xq := v.settled.xq, xFlight := v.settled.xFlight, touched := [] } :=
  congrArg Units.settled h

theorem ChannelsOnly.xbar (h : ChannelsOnly u v) : v.xbar = u.xbar := by rw [h]

/-- With a command in flight the next one waits. -/
theorem sendNext_waits {f : XFlight} (h : u.xFlight = some f) : sendNext c u = u := by rw [sendNext, h]

theorem sendNext_empty (h : u.xq = []) : sendNext c u = u := by
  rw [sendNext, h]
  cases u.xFlight <;> rfl

/-- With none in flight the oldest one is sent. -/
theorem sendNext_sends {cmd : XCmd} {rest : List XCmd} (hf : u.xFlight = none) (hq : u.xq = cmd :: rest) : sendNext c u =
    { u with xq := rest, xFlight := some { cmd := cmd, deadline := c.now + Config.crossbarTimeout, ignored := false } } := by
  rw [sendNext, hf, hq]

theorem channelsOnly_sendNext : ChannelsOnly u (sendNext c u) := by
  rw [sendNext]
  split <;> rfl

theorem channelsOnly_queueCmd (cmd : XCmd) : ChannelsOnly u (queueCmd c cmd u) :=
  ChannelsOnly.trans (v := { u with xq := u.xq ++ [cmd] }) rfl channelsOnly_sendNext

/-- The account does not rest on channels and crossbar commands. -/
theorem ChannelsOnly.settleAfter (h : ChannelsOnly u v) : settleAfter c u v = v :=
  settleAfter_same (by rw [h]; rfl) (by rw [h]; rfl)

/-! ### The crossbar -/

theorem CrossbarOnly.trans (a : CrossbarOnly u v) (b : CrossbarOnly v w) : CrossbarOnly u w := by
  rw [CrossbarOnly] at *
  rw [a] at b
  exact b

theorem CrossbarOnly.settled (h : CrossbarOnly u v) : v.settled = { u with
    xbar := v.settled.xbar, xLate := v.settled.xLate, xChances := v.settled.xChances, touched := [] } := congrArg Units.settled h

/-- The crossbar first, then channels and commands. -/
theorem CrossbarOnly.channels (a : CrossbarOnly u v) (b : ChannelsOnly v w) : w = { u with
    chans := w.chans, chanGen := w.chanGen, xq := w.xq, xFlight := w.xFlight, xbar := w.xbar, xLate := w.xLate, xChances := w.xChances } := by
  rw [ChannelsOnly] at b
  have hw : (w.xbar, w.xLate, w.xChances) = (v.xbar, v.xLate, v.xChances) := by rw [b]
  simp only [Prod.mk.injEq] at hw
  rw [CrossbarOnly] at a
  rw [hw.1, hw.2.1, hw.2.2]
  rw [a] at b
  exact b

theorem crossbarOnly_lateOne (cmd : XCmd) : CrossbarOnly u (lateOne u cmd) := by
  rw [lateOne]
  split <;> rfl

theorem crossbarOnly_lateCarry : CrossbarOnly u (lateCarry u) :=
  List.foldlRecOn (motive := CrossbarOnly u) u.xLate lateOne rfl (fun _ hv cmd _ => hv.trans (crossbarOnly_lateOne cmd))

theorem crossbarOnly_carryOut (cmd : XCmd) : CrossbarOnly u (carryOut cmd u) := crossbarOnly_lateCarry.trans rfl

theorem lateCarry_prompt (h : u.xLate = []) : lateCarry u = u := by
  rw [lateCarry, h]
  cases u
  subst h
  rfl

/-- A CONNECT joins the slot's lane to the channel, and takes it from any other (R137). -/
theorem crossbarDo_connect (x : Vector (Option (Fin 12 × Fin 4)) 32) (j : Fin 32) : (crossbarDo (.connect ch n k) x).get j =
    if ch = j then some (n, k) else if x.get j = some (n, k) then none else x.get j := by
  rw [crossbarDo, updAt_get, updAll_get]

/-! ### The end of a drain (R139) -/

theorem drainEnds_draining (hs : (u.chans.get ch).state = .draining) : drainEnds ch c u =
    queueCmd c (.disconnect ch) (updChan ch (fun x => { x with cmd := .disconnect, drain := none }) u) := if_pos hs

theorem drainEnds_chans (hs : (u.chans.get ch).state = .draining) (j : Fin 32) : (drainEnds ch c u).chans.get j =
    if ch = j then { u.chans.get j with cmd := .disconnect, drain := none } else u.chans.get j := by
  rw [drainEnds_draining hs, queueCmd_chans, updChan_chans]

theorem channelsOnly_drainEnds (hs : (u.chans.get ch).state = .draining) : ChannelsOnly u (drainEnds ch c u) := by
  rw [drainEnds_draining hs]
  exact (channelsOnly_updChan _).trans (channelsOnly_queueCmd _)

/-- Behind a command in flight the new one waits; alone it is sent at once. -/
theorem queueCmd_waits (cmd : XCmd) {f : XFlight} (hf : u.xFlight = some f) : queueCmd c cmd u = { u with xq := u.xq ++ [cmd] } :=
  sendNext_waits (u := { u with xq := u.xq ++ [cmd] }) hf

theorem queueCmd_sends (cmd : XCmd) (hf : u.xFlight = none) (hq : u.xq = []) : queueCmd c cmd u =
    { u with xq := [], xFlight := some { cmd := cmd, deadline := c.now + Config.crossbarTimeout, ignored := false } } := by
  rw [queueCmd, sendNext_sends (u := { u with xq := u.xq ++ [cmd] }) hf (by rw [hq]; rfl)]

/-! ### The acknowledge of a CONNECT (R138) -/

theorem exec_acknowledge {s : State} {f : XFlight} (h : s.units.xFlight = some f) :
    exec .crossbarAcknowledge s = .next (s.after s.ctx (flightEnds f true s.ctx (carryOut f.cmd s.units))) := by
  rw [show exec .crossbarAcknowledge s = execCrossbarAcknowledge s from rfl, execCrossbarAcknowledge, h]; rfl

theorem exec_acknowledge_none {s : State} (h : s.units.xFlight = none) :
    exec .crossbarAcknowledge s = .next (s.after s.ctx (lateCarry s.units)) := by
  rw [show exec .crossbarAcknowledge s = execCrossbarAcknowledge s from rfl, execCrossbarAcknowledge, h]; rfl

/-- The units with a channel's CONNECT ended and the channel connected. -/
def connected (ch : Fin 32) (u : Units) : Units :=
  updChan ch (fun x => { x with state := .assigned }) (updChan ch (fun x => { x with cmd := .none }) u)

theorem channelsOnly_connected : ChannelsOnly u (connected ch u) := rfl

theorem connected_chans (j : Fin 32) : (connected ch u).chans.get j =
    if ch = j then { u.chans.get j with cmd := .none, state := .assigned } else u.chans.get j := by
  rw [connected, updChan_chans, updChan_chans]
  split <;> rfl

theorem channelAnswered_connect (hs : (u.chans.get ch).state = .switching) (hp : (u.ports.get (portOf ch)).state = .up) :
    channelAnswered c (.connect ch n k) u = connected ch u := by
  have hs' : ((updChan ch (fun x => { x with cmd := .none }) u).chans.get ch).state = .switching := by
    rw [updChan_chans, if_pos rfl]; exact hs
  rw [channelAnswered, if_pos hs']
  exact if_pos hp

/-- The units after the acknowledge of a CONNECT: the crossbar has carried it out, the channel is connected, the next command is sent. -/
def acknowledged (c : Ctx) (ch : Fin 32) (n : Fin 12) (k : Fin 4) (u : Units) : Units :=
  sendNext c (connected ch { carryOut (.connect ch n k) u with xFlight := none })

theorem channelsOnly_acknowledged : ChannelsOnly (carryOut (.connect ch n k) u) (acknowledged c ch n k u) :=
  ((channelsOnly_flight none).trans channelsOnly_connected).trans channelsOnly_sendNext

/-- No term of the account changes. -/
theorem flightEnds_connect {d : Nat} (hs : (u.chans.get ch).state = .switching) (hp : (u.ports.get (portOf ch)).state = .up) :
    flightEnds { cmd := .connect ch n k, deadline := d, ignored := false } true c (carryOut (.connect ch n k) u) = acknowledged c ch n k u := by
  have hcross : CrossbarOnly u (carryOut (.connect ch n k) u) := crossbarOnly_carryOut _
  have hend : endCommand c { cmd := .connect ch n k, deadline := d, ignored := false } true (carryOut (.connect ch n k) u) = acknowledged c ch n k u :=
    congrArg (sendNext c) (channelAnswered_connect (u := { carryOut (.connect ch n k) u with xFlight := none }) (n := n) (k := k) (by rw [hcross]; exact hs)
      (by rw [hcross]; exact hp))
  rw [flightEnds, hend]
  exact channelsOnly_acknowledged.settleAfter

theorem acknowledged_chans (j : Fin 32) : (acknowledged c ch n k u).chans.get j =
    if ch = j then { u.chans.get j with cmd := .none, state := .assigned } else u.chans.get j := by
  have hcross : CrossbarOnly u (carryOut (.connect ch n k) u) := crossbarOnly_carryOut _
  rw [acknowledged, sendNext_chans, connected_chans, hcross]

theorem acknowledged_units : (acknowledged c ch n k u).settled = { u with
    chans := (acknowledged c ch n k u).chans, chanGen := (acknowledged c ch n k u).chanGen, xq := (acknowledged c ch n k u).xq,
    xFlight := (acknowledged c ch n k u).xFlight, xbar := (acknowledged c ch n k u).xbar, xLate := (acknowledged c ch n k u).xLate,
    xChances := (acknowledged c ch n k u).xChances, touched := [] } :=
  congrArg Units.settled ((crossbarOnly_carryOut _).channels channelsOnly_acknowledged)

theorem acknowledged_xbar (j : Fin 32) : (acknowledged c ch n k u).xbar.get j =
    if ch = j then some (n, k) else if (lateCarry u).xbar.get j = some (n, k) then none else (lateCarry u).xbar.get j := by
  rw [channelsOnly_acknowledged.xbar]
  exact crossbarDo_connect _ j

theorem acknowledged_idle (hq : u.xq = []) : (acknowledged c ch n k u).xFlight = none := by
  have hcross : CrossbarOnly u (carryOut (.connect ch n k) u) := crossbarOnly_carryOut _
  rw [acknowledged, sendNext_empty (by rw [hcross]; exact hq)]
  rfl

theorem acknowledged_sends {next : XCmd} {rest : List XCmd} (hq : u.xq = next :: rest) : (acknowledged c ch n k u).xq = rest
    ∧ (acknowledged c ch n k u).xFlight = some { cmd := next, deadline := c.now + Config.crossbarTimeout, ignored := false } := by
  have hcross : CrossbarOnly u (carryOut (.connect ch n k) u) := crossbarOnly_carryOut _
  rw [acknowledged, sendNext_sends rfl (by rw [hcross]; exact hq)]
  exact ⟨rfl, rfl⟩

end

end Sys2Proof.Machine
end

section
open Sys2Proof Sys2Proof.Machine

/-- Settles O51: a drained channel's DISCONNECT joins the commands (`queueCmd`), an acknowledged CONNECT connects its channel
(`flightEnds_connect`), and an acknowledge of nothing only shows what the crossbar has made of late commands (`crossbarOnly_lateCarry`). -/
theorem crossbarCommandsFollowTheChannel : Obligations.CrossbarCommandsFollowTheChannel := by
  refine ⟨fun s ch d hd hs => ?_, fun s ch n k d hf hs hp => ?_, fun s hf => ?_⟩
  · refine ⟨_, done_atTimer_act s _ hd, rfl, after_sameOutside _ _ _ rfl rfl, (drainEnds_chans hs ch).trans (if_pos rfl),
      fun x hx => (drainEnds_chans hs x).trans (if_neg (Ne.symm hx)), (channelsOnly_drainEnds hs).settled, ?_⟩
    rw [after_units, drainEnds_draining hs]
    refine ⟨fun f hf => ?_, fun hf hq => ?_⟩
    · rw [queueCmd_waits _ (u := updChan ch _ s.units) hf]; exact ⟨hf, rfl⟩
    · rw [queueCmd_sends _ (u := updChan ch _ s.units) hf hq]; exact ⟨rfl, rfl⟩
  · refine ⟨_, exec_acknowledge hf, rfl, after_sameOutside _ _ _ rfl rfl, ?_⟩
    rw [flightEnds_connect hs hp, after_units]
    exact ⟨(acknowledged_chans ch).trans (if_pos rfl), fun x hx => (acknowledged_chans x).trans (if_neg (Ne.symm hx)), acknowledged_units,
      (acknowledged_xbar ch).trans (if_pos rfl),
      fun hl x hx => (acknowledged_xbar x).trans (by rw [if_neg (Ne.symm hx), lateCarry_prompt hl]),
      acknowledged_idle, fun _ _ => acknowledged_sends⟩
  · refine ⟨_, exec_acknowledge_none hf, rfl, after_sameOutside _ _ _ rfl rfl, crossbarOnly_lateCarry.settled, fun hl => ?_⟩
    rw [after_units, lateCarry_prompt hl]
end

section
/-! PROOFS. A channel that is neither free nor active is `Parked`: takes and releases pass it by, and so does the budget unit after an event
(R56 to R77, R135, R139, R140). A channel whose CONNECT has timed out is FAULTED and so stays parked (R138). -/

namespace Sys2Proof.Machine

/-- UNAVAILABLE, DRAINING or FAULTED: not to be taken or released. -/
def Parked (x : Chan) : Prop := x.state ≠ .free ∧ isActive x = false

/-- Parked channels stay as they are. -/
def ParkedStay (u v : Units) : Prop := ∀ ch, Parked (u.chans.get ch) → v.chans.get ch = u.chans.get ch

section
variable {u v w : Units} {c : Ctx} {n : Fin 12} {ch : Fin 32}

theorem ParkedStay.refl (u : Units) : ParkedStay u u := fun _ _ => rfl

theorem ParkedStay.trans (a : ParkedStay u v) (b : ParkedStay v w) : ParkedStay u w := fun ch h => by
  rw [b ch (by rw [a ch h]; exact h), a ch h]

theorem ParkedStay.of_chans (h : v.chans = u.chans) : ParkedStay u v := fun _ _ => by rw [h]

theorem Steady.parked (h : Steady u v) : ParkedStay u v := .of_chans h.chans

theorem ParkedStay.steady (h : ParkedStay u v) (s : Steady v w) : ParkedStay u w := h.trans s.parked

theorem ParkedStay.updSlot (h : ParkedStay u v) (f : Slot → Slot) : ParkedStay u (v.updSlot n f) := h.trans (.of_chans rfl)

theorem ParkedStay.foldl {α : Type} {f : Units → α → Units} (h : ∀ u a, ParkedStay u (f u a)) (l : List α) (u : Units) :
    ParkedStay u (l.foldl f u) :=
  List.foldlRecOn (motive := ParkedStay u) l f (.refl u) (fun v hv a _ => hv.trans (h v a))

theorem ParkedStay.ite {p : Prop} [Decidable p] (a : ParkedStay u v) (b : ParkedStay u w) : ParkedStay u (if p then v else w) := by
  split <;> assumption

/-! ### Channels taken and released -/

theorem parked_takeChannel {k : Fin 4} (hfree : (u.chans.get ch).state = .free) : ParkedStay u (takeChannel c ch n k u) := fun j hj => by
  rw [takeChannel_chans, if_neg (by rintro rfl; exact hj.1 hfree)]

theorem parked_fillSlot : ParkedStay u (fillSlot c n u) := by
  refine .foldl (fun v k => .ite ?_ (.refl v)) _ u
  split
  · next h => exact parked_takeChannel (chooseChannel_free h)
  · exact .refl v

theorem parked_serveWait : ParkedStay u (serveWait c u) := .foldl (fun _ _ => parked_fillSlot.trans (.of_chans syncWait_chans)) _ u

theorem parked_powerOff : ParkedStay u (powerOff c n u) := fun j hj => by
  rw [powerOff_chans, releases_chans, if_neg (fun h => by rw [hj.2] at h; exact absurd h.2 (by decide))]

theorem parked_cutToSettling : ParkedStay u (cutToSettling c n u) := .ite (parked_powerOff.updSlot _) (.refl u)

theorem parked_cutToFault (r : FaultReason) : ParkedStay u (cutToFault c n r u) :=
  .ite (((parked_powerOff.updSlot _).steady (steady_setSlotBit .fault)).steady (steady_setChassisBit .slotFault)) (.refl u)

/-! ### The budget unit -/

theorem parked_victim : ParkedStay u (cutToSettling c n (markVictim n u)) := steady_markVictim.parked.trans parked_cutToSettling

theorem parked_emergencyShed : ParkedStay u (emergencyShed c u) :=
  .ite (.refl u) ((ParkedStay.foldl (fun v _ => .ite parked_victim (.refl v)) _ u).steady (steady_setChassisBit .emergencyShed))

theorem parked_shedDecision : ParkedStay u (shedDecision c u) :=
  .ite (steady_shedTimer _ _ _).parked (.ite (.ite (parked_emergencyShed.steady (steady_shedTimer _ _ _)) parked_emergencyShed)
    (.ite (steady_shedTimer _ _ _).parked (.refl u)))

theorem parked_deficitHandling : ParkedStay u (deficitHandling c u) := .ite (steady_capStep.parked.trans parked_shedDecision) (.refl u)

theorem parked_losePower : ParkedStay u (losePower c u) := by
  have cuts := (steady_setChassisBit .powerLost (u := u)).parked.trans (.foldl (f := fun u n => cutToSettling c n (markVictim n u))
    (fun _ _ => parked_victim) ((indices 12).filter (fun n => powered (u.slot n))) _)
  exact (ParkedStay.ite cuts (cuts.steady (steady_setChassisBit .emergencyShed))).steady (steady_shedTimer _ _ _)

theorem parked_supplyEmergency : ParkedStay u (supplyEmergency c u) :=
  .ite (.ite (steady_shedTimer _ _ _).parked (steady_shedTimer _ _ _).parked) (.ite parked_losePower (.refl u))

theorem parked_startCharge (k : Nat) : ParkedStay u (startCharge c n k u) := by
  have charging := (steady_toGrantEnd (u := u) (n := n)).parked.updSlot (n := n) (fun x =>
    { coolSlot x with state := .charging, grant := k, allowance := k, mainEn := true, chargeTimer := startTimer c (chargeTime c n),
                      chargeStart := some c.now })
  exact .ite (charging.trans (parked_cutToFault .overcurrent)) (.ite (charging.updSlot _) charging)

theorem parked_applyGrant (g : WaitEntry) : ParkedStay u (applyGrant c g u) := by
  rw [applyGrant]
  split
  · exact parked_startCharge _
  · exact (steady_applyRaise _).parked
  · exact .refl u

theorem parked_queueScan (fuel : Nat) : ParkedStay u (queueScan c fuel u) := by
  induction fuel generalizing u with
  | zero => exact .refl u
  | succ fuel ih =>
    rw [queueScan]
    split
    · exact .refl u
    · exact ((steady_waitQ _ _).parked.trans (parked_applyGrant _)).trans ih

theorem parked_restoreAndScan : ParkedStay u (restoreAndScan c u) := by
  have hr : ParkedStay u (restoration c u) := .foldl (fun _ _ => steady_restoreOne.parked) _ u
  have hq : ParkedStay u (if (restoration c u).capped.any (fun n => !passedOver (restoration c u) n) then restoration c u
      else queueScan c (restoration c u).waitQ.length (restoration c u)) := .ite hr (hr.trans (parked_queueScan _))
  exact .ite (.ite (hq.trans parked_serveWait) hq) (.refl u)

theorem parked_settle : ParkedStay u (settle c u) :=
  .ite ((((steady_recompute.parked.trans parked_supplyEmergency).trans parked_deficitHandling).trans steady_recompute.parked).trans
    parked_restoreAndScan) (.refl u)

theorem parked_settleAfter : ParkedStay v (settleAfter c u v) := .ite parked_settle (.ite parked_restoreAndScan (.refl v))

/-! ### The timeout of a CONNECT (R138) -/

theorem parked_vacated (x : Chan) : Parked (vacate .faulted x) := ⟨nofun, rfl⟩

theorem parked_holderLost : ParkedStay u (holderLost n u) := .of_chans holderLost_chans

/-- The channel of a CONNECT that timed out is vacated, and what its holder does then passes it by. -/
theorem parked_channelTimedOut {k : Fin 4} (hs : (u.chans.get ch).state = .switching) :
    ParkedStay (updChan ch (vacate .faulted) u) (channelTimedOut c (.connect ch n k) u) := by
  have vacated := (steady_disableIdle (u := updChan ch (vacate .faulted) u)).parked
  simp only [channelTimedOut, cmdChan, hs, true_or, if_true]
  generalize disableIdle (updChan ch (vacate .faulted) u) = w at vacated ⊢
  split
  · next m j _ =>
    have lost := vacated.trans (parked_holderLost (n := m))
    refine .ite (lost.trans (ParkedStay.trans ?_ (.of_chans syncWait_chans))) lost
    split
    · next h => exact .ite (parked_takeChannel (chooseChannel_free h)) (.refl _)
    · exact .refl _
  · exact vacated

theorem channelTimedOut_chan {k : Fin 4} (hs : (u.chans.get ch).state = .switching) :
    (channelTimedOut c (.connect ch n k) u).chans.get ch = vacate .faulted (u.chans.get ch) := by
  have hv : (updChan ch (vacate .faulted) u).chans.get ch = vacate .faulted (u.chans.get ch) := by rw [updChan_chans, if_pos rfl]
  rw [← hv]
  exact parked_channelTimedOut hs ch (by rw [hv]; exact parked_vacated _)

/-- No slot is promised to stay, as a holder in QUIESCING gives up a claim. -/
theorem frame_holderLost : Frame u (holderLost n u) := by
  rw [holderLost]
  split
  · exact frame_updSlot _
  · exact .refl u

theorem Frame.ite {p : Prop} [Decidable p] (a : Frame u v) (b : Frame u w) : Frame u (if p then v else w) := by split <;> assumption

theorem frame_channelTimedOut (cmd : XCmd) : Frame u (channelTimedOut c cmd u) := by
  rw [channelTimedOut]
  split
  · exact .refl u
  · next ch _ =>
    have vacated := ((fix_updChan (P := fun _ => True) (u := u) ch (vacate .faulted)).trans fix_disableIdle).frame
    dsimp only
    generalize disableIdle (updChan ch (vacate .faulted) u) = w at vacated ⊢
    split
    · split
      · next m j _ =>
        have lost := vacated.trans (frame_holderLost (n := m))
        refine .ite (.ite (lost.trans (Frame.trans ?_ (fix_syncWait (P := fun _ => True)).frame)) lost) vacated
        split
        · exact .ite (fix_takeChannel (P := fun _ => True) _ j).frame (.refl _)
        · exact .refl _
      · exact vacated
    · exact (fix_updChan (P := fun _ => True) ch _).frame

/-- The command in flight ends. -/
theorem frame_flight (f : Option XFlight) : Frame u { u with xFlight := f } := by constructor <;> intros <;> first | rfl | assumption

/-- The units with what a timed-out command leaves in the crossbar: it was carried out, or may yet be (logs 4, 33). -/
def unanswered (carriedOut : Bool) (cmd : XCmd) (u : Units) : Units :=
  if carriedOut then carryOut cmd u else { lateCarry u with xLate := (lateCarry u).xLate ++ [cmd] }

theorem crossbarOnly_unanswered (carriedOut : Bool) (cmd : XCmd) : CrossbarOnly u (unanswered carriedOut cmd u) := by
  cases carriedOut with
  | false => exact crossbarOnly_lateCarry.trans rfl
  | true => exact crossbarOnly_carryOut cmd

theorem unanswered_prompt (carriedOut : Bool) (cmd : XCmd) (h : u.xLate = []) :
    (unanswered carriedOut cmd u).xbar = (if carriedOut then crossbarDo cmd u.xbar else u.xbar)
      ∧ (unanswered carriedOut cmd u).xLate = if carriedOut then [] else [cmd] := by
  cases carriedOut with
  | false => simp [unanswered, lateCarry_prompt h, h]
  | true => simp [unanswered, carryOut_prompt h, h]

theorem exec_crossbarCommandTimeout {s : State} {f : XFlight} (carriedOut : Bool) (h : s.units.xFlight = some f) :
    exec (.crossbarCommandTimeout carriedOut) s = .next (s.after (atDeadline s.ctx f.deadline)
      (flightEnds f false (atDeadline s.ctx f.deadline) (setChassisBit .crossbarTimeout (unanswered carriedOut f.cmd s.units)))) := by
  rw [show exec (.crossbarCommandTimeout carriedOut) s = execCrossbarCommandTimeout carriedOut s from rfl, execCrossbarCommandTimeout, h]; rfl

/-- The units after the timeout of a CONNECT: its channel's end, the next command, and the settled account. -/
def timedOut (c : Ctx) (ch : Fin 32) (n : Fin 12) (k : Fin 4) (u : Units) : Units :=
  settleAfter c u (sendNext c (channelTimedOut c (.connect ch n k) { u with xFlight := none }))

/-- A SWITCHING channel has no drain that ends. -/
theorem flightEnds_timedOut {k : Fin 4} {d : Nat} (hs : (u.chans.get ch).state = .switching) :
    flightEnds { cmd := .connect ch n k, deadline := d, ignored := false } false c u = timedOut c ch n k u := by
  simp [flightEnds, timedOut, endsDrain, endCommand, hs]

theorem timedOut_chan {k : Fin 4} (hs : (u.chans.get ch).state = .switching) :
    (timedOut c ch n k u).chans.get ch = vacate .faulted (u.chans.get ch) := by
  have hc := channelTimedOut_chan (c := c) (n := n) (k := k) (u := { u with xFlight := none }) hs
  rw [timedOut, parked_settleAfter ch (by rw [sendNext_chans, hc]; exact parked_vacated _), sendNext_chans, hc]

theorem frame_timedOut {k : Fin 4} : Frame u (timedOut c ch n k u).settled :=
  (((frame_flight none).trans (frame_channelTimedOut _)).trans ((fix_sendNext (P := fun _ => True)).frame.trans settleAfter_keeps.frame)).settled

/-- What keeps the frame after a change of the crossbar keeps it but for the crossbar. -/
theorem CrossbarOnly.frame (h : CrossbarOnly u v) (fr : Frame v w) : Frame { u with xbar := w.xbar, xLate := w.xLate, xChances := w.xChances } w := by
  rw [fr.xbar, fr.xLate, fr.xChances, ← h]
  exact fr

end

end Sys2Proof.Machine
end

section
open Sys2Proof Sys2Proof.Machine

/-- Settles O52: the channel of a CONNECT that timed out is vacated and FAULTED (`channelTimedOut_chan`), and so parked: nothing that
follows, in the uplink unit or the budget unit, takes it again (`timedOut_chan`). -/
theorem crossbarTimeoutFaultsTheChannel : Obligations.CrossbarTimeoutFaultsTheChannel := by
  intro s ch n k d carriedOut hf hs
  have cross := crossbarOnly_unanswered (u := s.units) carriedOut (.connect ch n k)
  have hs' : ((setChassisBit .crossbarTimeout (unanswered carriedOut (.connect ch n k) s.units)).chans.get ch).state = .switching := by
    rw [cross]; exact hs
  refine ⟨_, exec_crossbarCommandTimeout carriedOut hf, rfl, after_sameOutside _ _ _ rfl rfl, ?_⟩
  rw [flightEnds_timedOut hs', after_units]
  have fr := frame_timedOut (c := atDeadline s.ctx d) (ch := ch) (n := n) (k := k)
    (u := setChassisBit .crossbarTimeout (unanswered carriedOut (.connect ch n k) s.units))
  have hc := timedOut_chan (c := atDeadline s.ctx d) (n := n) (k := k) hs'
  refine ⟨fr.chassisBits _ (setChassisBit_flag _ _), (congrArg Chan.state hc).trans rfl, (congrArg Chan.held hc).trans rfl,
    (congrArg Chan.cmd hc).trans rfl, fun hl => ?_, cross.frame ((fix_setChassisBit (P := fun _ => True) _).frame.trans fr)⟩
  rw [fr.xbar, fr.xLate]
  exact unanswered_prompt carriedOut _ hl
end

section
/-! PROOFS. A committed row and the units that read it (R171): no unit takes a record out of the touched ones (`settle_touched`), and beyond the
units an accepted row reaches the heartbeat and audit timers alone (`applyRow_eq`). -/

namespace Sys2Proof.Machine

section
variable {u v w : Units} {c : Ctx} {n : Fin 12}

/-! ### The touched records (R150, R157) -/

/-- The same records are touched. -/
def SameTouched (u v : Units) : Prop := v.touched = u.touched

theorem SameTouched.refl (u : Units) : SameTouched u u := rfl

theorem SameTouched.trans (a : SameTouched u v) (b : SameTouched v w) : SameTouched u w := Eq.trans b a

theorem SameTouched.ite {p : Prop} [Decidable p] (a : SameTouched u v) (b : SameTouched u w) : SameTouched u (if p then v else w) := by
  split <;> assumption

theorem SameTouched.foldl {α : Type} {f : Units → α → Units} (h : ∀ u a, SameTouched u (f u a)) (l : List α) (u : Units) :
    SameTouched u (l.foldl f u) :=
  List.foldlRecOn (motive := SameTouched u) l f (.refl u) (fun _ hv a _ => hv.trans (h _ a))

theorem touched_updSlot (f : Slot → Slot) : SameTouched u (u.updSlot n f) := rfl
theorem touched_updZone (z : Fin 3) (f : Zone → Zone) : SameTouched u (u.updZone z f) := rfl
theorem touched_setSlotBit (b : SlotBit) : SameTouched u (setSlotBit n b u) := rfl
theorem touched_setChassisBit (b : ChassisBit) : SameTouched u (setChassisBit b u) := rfl

theorem Wired.touched (h : Wired u v) : SameTouched u v := h.view Units.touched

theorem touched_releaseSlot : SameTouched u (releaseSlot c n u) := (wired_releases (activeOf u n)).touched

theorem touched_powerOff : SameTouched u (powerOff c n u) := touched_releaseSlot

theorem touched_cutToSettling : SameTouched u (cutToSettling c n u) :=
  .ite (touched_powerOff.trans (touched_updSlot _)) (.refl u)

theorem touched_cutToFault (r : FaultReason) : SameTouched u (cutToFault c n r u) :=
  .ite (((touched_powerOff.trans (touched_updSlot _)).trans (touched_setSlotBit _)).trans (touched_setChassisBit _)) (.refl u)

theorem touched_startCharge (k : Nat) : SameTouched u (startCharge c n k u) := by
  rw [startCharge]
  exact .ite (touched_cutToFault (u := (toGrantEnd n u).updSlot n _) _) (.ite rfl rfl)

theorem touched_holdSlot : SameTouched u (holdSlot c n u) := by
  rw [holdSlot]
  split
  case h_1 => rfl
  case h_5 => rfl
  all_goals exact touched_cutToSettling

/-! ### The budget unit -/

theorem touched_recompute : SameTouched u (recompute c u) := by
  rw [SameTouched, recompute]
  dsimp only
  split <;> rfl

theorem touched_markVictim : SameTouched u (markVictim n u) := by
  rw [markVictim]
  split <;> rfl

theorem touched_cutVictim : SameTouched u (cutToSettling c n (markVictim n u)) := touched_markVictim.trans touched_cutToSettling

theorem touched_emergencyShed : SameTouched u (emergencyShed c u) :=
  .ite (.refl u) (SameTouched.foldl (f := emergencyOne c) (fun u _ => .ite touched_cutVictim (.refl u)) _ u)

theorem touched_capOne : SameTouched u (capOne c u n) := by
  rw [capOne]
  refine .ite (.refl u) ?_
  dsimp only
  split <;> rfl

theorem touched_shedDecision : SameTouched u (shedDecision c u) :=
  .ite rfl (.ite (.ite touched_emergencyShed touched_emergencyShed) (.ite rfl (.refl u)))

theorem touched_deficitHandling : SameTouched u (deficitHandling c u) :=
  .ite ((SameTouched.foldl (f := capOne c) (fun _ _ => touched_capOne) _ u).trans touched_shedDecision) (.refl u)

theorem touched_losePower : SameTouched u (losePower c u) := by
  have cut := SameTouched.foldl (f := fun u n => cutToSettling c n (markVictim n u)) (fun _ _ => touched_cutVictim)
    ((indices 12).filter (fun n => powered (u.slot n))) (setChassisBit .powerLost u)
  exact SameTouched.ite (p := ((indices 12).filter (fun n => powered (u.slot n))).isEmpty = true) cut cut

theorem touched_supplyEmergency : SameTouched u (supplyEmergency c u) := .ite (.ite rfl rfl) (.ite touched_losePower (.refl u))

theorem touched_restoreOne : SameTouched u (restoreOne c u n) := .ite (.refl u) (.ite rfl rfl)

theorem touched_applyGrant (e : WaitEntry) : SameTouched u (applyGrant c e u) := by
  rw [applyGrant]
  split
  · exact touched_startCharge _
  · rfl
  · rfl

theorem touched_queueScan (fuel : Nat) : SameTouched u (queueScan c fuel u) := by
  induction fuel generalizing u with
  | zero => rfl
  | succ fuel ih =>
    rw [queueScan]
    split
    · rfl
    · next gone e rest _ =>
      exact (touched_applyGrant (u := { u with waitQ := gone.map skipped ++ rest }) e).trans ih

theorem touched_restoreAndScan : SameTouched u (restoreAndScan c u) := by
  have restored : SameTouched u (restoration c u) := SameTouched.foldl (f := restoreOne c) (fun _ _ => touched_restoreOne) _ u
  have scanned : SameTouched u (if (restoration c u).capped.any (fun n => !passedOver (restoration c u) n) = true then restoration c u
      else queueScan c (restoration c u).waitQ.length (restoration c u)) := .ite restored (restored.trans (touched_queueScan _))
  exact .ite (.ite (scanned.trans wired_serveWait.touched) scanned) (.refl u)

theorem touched_settle : SameTouched u (settle c u) :=
  .ite ((((touched_recompute.trans touched_supplyEmergency).trans touched_deficitHandling).trans touched_recompute).trans
    touched_restoreAndScan) (.refl u)

theorem touched_settleAfter : SameTouched v (settleAfter c u v) := .ite touched_settle (.ite touched_restoreAndScan (.refl v))

/-! ### What each row acts on (R171) -/

theorem touched_applySlotRow : SameTouched u (applySlotRow c n u) := by
  have enabled : SameTouched u (if (u.slot n).state = .empty then
      (if (rowEnable c n && !(u.slot n).enabled && presLLevel c n) = true then
        enterSeating c n (u.updSlot n (fun x => { x with enabled := rowEnable c n }))
      else u.updSlot n (fun x => { x with enabled := rowEnable c n })) else u) := .ite (.ite rfl rfl) rfl
  have position (v : Units) : SameTouched v (repositionWait c n v) := by rw [repositionWait]; split <;> rfl
  exact (enabled.trans (.ite touched_holdSlot (.refl _))).trans ((position _).trans touched_settleAfter)

theorem touched_enforceFloor (z : Fin 3) : SameTouched u (enforceFloor c z u) := .ite rfl (.refl u)

theorem touched_applyLimitRow (z : Fin 3) (old : Nat) : SameTouched u (applyLimitRow c z old u) := by
  have floor := touched_enforceFloor (c := c) (u := u) z
  exact SameTouched.trans (.ite floor (floor.trans (touched_updZone z _))) touched_settleAfter

theorem touched_applyThermalRow : SameTouched u (applyThermalRow c u) := by
  have refresh := SameTouched.foldl (f := fun u n => refreshZoneInput c n u) (fun _ _ => rfl) (indices 12) u
  refine refresh.trans (.foldl (fun v n => ?_) _ _)
  split
  · exact .ite rfl (.refl v)
  · exact .refl v

end

/-- An accepted row changes the units without untouching a record, and the heartbeat and audit timers; nothing else (R171). -/
theorem applyRow_eq (old : Ctx) (r : Fin 25) (s : State) : ∃ (hb audit : Timer) (u : Units), SameTouched s.units u ∧ applyRow old r s =
    { s with ctx := { s.ctx with sup := { s.ctx.sup with hbTimer := hb }, cfg := { s.ctx.cfg with auditTimer := audit } }, units := u } := by
  have units (u : Units) (h : SameTouched s.units u) : ∃ (hb audit : Timer) (v : Units), SameTouched s.units v ∧ { s with units := u } =
      { s with ctx := { s.ctx with sup := { s.ctx.sup with hbTimer := hb }, cfg := { s.ctx.cfg with auditTimer := audit } }, units := v } :=
    ⟨_, _, u, h, rfl⟩
  rw [applyRow]
  split
  · exact units _ touched_settle
  split
  · rw [applyRow1]
    split <;> split <;> exact ⟨_, _, _, touched_settle, rfl⟩
  split
  · exact units _ touched_applySlotRow
  split
  · split
    · exact units _ rfl
    · exact units _ (touched_applyLimitRow _ _)
  split
  · exact units _ rfl
  split
  · exact units _ rfl
  · exact units _ touched_applyThermalRow

end Sys2Proof.Machine
end

section
/-! PROOFS. Most commands act beside the link ports: they leave ALERT, the write queue and the links' requests alone (`OffPorts`), so that what
judges ALERT at the end of a step and what judges a link's head stays (R156, R160). -/

namespace Sys2Proof.Machine

/-- The level of ALERT, the kind of the restart, and a loaded configuration stay (R156). -/
structure AlertKept (s t : State) : Prop where
  alert : t.alert = s.alert
  cold : t.ctx.sup.cold = s.ctx.sup.cold
  loaded : configLoaded s.ctx = true → configLoaded t.ctx = true

/-- The write queue, the links' requests and what judges them stay (R160, R164). -/
structure PortsKept (s t : State) : Prop where
  memOk : t.ctx.sup.memOk = s.ctx.sup.memOk
  begun : t.ctx.sup.phase = .deviceId → s.ctx.sup.phase = .deviceId
  wq : t.wq = s.wq
  fifo : ∀ l, (t.links.get l).fifo = (s.links.get l).fifo
  judged : ∀ l, (t.links.get l).judged = (s.links.get l).judged

/-- Neither ALERT nor the link ports see a difference. -/
structure OffPorts (s t : State) : Prop extends AlertKept s t, PortsKept s t

section
variable {s t v : State}

theorem AlertKept.trans (a : AlertKept s t) (b : AlertKept t v) : AlertKept s v :=
  ⟨b.alert.trans a.alert, b.cold.trans a.cold, fun h => b.loaded (a.loaded h)⟩

theorem AlertKept.of_sup (ha : t.alert = s.alert) (hs : t.ctx.sup = s.ctx.sup) : AlertKept s t :=
  ⟨ha, by rw [hs], fun h => by rw [configLoaded, hs]; exact h⟩

namespace OffPorts

theorem refl (s : State) : OffPorts s s := ⟨.of_sup rfl rfl, rfl, id, rfl, fun _ => rfl, fun _ => rfl⟩

theorem trans (a : OffPorts s t) (b : OffPorts t v) : OffPorts s v :=
  ⟨a.toAlertKept.trans b.toAlertKept, b.memOk.trans a.memOk, fun h => a.begun (b.begun h), b.wq.trans a.wq,
    fun l => (b.fifo l).trans (a.fifo l), fun l => (b.judged l).trans (a.judged l)⟩

theorem ite {p : Prop} [Decidable p] (a : OffPorts s t) (b : OffPorts s v) : OffPorts s (if p then t else v) := by split <;> assumption

/-- The units, the inputs, the rows, the generators or the internal reads change. -/
theorem of_sup (ha : t.alert = s.alert) (hs : t.ctx.sup = s.ctx.sup) (hw : t.wq = s.wq) (hl : t.links = s.links) : OffPorts s t :=
  ⟨.of_sup ha hs, by rw [hs], by rw [hs]; exact id, hw, fun _ => by rw [hl], fun _ => by rw [hl]⟩

theorem act (f : Ctx → Units → Units) (s : State) : OffPorts s (s.act f) := .of_sup rfl rfl rfl rfl
theorem settled (f : Ctx → Units → Units) (s : State) : OffPorts s (actAndSettle f s) := act _ s
theorem setCfg (f : Cfg → Cfg) (s : State) : OffPorts s (s.setCfg f) := .of_sup rfl rfl rfl rfl
theorem touch (r : RecId) (s : State) : OffPorts s (s.touch r) := .of_sup rfl rfl rfl rfl

/-- Supervision changes, and its phase stays or is one that follows the configuration load (R177). -/
theorem setSup {f : Sup → Sup} (hc : (f s.ctx.sup).cold = s.ctx.sup.cold) (hm : (f s.ctx.sup).memOk = s.ctx.sup.memOk)
    (hp : (f s.ctx.sup).phase = s.ctx.sup.phase ∨ ((f s.ctx.sup).phase ≠ .deviceId ∧ (f s.ctx.sup).phase ≠ .rows)) :
    OffPorts s (s.setSup f) := by
  refine ⟨⟨rfl, hc, fun h => ?_⟩, hm, fun h => ?_, rfl, fun _ => rfl, fun _ => rfl⟩
  · rcases hp with hp | ⟨hd, hr⟩
    · rw [configLoaded, setSup_sup, hp]; exact h
    · simp [configLoaded, hd, hr]
  · rcases hp with hp | ⟨hd, -⟩
    · rw [← hp]; exact h
    · exact absurd h hd

/-- A phase that follows the configuration load begins. -/
theorem setPhase {p : Phase} (hd : p ≠ .deviceId) (hr : p ≠ .rows) (s : State) : OffPorts s (s.setSup (fun x => { x with phase := p })) :=
  setSup rfl rfl (.inr ⟨hd, hr⟩)

/-- Takes, or the credit state, of links change. -/
theorem of_links (ha : t.alert = s.alert) (hs : t.ctx.sup = s.ctx.sup) (hw : t.wq = s.wq)
    (hl : ∀ l, (t.links.get l).fifo = (s.links.get l).fifo ∧ (t.links.get l).judged = (s.links.get l).judged) : OffPorts s t :=
  ⟨.of_sup ha hs, by rw [hs], by rw [hs]; exact id, hw, fun l => (hl l).1, fun l => (hl l).2⟩

theorem updLink (l : Fin 13) {f : Link → Link} (hf : ∀ x, (f x).fifo = x.fifo ∧ (f x).judged = x.judged) (s : State) :
    OffPorts s (s.updLink l f) :=
  .of_links rfl rfl rfl fun k => by
    rw [updLink_links, updAt_get]
    split
    · exact hf _
    · exact ⟨rfl, rfl⟩

/-! ### Rows and manager commands (R153, R171) -/

theorem applyRow (old : Ctx) (r : Fin 25) (s : State) : OffPorts s (applyRow old r s) := by
  obtain ⟨hb, audit, u, -, e⟩ := applyRow_eq old r s
  rw [e]
  exact (setSup (f := fun x => { x with hbTimer := hb }) rfl rfl (.inl rfl)).trans (.of_sup rfl rfl rfl rfl)

theorem takeRow (r : Fin 25) (bs : Row) (s : State) : OffPorts s (takeRow r bs s) := by
  rw [Machine.takeRow]
  split
  iterate 2 exact .of_sup rfl rfl rfl rfl
  · refine trans ?_ (.applyRow s.ctx r _)
    exact .of_sup rfl rfl rfl rfl

theorem startAudit (s : State) : OffPorts s (startAudit s) := .of_sup rfl rfl rfl rfl

theorem slotCmd (kind : Nat) (n : Fin 12) (s : State) : OffPorts s (slotCmd kind n s).2 := by
  rw [Machine.slotCmd]
  split
  · exact .of_sup rfl rfl rfl rfl
  split
  · exact .of_sup rfl rfl rfl rfl
  split <;> exact .of_sup rfl rfl rfl rfl

theorem cmdClearFailsafe (s : State) : OffPorts s (cmdClearFailsafe s).2 := by
  rw [Machine.cmdClearFailsafe]
  split
  · exact .refl s
  split
  · exact .refl s
  · exact (setSup (f := fun x => { x with mode := .normal }) rfl rfl (.inl rfl)).trans (.act _ _)

theorem runCommand (kind target : Nat) (s : State) : OffPorts s (runCommand kind target s).2 := by
  rw [Machine.runCommand]
  split
  · split
    · exact .slotCmd _ _ s
    · exact .refl s
  split
  · exact .of_sup rfl rfl rfl rfl
  split
  · split
    · exact .refl s
    · exact .startAudit s
  split
  · exact .cmdClearFailsafe s
  split
  · exact setSup (f := fun x => { x with restartArmed := true }) rfl rfl (.inl rfl)
  · exact .refl s

theorem takeCommand (bs : List Byte) (s : State) : OffPorts s (takeCommand bs s) :=
  ((runCommand _ _ s).trans (setSup (by rfl) (by rfl) (.inl (by rfl)))).trans (.touch _ _)

/-! ### Record takes (R148 to R151) -/

theorem handOver (t : TakeRec) (bs : List Byte) (s : State) : OffPorts s (handOver t bs s) := by
  cases t with
  | command => exact .takeCommand bs s
  | row r => exact .takeRow r bs s
  | identity n | power n | report n | claim n | answer n => exact .of_sup rfl rfl rfl rfl

theorem setTakes (l : Fin 13) (takes : List Take) (s : State) : OffPorts s (s.updLink l (fun x => { x with takes := takes })) :=
  updLink l (f := fun x => { x with takes := takes }) (fun _ => ⟨rfl, rfl⟩) s

theorem discardTakes (n : Fin 12) (s : State) : OffPorts s (discardTakes n s) :=
  updLink (slotLink n) (f := fun x => { x with takes := discardFirst x.takes }) (fun _ => ⟨rfl, rfl⟩) s

theorem completeTake (l : Fin 13) (bs : List Byte) (s : State) : OffPorts s (completeTake l bs s) := by
  rw [Machine.completeTake]
  split
  · exact .refl s
  · exact .ite (.setTakes l _ s) ((setTakes l _ s).trans (.handOver _ bs _))

theorem runTakes (l : Fin 13) (fuel : Nat) (s : State) : OffPorts s (runTakes l fuel s) := by
  induction fuel generalizing s with
  | zero => exact .refl s
  | succ fuel ih =>
    rw [Machine.runTakes]
    split
    · exact .refl s
    split
    · exact (completeTake l _ s).trans (ih _)
    · exact .of_sup rfl rfl rfl rfl

theorem commitRecords (l : Fin 13) (rs : List TakeRec) (s : State) : OffPorts s (commitRecords l rs s) := by
  have marked : OffPorts s (markChanged rs s) := .ite (.setCfg _ s) (.refl s)
  exact (marked.trans (.setTakes l _ _)).trans (.runTakes l _ _)

theorem takeRead (l : Fin 13) (s : State) : OffPorts s (takeRead l s) := by
  rw [Machine.takeRead]
  split
  · exact .refl s
  · exact (completeTake l _ s).trans (.runTakes l _ _)

/-! ### Supervision (R174 to R176) -/

theorem enterFailsafe (s : State) : OffPorts s (enterFailsafe s) :=
  ((setSup rfl rfl (.inl rfl)).trans (.act _ _)).trans (.act _ _)

theorem heartbeatTaken (v : Byte) (s : State) : OffPorts s (heartbeatTaken v s) := .ite (.refl s) (.setSup rfl rfl (.inl rfl))

theorem heartbeatLost (s : State) : OffPorts s (heartbeatLost s) := by
  have late : OffPorts s ((s.setSup (fun x => { x with hbTimer := none, served := false })).act (fun _ u => setChassisBit .heartbeatLate u)) :=
    (setSup rfl rfl (.inl rfl)).trans (.act _ _)
  exact .ite (late.trans (.enterFailsafe _)) late

theorem auditExpires (s : State) : OffPorts s (auditExpires s) := .ite (.setCfg _ s) ((setCfg _ s).trans (.startAudit _))

theorem auditRead (r : Fin 25) (bs : List Byte) (s : State) : OffPorts s (auditRead r bs s) := by
  have judged : OffPorts s (judgeRow r bs s) := .ite (.refl s) (.ite (.refl s) ((setCfg _ s).trans (.touch _ _)))
  rw [Machine.auditRead, nextAudit]
  split
  · exact judged.trans (.of_sup rfl rfl rfl rfl)
  · exact judged.trans ((setCfg _ _).trans (.act _ _))

/-! ### Start-up after the configuration load (R177) -/

theorem openPorts (s : State) : OffPorts s (openPorts s) := .of_links rfl rfl rfl fun l => by rw [Machine.openPorts, updAll_get]; exact ⟨rfl, rfl⟩

theorem leaveStartup (s : State) : OffPorts s (leaveStartup s) := by
  rw [Machine.leaveStartup]
  refine trans (((setSup ?_ ?_ (.inr ?_)).trans (.setCfg _ _)).trans ((act _ _).trans (.ite (.act _ _) (.enterFailsafe _)))) (.openPorts _)
  · rfl
  · rfl
  · exact ⟨nofun, nofun⟩

theorem finishCold (s : State) : OffPorts s (finishCold s) :=
  ((setSup (by rfl) (by rfl) (.inl (by rfl))).trans (.act _ _)).trans (.leaveStartup _)

theorem finishWarm (s : State) : OffPorts s (finishWarm s) :=
  (((act rebuildChannels s).trans (setSup (by rfl) (by rfl) (.inl (by rfl)))).trans ((act _ _).trans (.act _ _))).trans (.leaveStartup _)

theorem adoptFrom (fuel k : Nat) (s : State) : OffPorts s (adoptFrom fuel k s) := by
  induction fuel generalizing s k with
  | zero => exact .finishWarm s
  | succ fuel ih =>
    rw [Machine.adoptFrom]
    split
    · split
      · exact (setPhase (p := .adopt ⟨k, _⟩) nofun nofun s).trans (.of_sup rfl rfl rfl rfl)
      · exact (act _ s).trans (ih _ _)
    · exact .finishWarm s

theorem adoptRead (n : Fin 12) (s : State) : OffPorts s (adoptRead n s) := (act _ s).trans (.adoptFrom _ _ _)

theorem buildAll (image : Fin 26 → List Byte) (s : State) : OffPorts s (buildAll image s) := by
  have built : OffPorts s { builtState image s with pwm := restGens (builtState image s).units s.pwm } := .of_sup rfl rfl rfl rfl
  rw [buildAll_eq]
  split
  · exact (built.trans (.setPhase (p := .adopt 0) nofun nofun _)).trans (.adoptFrom 12 0 _)
  · exact built.trans (.finishCold _)

theorem recordsRead (s : State) : OffPorts s (recordsRead s) := by
  rw [Machine.recordsRead]
  refine trans (t := { s with ctx := takeStoredCtx s s.ctx, units := touchOwned (setRestart (takeStored s s.ctx s.units)) }) ?_ (.buildAll _ _)
  exact ⟨⟨rfl, rfl, id⟩, rfl, id, rfl, fun _ => rfl, fun _ => rfl⟩

theorem rowsRead (s : State) : OffPorts s (rowsRead s) := by
  obtain ⟨l, -, e⟩ := rowsRead_eq s
  rw [e]
  exact (setPhase (p := .records) nofun nofun s).trans (.of_sup rfl rfl rfl rfl)

/-! ### The shapes of commands -/

theorem atTimer {f : State → State} (hf : ∀ s, OffPorts s (f s)) (t : Timer) (s : State) : OffPorts s (atTimer t f s) := by
  cases t with
  | none => exact .refl s
  | some d => exact trans (t := { s with ctx := atDeadline s.ctx d }) (.of_sup rfl rfl rfl rfl) (hf _)

theorem onPin {f : State → State} (hf : ∀ s, OffPorts s (f s)) (p : Pin) (level : Bool) (s : State) : OffPorts s (onPin p level f s) := by
  rw [Machine.onPin]
  split
  · next c hc => exact trans (t := { s with ctx := c }) (.of_sup rfl (debounced_sup hc) rfl rfl) (hf _)
  · exact .refl s

theorem slotEvent (n : Fin 12) (f : Ctx → Units → Units) (s : State) : OffPorts s (slotEvent n f s) := .ite (.act _ s) (.refl s)
theorem slotAct (n : Fin 12) (f : Ctx → Units → Units) (s : State) : OffPorts s (slotAct n f s) := .ite (.act f s) (.refl s)

theorem moduleLost (b : Fin 14) (s : State) : OffPorts s (moduleLost b s) := .of_sup rfl rfl rfl rfl

theorem completeInternal (s : State) : OffPorts s (completeInternal s) := by
  rw [Machine.completeInternal]
  split
  · next r rest _ _ =>
    refine trans (t := { s with reads := rest, port := none }) (.of_sup rfl rfl rfl rfl) ?_
    cases r with
    | rows a len last => exact .ite (.rowsRead _) (.refl _)
    | records a len last => exact .ite (.recordsRead _) (.refl _)
    | adopt n => exact .adoptRead n _
    | take l => exact .takeRead l _
    | audit row => exact .auditRead row _ _
  · exact .of_sup rfl rfl rfl rfl
  · exact .refl s

theorem grantPort (s : State) : OffPorts s (grantPort s) := by
  rw [Machine.grantPort]
  refine .ite (.refl s) (.ite (.of_sup rfl rfl rfl rfl) ?_)
  split
  · exact .of_sup rfl rfl rfl rfl
  · exact .refl s

end OffPorts

/-- The commands that act on the links' requests or on the write queue, and those that begin start-up (R152 to R169, R177). -/
def actsOnPorts : Instr → Bool
  | .coldStart _ | .warmRestart | .deviceIdRead _ | .packetReceived _ _ | .headJudgment _ | .writeAdmission _ | .eventWordClear _
  | .heartbeatWrite | .readComplete | .writeDrain | .writeBackPlacement => true
  | _ => false

/-- The command ends in a state that differs from `s` beside the ports alone, before its records and ALERT follow. -/
def EndsOffPorts (s : State) (o : Host.Outcome State Fault Refusal) : Prop := ∃ t, o = done s t ∧ OffPorts s t

theorem OffPorts.ends (h : OffPorts s t) : EndsOffPorts s (done s t) := ⟨t, rfl, h⟩

theorem exec_offPorts (i : Instr) (h : actsOnPorts i = false) (s : State) : EndsOffPorts s (exec i s) := by
  cases i with
  | coldStart _ | warmRestart | deviceIdRead _ | packetReceived _ _ | headJudgment _ | writeAdmission _ | eventWordClear _
  | heartbeatWrite | readComplete | writeDrain | writeBackPlacement => cases h
  | internalReadComplete => exact (OffPorts.completeInternal s).ends
  | arbiterGrant => exact (OffPorts.grantPort s).ends
  | rawInputChange pin level =>
    refine OffPorts.ends ?_
    exact .of_sup rfl (rawChange_sup s.ctx pin level) rfl rfl
  | presLLoss slot =>
    exact OffPorts.ends (.onPin (fun v => .ite (.refl v) ((OffPorts.discardTakes slot v).trans (.slotEvent slot _ _))) _ _ s)
  | leverOpening slot => exact (OffPorts.onPin (fun v => .ite (.slotEvent slot _ v) (.refl v)) _ _ s).ends
  | presLArrival slot | presSClosing slot | pgoodAssertion slot => exact (OffPorts.onPin (.slotAct slot _) _ _ s).ends
  | pgoodLoss slot | railFltAssertion slot => exact (OffPorts.onPin (.slotEvent slot _) _ _ s).ends
  | overrideRelease _ | railFltRelease _ => exact (OffPorts.onPin .refl _ _ s).ends
  | overrideAssertion _ | moduleArrival _ | psuOkLoss _ | psuOkReturn _ | uplLinkFall _ | uplLinkRise _ =>
    exact (OffPorts.onPin (.settled _) _ _ s).ends
  | moduleLoss bay => exact (OffPorts.onPin (.moduleLost bay) _ _ s).ends
  | tachPulse _ | sensorPollEnd _ | senseConversion _ _ => exact (OffPorts.act _ s).ends
  | identityReadAttemptEnd _ => exact (OffPorts.settled _ s).ends
  | seatingTimerExpiry _ | quiesceDeadlineExpiry _ | chargeTimeout _ | capGraceExpiry _ | shedDelayExpiry | updateTimerExpiry _
  | tachGateClose => exact (OffPorts.atTimer (.settled _) _ s).ends
  | settlingTimerExpiry _ | reportAgeTimeout _ | pollTimerExpiry | retryDelayExpiry | sampleTimerExpiry _ | drainTimerExpiry _ =>
    exact (OffPorts.atTimer (.act _) _ s).ends
  | groupStart =>
    refine OffPorts.ends ?_
    exact .of_sup rfl rfl rfl rfl
  | crossbarAcknowledge =>
    refine OffPorts.ends ?_
    split
    · exact .act _ s
    · exact .act _ s
  | crossbarCommandTimeout carriedOut =>
    refine OffPorts.ends ?_
    split
    · exact .atTimer (.act _) _ s
    · exact .refl s
  | heartbeatTimerExpiry => exact (OffPorts.atTimer .heartbeatLost _ s).ends
  | auditPeriodExpiry => exact (OffPorts.atTimer .auditExpires _ s).ends

end
end Sys2Proof.Machine
end

section
/-! PROOFS. ALERT (R156): a command ends with ALERT judged again or with ALERT as it was (`AlertKept.follows`), and a restart begins with it
deasserted or kept. -/

namespace Sys2Proof.Machine

section
variable {s t v : State}

/-! ### The commands at the link ports -/

namespace AlertKept

theorem refl (s : State) : AlertKept s s := (OffPorts.refl s).toAlertKept

theorem ite {p : Prop} [Decidable p] (a : AlertKept s t) (b : AlertKept s v) : AlertKept s (if p then t else v) := by split <;> assumption

theorem respond (l : Fin 13) (tag : Nat) (r : RespResult) (data : List Byte) (s : State) : AlertKept s (respond l tag r data s) := .of_sup rfl rfl

theorem enterQueue (l : Fin 13) (r : Request) (a : Nat) (s : State) : AlertKept s (enterQueue l r a s) := .of_sup rfl rfl

theorem deviceIdEnds (h : s.ctx.sup.phase = .deviceId) (answered : Bool) : AlertKept s (deviceIdEnds answered s) := by
  have unloaded {t : State} (ha : t.alert = s.alert) (hc : t.ctx.sup.cold = s.ctx.sup.cold) : AlertKept s t :=
    ⟨ha, hc, fun hl => by rw [configLoaded, h] at hl; cases hl⟩
  rw [Machine.deviceIdEnds]
  split
  · exact unloaded rfl rfl
  · refine trans (unloaded ?_ ?_) (OffPorts.buildAll _ _).toAlertKept <;> rfl

theorem receive (l : Fin 13) (bs : List Byte) (s : State) : AlertKept s (receive l bs s) := by
  rw [Machine.receive]
  split
  · split <;> exact .of_sup rfl rfl
  · exact .of_sup rfl rfl

theorem judgeHead (l : Fin 13) (s : State) : AlertKept s (judgeHead l s) := by
  rw [Machine.judgeHead]
  split
  · exact .refl s
  split
  · exact .refl s
  split <;> exact .of_sup rfl rfl

theorem admitWrite (l : Fin 13) (s : State) : AlertKept s (admitWrite l s) := by
  rw [Machine.admitWrite]
  split
  · exact .refl s
  · next r a _ => exact (enterQueue l r a s).trans (OffPorts.commitRecords _ _ _).toAlertKept

theorem admitHeartbeat (s : State) : AlertKept s (admitHeartbeat s) := by
  rw [Machine.admitHeartbeat]
  split
  · exact .refl s
  · next r a _ => exact (enterQueue 0 r a s).trans (OffPorts.heartbeatTaken _ _).toAlertKept

theorem admitClear (l : Fin 13) (s : State) : AlertKept s (admitClear l s) := by
  rw [Machine.admitClear]
  split
  · exact .refl s
  · exact .of_sup rfl rfl

theorem completeRead (s : State) : AlertKept s (completeRead s) := by
  rw [Machine.completeRead]
  split
  · split
    · split <;> exact .of_sup rfl rfl
    · exact .of_sup rfl rfl
  · exact .refl s

theorem completeDrain (s : State) : AlertKept s (completeDrain s) := by
  rw [Machine.completeDrain]
  split
  iterate 2 exact .of_sup rfl rfl
  · exact .refl s

end AlertKept

/-! ### The end of a command -/

/-- ALERT still follows in the next state, and has kept its level in the early steps of a warm restart (R156). -/
def NextFollows (s : State) (o : Host.Outcome State Fault Refusal) : Prop :=
  ∀ t, o = .next t → (AlertFollows s → AlertFollows t) ∧ (t.ctx.sup.cold = false → alertLive t.ctx = false → t.alert = s.alert)

/-- ALERT is live from the configuration load on after a cold start (R156). -/
theorem alertLive_cold {c : Ctx} (h : c.sup.cold = true) : alertLive c = configLoaded c := by rw [alertLive, h]; rfl

theorem AlertKept.follows (k : AlertKept s t) : NextFollows s (done s t) := by
  intro _ e
  cases e
  have dead (hl : alertLive t.ctx = false) : (Machine.finish s t).alert = s.alert := by
    rw [Machine.finish, hl, ← k.alert]; rfl
  refine ⟨fun h => ⟨fun hl => ?_, fun hc hl => ?_⟩, fun _ hl => dead hl⟩
  · have live : alertLive t.ctx = true := hl
    rw [Machine.finish, live]; rfl
  · have cold : s.ctx.sup.cold = true := k.cold.symm.trans hc
    have before : alertLive s.ctx = false := by
      rw [alertLive_cold cold, ← Bool.not_eq_true]
      intro loaded
      have after : alertLive t.ctx = true := (alertLive_cold hc).trans (k.loaded loaded)
      exact Bool.false_ne_true (hl.symm.trans after)
    exact (dead hl).trans (h.2 cold before)

theorem nextFollows_beginCold (cause : RestartCause) : NextFollows s (.next (beginCold cause s)) := by
  intro _ e
  cases e
  exact ⟨fun _ => ⟨nofun, fun _ _ => rfl⟩, nofun⟩

theorem nextFollows_beginWarm (cause : RestartCause) (h : v.alert = s.alert) : NextFollows s (.next (beginWarm cause v)) := by
  intro _ e
  cases e
  exact ⟨fun _ => ⟨nofun, nofun⟩, fun _ _ => h⟩

/-- Neither ALERT nor the event word has changed, nor what masks it. -/
theorem nextFollows_same (hl : alertLive t.ctx = alertLive s.ctx) (hm : alertLevel t.ctx t.units = alertLevel s.ctx s.units)
    (hc : t.ctx.sup.cold = s.ctx.sup.cold) (ha : t.alert = s.alert) : NextFollows s (.next t) := by
  intro _ e
  cases e
  exact ⟨fun h => by rw [AlertFollows, hl, hm, hc, ha]; exact h, fun _ _ => ha⟩

theorem nextFollows_placeNext : NextFollows s (.next (placeNext s)) := by
  rw [placeNext]
  split
  · split
    · dsimp only
      split
      · exact nextFollows_beginWarm .restartCommand rfl
      · exact nextFollows_same rfl rfl rfl rfl
    · exact nextFollows_same rfl rfl rfl rfl
  · exact nextFollows_same rfl rfl rfl rfl

theorem nextFollows_exec (i : Instr) (s : State) : NextFollows s (exec i s) := by
  by_cases hp : actsOnPorts i = false
  · obtain ⟨t, e, k⟩ := exec_offPorts i hp s
    rw [e]
    exact k.toAlertKept.follows
  · cases i with
    | coldStart cause => exact nextFollows_beginCold _
    | warmRestart => exact nextFollows_beginWarm .restartLine rfl
    | deviceIdRead answered =>
      refine AlertKept.follows ?_
      split
      · next hd => exact .deviceIdEnds hd answered
      · exact .refl s
    | packetReceived l bs => exact (AlertKept.receive l bs s).follows
    | headJudgment l => exact (AlertKept.judgeHead l s).follows
    | writeAdmission l => exact (AlertKept.admitWrite l s).follows
    | eventWordClear l => exact (AlertKept.admitClear l s).follows
    | heartbeatWrite => exact (AlertKept.admitHeartbeat s).follows
    | readComplete => exact (AlertKept.completeRead s).follows
    | writeDrain => exact (AlertKept.completeDrain s).follows
    | writeBackPlacement => exact nextFollows_placeNext
    | _ => exact absurd rfl hp

/-- A command runs on the queue's rest; a tick changes the clock alone. -/
theorem nextFollows_step (s : State) : NextFollows s (step s) := by
  rw [step]
  split
  · next i rest _ => exact nextFollows_exec i { s with pending := rest }
  · exact nextFollows_same rfl rfl rfl rfl

end

/-! ### The status byte (R168) -/

theorem flagByte_cons_zero (b : Bool) (l : List Bool) : (flagByte (b :: l)).getLsbD 0 = b := by
  rw [flagByte, BitVec.getLsbD_ofNat, Nat.testBit_zero]
  cases b <;> simp

theorem flagByte_cons_succ (b : Bool) (l : List Bool) {i : Nat} (hi : i + 1 < 8) :
    (flagByte (b :: l)).getLsbD (i + 1) = (flagByte l).getLsbD i := by
  have half : ((if b then 1 else 0) + 2 * (flagByte l).toNat) / 2 = (flagByte l).toNat := by
    cases b <;> simp
    omega
  rw [flagByte, BitVec.getLsbD_ofNat, Nat.testBit_succ, half, ← BitVec.testBit_toNat]
  simp [hi]

/-- The fifth flag of a flag byte. -/
theorem flagByte_four (a b c d e : Bool) (l : List Bool) : (flagByte (a :: b :: c :: d :: e :: l)).getLsbD 4 = e := by
  rw [flagByte_cons_succ _ _ (by decide), flagByte_cons_succ _ _ (by decide), flagByte_cons_succ _ _ (by decide),
    flagByte_cons_succ _ _ (by decide), flagByte_cons_zero]

theorem linkSlot_slotLink (n : Fin 12) : linkSlot (slotLink n) = some n := by
  rw [linkSlot, dif_pos (by simp [slotLink])]
  rfl

end Sys2Proof.Machine
end

section
open Sys2Proof Sys2Proof.Machine

/-- Settles O6: each command ends with ALERT judged again or kept (`nextFollows_step`), and EVT is the fifth flag of the status byte. -/
theorem alertFollowsTheEventWord : Obligations.AlertFollowsTheEventWord := by
  refine ⟨⟨by decide, fun _ _ => rfl⟩, fun s t h e => (nextFollows_step s t e).1 h, fun s t e => (nextFollows_step s t e).2, fun c u n => ?_,
    fun c u => flagByte_four ..⟩
  rw [statusByte, linkSlot_slotLink]
  exact flagByte_four ..
end

section
/-! PROOFS. What the links' requests and the write queue hold (R147, R159, R160): a judged head has passed the tests, a WRITE brings the data
that its length names, and no queue entry from a link covers a byte that the link may not write. -/

namespace Sys2Proof.Machine

/-- The heads have been judged, and the write queue holds what links may write. -/
structure PortsSound (s : State) : Prop where
  heads : HeadsSound s
  home : WritesStayHome s

section
variable {s t : State} {l : Fin 13} {r : Request} {a : Nat}

/-! ### Tests of a head (R160) -/

/-- The tests read nothing of supervision but whether memory answers. -/
theorem judge_congr {c d : Ctx} (h : c.sup.memOk = d.sup.memOk) (l : Fin 13) (r : Request) : judge c l r = judge d l r := by
  simp only [judge, h]

/-- Without memory no head passes (test 3). -/
theorem judge_noMemory {c : Ctx} (h : c.sup.memOk = false) (l : Fin 13) (r : Request) : judge c l r ≠ none := by
  rw [judge, h]
  split
  · nofun
  split
  · nofun
  · nofun

/-- A WRITE that has passed covers no byte that its link may not write (test 5). -/
theorem judge_write {c : Ctx} (h : judge c l r = none) (hk : r.kind = 1) (ht : writeTarget l r = some a) :
    ∀ i < r.len, byteKind l (wrapAddr a i) ≠ .denied := by
  have covered : coversDenied l a r.len = false := by
    rw [judge, if_neg (by omega)] at h
    split at h
    · cases h
    split at h
    · cases h
    rw [if_neg (by omega), ht] at h
    by_contra hc
    rw [Bool.not_eq_false] at hc
    simp [hc] at h
  intro i hi hd
  have hm : wrapAddr a i ∈ writeSpan a r.len := List.mem_map_of_mem (List.mem_range.mpr hi)
  have := List.any_eq_false.mp covered _ hm
  simp [hd] at this

/-! ### Requests and queue kept -/

theorem PortsKept.sound (k : PortsKept s t) (h : PortsSound s) : PortsSound t := by
  obtain ⟨⟨hmem, hjudged, hdata⟩, hhome⟩ := h
  refine ⟨⟨fun hp => k.memOk.trans (hmem (k.begun hp)), fun l hj => ?_, fun l r hr => hdata l r (by rw [← k.fifo]; exact hr)⟩, ?_⟩
  · obtain ⟨r, rest, hf, hn⟩ := hjudged l (by rw [← k.judged]; exact hj)
    exact ⟨r, rest, by rw [k.fifo]; exact hf, (judge_congr k.memOk l r).trans hn⟩
  · rw [WritesStayHome, k.wq]; exact hhome

/-- The records and ALERT follow. -/
theorem PortsSound.finish (h : PortsSound t) (s : State) : PortsSound (finish s t) := ⟨h.heads, h.home⟩

/-- The write queue changes; what it gains is what its links may write. -/
theorem PortsSound.setQueue (h : PortsSound s) {wq : List QEntry} (hl : t.links = s.links) (hs : t.ctx.sup = s.ctx.sup) (hw : t.wq = wq)
    (hq : ∀ e ∈ wq, e ∈ s.wq ∨ ∀ l, e.source = some l → ∀ i < e.data.length, byteKind l (wrapAddr e.addr i) ≠ .denied) :
    PortsSound t := by
  refine ⟨⟨?_, fun l => ?_, fun l => ?_⟩, fun e he => ?_⟩
  · rw [hs]; exact h.heads.1
  · rw [hl]
    intro hj
    obtain ⟨r, rest, hf, hn⟩ := h.heads.2.1 l hj
    exact ⟨r, rest, hf, (judge_congr (by rw [hs]) l r).trans hn⟩
  · rw [hl]; exact h.heads.2.2 l
  · exact (hq e (hw ▸ he)).elim (h.home e) id

/-- A link's registers change to sound ones. -/
theorem PortsSound.updLink (h : PortsSound s) (l : Fin 13) {f : Link → Link}
    (hj : (f (s.links.get l)).judged = true → ∃ r rest, (f (s.links.get l)).fifo = r :: rest ∧ judge s.ctx l r = none)
    (hd : ∀ r ∈ (f (s.links.get l)).fifo, r.kind = 1 → r.data.length = r.len) : PortsSound (s.updLink l f) := by
  refine ⟨⟨h.heads.1, fun k => ?_, fun k => ?_⟩, h.home⟩ <;> rw [updLink_links, updAt_get] <;> split
  · next e => subst e; exact hj
  · exact h.heads.2.1 k
  · next e => subst e; exact hd
  · exact h.heads.2.2 k

/-- The head leaves with its response (R161). -/
theorem PortsSound.respond (h : PortsSound s) (l : Fin 13) (tag : Nat) (res : RespResult) (data : List Byte) :
    PortsSound (respond l tag res data s) := by
  have left : PortsSound (s.updLink l (fun x => { x with fifo := x.fifo.tail, judged := false })) :=
    h.updLink l nofun (fun r hr => h.heads.2.2 l r (List.mem_of_mem_tail hr))
  exact ⟨left.heads, left.home⟩

/-! ### Packets and heads (R159, R160) -/

/-- A WRITE packet brings as many bytes of data as its length names. -/
theorem parsePacket_data {bs : List Byte} (h : parsePacket bs = some r) (hk : r.kind = 1) : r.data.length = r.len := by
  obtain ⟨⟨-, hlen, -⟩, e⟩ := Option.ite_none_right_eq_some.mp h
  cases e
  dsimp only at hk hlen ⊢
  rw [if_pos hk] at hlen ⊢
  rw [sliceAt, List.length_take, List.length_drop]
  omega

theorem PortsSound.receive (h : PortsSound s) (l : Fin 13) (bs : List Byte) : PortsSound (receive l bs s) := by
  rw [Machine.receive]
  split
  · next r hr =>
    split
    · refine h.updLink l (fun hj => ?_) (fun q hq => ?_)
      · obtain ⟨q, rest, hf, hn⟩ := h.heads.2.1 l hj
        exact ⟨q, rest ++ [r], by simp [hf], hn⟩
      · rcases List.mem_append.mp hq with hq | hq
        · exact h.heads.2.2 l q hq
        · rw [List.mem_singleton.mp hq]; exact parsePacket_data hr
    · exact (OffPorts.act _ s).toPortsKept.sound h
  · exact (OffPorts.act _ s).toPortsKept.sound h

theorem PortsSound.judgeHead (h : PortsSound s) (l : Fin 13) : PortsSound (judgeHead l s) := by
  rw [Machine.judgeHead]
  split
  · exact h
  · next r rest hf =>
    split
    · exact h
    split
    · exact h.respond l _ _ _
    · next hn => exact h.updLink l (fun _ => ⟨r, rest, hf, hn⟩) (h.heads.2.2 l)

/-! ### Admissions and reads (R152, R155, R164, R166) -/

/-- An admissible write is the judged WRITE at the head of its link. -/
theorem admissible_head {k : WriteClass} (h : admissible s l k = some (r, a)) :
    (∃ rest, (s.links.get l).fifo = r :: rest) ∧ (s.links.get l).judged = true ∧ r.kind = 1 ∧ writeTarget l r = some a := by
  rw [admissible] at h
  split at h
  · next q b hw =>
    obtain ⟨rfl, rfl⟩ : q = r ∧ b = a := by
      split at h
      · cases h; exact ⟨rfl, rfl⟩
      · cases h
    rw [waitingWrite] at hw
    split at hw
    · next r hr =>
      split at hw
      · next hc =>
        split at hw
        · next ht =>
          split at hw
          · cases hw
          · cases hw
            simp only [Bool.and_eq_true, beq_iff_eq] at hc
            obtain ⟨⟨hj, -⟩, hk⟩ := hc
            exact ⟨List.head?_eq_some_iff.mp hr, hj, hk, ht⟩
        · cases hw
      · cases hw
    · cases hw
  · cases h

/-- What a link's write brings into the queue is what the link may write (R147). -/
theorem PortsSound.enterQueue (h : PortsSound s) {k : WriteClass} (ha : admissible s l k = some (r, a)) : PortsSound (enterQueue l r a s) := by
  obtain ⟨⟨rest, hf⟩, hj, hk, ht⟩ := admissible_head ha
  obtain ⟨q, rest', hf', hn⟩ := h.heads.2.1 l hj
  obtain rfl : r = q := by rw [hf] at hf'; exact (List.cons.inj hf').1
  have hlen : r.data.length = r.len := h.heads.2.2 l r (by rw [hf]; exact List.mem_cons_self) hk
  refine PortsSound.respond (s := { s with wq := _ }) (h.setQueue (by rfl) (by rfl) (by rfl) (fun e he => ?_)) l _ _ _
  rcases List.mem_append.mp he with he | he
  · exact .inl he
  · refine .inr fun m hm i hi => ?_
    rw [List.mem_singleton.mp he] at hm hi ⊢
    cases hm
    refine judge_write hn hk ht i ?_
    rw [← hlen]
    split at hi
    · simpa [replaceChecks] using hi
    · exact hi

theorem PortsSound.admitWrite (h : PortsSound s) (l : Fin 13) : PortsSound (admitWrite l s) := by
  rw [Machine.admitWrite]
  split
  · exact h
  · next r a ha => exact (OffPorts.commitRecords _ _ _).toPortsKept.sound (h.enterQueue ha)

theorem PortsSound.admitHeartbeat (h : PortsSound s) : PortsSound (admitHeartbeat s) := by
  rw [Machine.admitHeartbeat]
  split
  · exact h
  · next r a ha => exact (OffPorts.heartbeatTaken _ _).toPortsKept.sound (h.enterQueue ha)

theorem PortsSound.admitClear (h : PortsSound s) (l : Fin 13) : PortsSound (admitClear l s) := by
  rw [Machine.admitClear]
  split
  · exact h
  · exact ((OffPorts.act _ s).toPortsKept.sound h).respond l _ _ _

theorem PortsSound.completeRead (h : PortsSound s) : PortsSound (completeRead s) := by
  have free : PortsSound { s with port := none } := ⟨h.heads, h.home⟩
  rw [Machine.completeRead]
  split
  · split
    · split
      · exact free.respond _ _ _ _
      · exact free
    · exact free
  · exact h

theorem PortsSound.completeDrain (h : PortsSound s) : PortsSound (completeDrain s) := by
  rw [Machine.completeDrain]
  split
  · next e rest _ hq => exact h.setQueue rfl rfl rfl (fun x hx => .inl (by rw [hq]; exact List.mem_cons_of_mem e hx))
  · exact ⟨h.heads, h.home⟩
  · exact h

/-! ### Placements and restarts (R157, R177) -/

/-- The entries of a write-back come from no link. -/
theorem placementEntries_source {addr : Nat} {content : List Byte} {e : QEntry} (h : e ∈ placementEntries addr content) : e.source = none := by
  rw [placementEntries] at h
  split at h
  · rw [List.mem_singleton.mp h]
  · rcases List.mem_cons.mp h with h | h
    · rw [h]
    · rw [List.mem_singleton.mp h]

theorem PortsSound.placeEntry (h : PortsSound s) (e : WbEntry) : PortsSound (placeEntry e s) :=
  h.setQueue rfl rfl rfl fun q hq => (List.mem_append.mp hq).imp_right fun hq l hl => by
    rw [placementEntries_source hq] at hl; cases hl

/-- A restart empties every FIFO, and before the device ID no memory answers. -/
theorem portsSound_begin (hs : t.ctx.sup.memOk = false) (hl : t.links = State.reset.links) (hw : WritesStayHome t) : PortsSound t := by
  refine ⟨⟨fun _ => hs, fun l => ?_, fun l => ?_⟩, hw⟩
  · rw [hl, reset_link]; nofun
  · rw [hl, reset_link]; nofun

theorem portsSound_beginCold (cause : RestartCause) (s : State) : PortsSound (beginCold cause s) := portsSound_begin rfl rfl nofun

theorem PortsSound.beginWarm (h : PortsSound s) (cause : RestartCause) : PortsSound (beginWarm cause s) := portsSound_begin rfl rfl h.home

theorem PortsSound.placeNext (h : PortsSound s) : PortsSound (placeNext s) := by
  rw [Machine.placeNext]
  split
  · split
    · next e _ =>
      dsimp only
      split
      · exact (h.placeEntry e).beginWarm _
      · exact h.placeEntry e
    · exact h
  · exact h

/-- The device ID read ends: no head has been judged before it (R169). -/
theorem PortsSound.deviceIdEnds (h : PortsSound s) (hp : s.ctx.sup.phase = .deviceId) (answered : Bool) : PortsSound (deviceIdEnds answered s) := by
  have noMem : s.ctx.sup.memOk = false := h.heads.1 hp
  have unjudged (l : Fin 13) : (s.links.get l).judged = false := by
    rw [← Bool.not_eq_true]
    intro hj
    obtain ⟨r, -, -, hn⟩ := h.heads.2.1 l hj
    exact judge_noMemory noMem l r hn
  have began {t : State} (hb : t.ctx.sup.phase = .deviceId → t.ctx.sup.memOk = false) (hl : t.links = s.links) (hw : WritesStayHome t) :
      PortsSound t := by
    refine ⟨⟨hb, fun l hj => ?_, fun l => ?_⟩, hw⟩
    · rw [hl, unjudged] at hj; cases hj
    · rw [hl]; exact h.heads.2.2 l
  rw [Machine.deviceIdEnds]
  split
  · exact began nofun rfl h.home
  · exact (OffPorts.buildAll _ _).toPortsKept.sound (began (fun _ => by rfl) (by rfl) nofun)

/-! ### Every command -/

/-- The next state's ports are sound. -/
def NextPorts (o : Host.Outcome State Fault Refusal) : Prop := ∀ t, o = .next t → PortsSound t

theorem nextPorts_next (h : PortsSound t) : NextPorts (.next t) := fun _ e => by cases e; exact h

theorem nextPorts_done (h : PortsSound t) : NextPorts (done s t) := nextPorts_next (h.finish s)

theorem PortsSound.exec (h : PortsSound s) (i : Instr) : NextPorts (exec i s) := by
  by_cases hp : actsOnPorts i = false
  · obtain ⟨t, e, k⟩ := exec_offPorts i hp s
    rw [e]
    exact nextPorts_done (k.toPortsKept.sound h)
  · cases i with
    | coldStart cause => exact nextPorts_next (portsSound_beginCold _ s)
    | warmRestart => exact nextPorts_next (h.beginWarm .restartLine)
    | deviceIdRead answered =>
      refine nextPorts_done ?_
      split
      · next hd => exact h.deviceIdEnds hd answered
      · exact h
    | packetReceived l bs => exact nextPorts_done (h.receive l bs)
    | headJudgment l => exact nextPorts_done (h.judgeHead l)
    | writeAdmission l => exact nextPorts_done (h.admitWrite l)
    | eventWordClear l => exact nextPorts_done (h.admitClear l)
    | heartbeatWrite => exact nextPorts_done h.admitHeartbeat
    | readComplete => exact nextPorts_done h.completeRead
    | writeDrain => exact nextPorts_done h.completeDrain
    | writeBackPlacement => exact nextPorts_next h.placeNext
    | _ => exact absurd rfl hp

theorem PortsSound.step (h : PortsSound s) : NextPorts (step s) := by
  rw [Machine.step]
  split
  · next i rest _ => exact PortsSound.exec (s := { s with pending := rest }) ⟨h.heads, h.home⟩ i
  · exact nextPorts_next ⟨h.heads, h.home⟩

/-! ### A slot link's drain (R147, R165) -/

/-- A byte that a slot link may write lies in the slot's page. -/
theorem slotByte_page {n : Fin 12} {a : Nat} (h : byteKind (slotLink n) a ≠ .denied) :
    0x10000 + n.val * 0x1000 ≤ a ∧ a < 0x11000 + n.val * 0x1000 := by
  have kind : byteKind (slotLink n) a = slotByte n a := by rw [byteKind, linkSlot_slotLink]
  by_contra hc
  refine h (kind.trans ?_)
  by_cases hlow : a < slotPage n
  · rw [slotByte, if_pos hlow]
  · rw [slotPage] at hlow
    rw [slotByte, slotPage, if_neg hlow, if_neg (by omega), if_neg (by omega), if_neg (by omega)]

/-- The drain of an entry from a slot link reads back as before outside the slot's page. -/
theorem drainEntry_page {n : Fin 12} {e : QEntry} (hm : MemorySound s) (hw : WritesStayHome s) (he : e ∈ s.wq) (hs : e.source = some (slotLink n))
    {x : Nat} (hx : ¬ (0x10000 + n.val * 0x1000 ≤ x ∧ x < 0x11000 + n.val * 0x1000)) : readCell (drainEntry e s.mem) x = readCell s.mem x := by
  refine readCell_writeCells_other hm.1 fun c hc => ?_
  obtain ⟨i, hi, rfl⟩ := List.mem_map.mp hc
  have page := slotByte_page (hw e he _ hs i (List.mem_range.mp hi))
  have hn := n.isLt
  exact ⟨by simp only [Config.memoryBytes]; omega, fun hex => hx (by rw [← hex]; exact page)⟩

end

end Sys2Proof.Machine
end

section
open Sys2Proof Sys2Proof.Machine

/-- Settles O7: judged heads bring into the queue only what their link may write (`PortsSound.enterQueue`), every other command leaves heads and
queue alone (`exec_offPorts`) or shortens them, and what a slot link may write lies in its page (`slotByte_page`). -/
theorem slotLinksWriteOnlyTheirPage : Obligations.SlotLinksWriteOnlyTheirPage := by
  refine ⟨fun s t hh hw e => ?_, fun s n e rest hm hw hp hq hs => ?_⟩
  · have sound := PortsSound.step ⟨hh, hw⟩ t e
    exact ⟨sound.heads, sound.home⟩
  · have hd : completeDrain s = { s with wq := rest, mem := drainEntry e s.mem, port := none } := by rw [completeDrain, hp, hq]
    refine ⟨finish s (completeDrain s), rfl, by rw [hd]; rfl, fun a ha => ?_⟩
    rw [finish_mem, hd]
    exact drainEntry_page hm hw (by rw [hq]; exact List.mem_cons_self) hs ha
end

section
/-! PROOFS. A write that commits no record, a clear of event bits and the heartbeat byte (R148, R152, R155, R162, R164, R175). -/

namespace Sys2Proof.Machine

section
variable {s : State} {l : Fin 13} {r : Request} {a : Nat}

/-! ### The response (R161, R168) -/

section
variable (l : Fin 13) (tag : Nat) (res : RespResult) (data : List Byte) (s : State)

/-- The link's packet is the response, composed from the state as it stands. -/
@[simp] theorem respond_tx_self : (respond l tag res data s).tx.get l = respPacket tag res (statusByte s.ctx s.units l) data := by
  simp [respond]

theorem respond_tx_ne {m : Fin 13} (h : m ≠ l) : (respond l tag res data s).tx.get m = s.tx.get m := updAt_get_ne _ _ _ _ h.symm

/-- The head has left the link's FIFO. -/
@[simp] theorem respond_link_self :
    (respond l tag res data s).links.get l = { s.links.get l with fifo := (s.links.get l).fifo.tail, judged := false } := by
  simp [respond]

theorem respond_link_ne {m : Fin 13} (h : m ≠ l) : (respond l tag res data s).links.get m = s.links.get m := updAt_get_ne _ _ _ _ h.symm

end

/-! ### Admission (R164) -/

theorem admissible_of_waits {k : WriteClass} (h : WriteWaits s l r a) (hr : HasRoom s l) (hk : writeClass l a = k) :
    admissible s l k = some (r, a) := by
  simp only [admissible, waitingWrite_of_waits h, mayAdmit_of_room hr, hk, beq_self_eq_true, Bool.and_self, if_true]

theorem writeClass_plain (hb : byteKind l a ≠ .heartbeat) (he : byteKind l a ≠ .eventWord) : writeClass l a = .plain := by
  rw [writeClass]
  split
  · next h => exact absurd h hb
  · next h => exact absurd h he
  · rfl

/-- The data of a write as it enters the queue (R152). -/
def enteredData (c : Ctx) (l : Fin 13) (a : Nat) (data : List Byte) : List Byte := if l.val = 0 then replaceChecks c a data else data

theorem enterQueue_wq : (enterQueue l r a s).wq = s.wq ++ [{ addr := a, data := enteredData s.ctx l a r.data, source := some l }] := rfl

@[simp] theorem replaceChecks_length (c : Ctx) (data : List Byte) : (replaceChecks c a data).length = data.length := by simp [replaceChecks]

theorem enteredData_length (c : Ctx) (data : List Byte) : (enteredData c l a data).length = data.length := by
  rw [enteredData]
  split
  · exact replaceChecks_length c data
  · rfl

/-- Beyond the rows every write enters as it is. -/
theorem enteredData_beyond (c : Ctx) (l : Fin 13) (ha : 0x200 ≤ a) (data : List Byte) : enteredData c l a data = data := by
  rw [enteredData]
  split
  · exact replaceChecks_beyond c ha data
  · rfl

/-- The check bytes are the last bytes of the 25 rows (R170). -/
theorem checkRow_eq (x : Nat) : checkRow x = if h : x < 400 ∧ x % 16 = 15 then some ⟨x / 16, by omega⟩ else none := by
  cases e : checkRow x with
  | none =>
    rw [dif_neg]
    rintro ⟨hx, hc⟩
    have := List.find?_eq_none.mp e ⟨x / 16, by omega⟩ (List.mem_finRange _)
    simp only [beq_iff_eq] at this
    omega
  | some row =>
    have hrow : x = 16 * row.val + 15 := by simpa using List.find?_some e
    have hlt := row.isLt
    rw [dif_pos ⟨by omega, by omega⟩]
    exact congrArg some (Fin.ext (by simp only; omega))

/-- A check byte of a row takes the value of the shadow, every other byte stays (R152). -/
theorem replaceChecks_getD (c : Ctx) (data : List Byte) {i : Nat} (hi : i < data.length) : (replaceChecks c a data).getD i 0 =
    if h : wrapAddr a i < 400 ∧ wrapAddr a i % 16 = 15 then rowCheckByte (c.cfg.rows.get ⟨wrapAddr a i / 16, by omega⟩) else data.getD i 0 := by
  rw [List.getD_eq_getElem _ _ (by simpa using hi)]
  simp only [replaceChecks, List.getElem_map, List.getElem_range, checkRow_eq]
  by_cases hc : wrapAddr a i < 400 ∧ wrapAddr a i % 16 = 15
  · rw [dif_pos hc, dif_pos hc]
  · rw [dif_neg hc, dif_neg hc]

/-- With nothing to take the link stays free. -/
theorem commitRecords_nil (s : State) : commitRecords l [] s = s.updLink l (fun x => { x with takes := [] }) := by
  have same : markChanged [] s = s := by rw [markChanged]; split <;> rfl
  rw [commitRecords, same]
  rfl

theorem admitWrite_of_empty (h : WriteWaits s l r a) (hr : HasRoom s l) (hk : writeClass l a = .plain)
    (hc : commitsOf l (writeSpan a r.len) = []) :
    admitWrite l s = (enterQueue l r a s).updLink l (fun x => { x with takes := [] }) := by
  rw [admitWrite_of_waits h hr hk, hc, commitRecords_nil]

/-! ### Event bits (R155, R162) -/

theorem admitClear_of_waits (h : WriteWaits s l r a) (hr : HasRoom s l) (hk : byteKind l a = .eventWord) :
    admitClear l s = respond l r.tag .done [] (s.act (fun _ u => clearWord l a r.data u)) := by
  rw [admitClear, admissible_of_waits h hr (by rw [writeClass, hk])]

/-- The counter of the link, reset by a clear of its LINK_ERROR bit. -/
theorem resetErr_get (t : Vector Nat 13) (b : Bool) (m : Fin 13) :
    (if b then updAt t l (fun _ => 0) else t).get m = if m = l ∧ b = true then 0 else t.get m := by
  cases b
  · simp
  · simp [updAt_get, eq_comm]

theorem clearWord_slot (n : Fin 12) (data : List Byte) (u : Units) : clearWord (slotLink n) a data u =
    { u.touch (.slotEvent n) with
      slotEvents := updAt u.slotEvents n (fun w => clearBits w (clearMask (slotPage n + 0x60) a data)),
      linkErr := if (clearMask (slotPage n + 0x60) a data).getLsbD 9 then updAt u.linkErr (slotLink n) (fun _ => 0) else u.linkErr } := by
  rw [clearWord, linkSlot_slotLink]
  rfl

theorem clearWord_manager (data : List Byte) (u : Units) : clearWord 0 a data u =
    { u.touch .chassisEvent with
      chassisEvent := clearBits u.chassisEvent (clearMask 0x2030 a data),
      linkErr := if (clearMask 0x2030 a data).getLsbD 21 then updAt u.linkErr 0 (fun _ => 0) else u.linkErr } := rfl

/-- A byte shifted to place `i` of a word. -/
theorem byteMask_getLsbD (b : Byte) (i j : Nat) (hj : j < 32) :
    (BitVec.ofNat 32 (b.toNat * 256 ^ i)).getLsbD j = (decide (8 * i ≤ j) && b.getLsbD (j - 8 * i)) := by
  have pow : 256 ^ i = 2 ^ (8 * i) := (pow_mul 2 8 i).symm
  rw [BitVec.getLsbD_ofNat, pow, Nat.testBit_mul_two_pow, BitVec.testBit_toNat]
  simp [hj]

/-- A write of a whole event word masks with the bytes it brings, the first the lowest (R155). -/
theorem clearMask_word {base : Nat} (hb : base % 4 = 0) (b0 b1 b2 b3 : Byte) :
    clearMask base base [b0, b1, b2, b3] = b3 ++ b2 ++ b1 ++ b0 := by
  have place : ∀ i < 4, wrapAddr base i - base = i := fun i hi => by rw [wrapAddr]; omega
  have mask : clearMask base base [b0, b1, b2, b3] = BitVec.ofNat 32 (b0.toNat * 256 ^ 0) ||| BitVec.ofNat 32 (b1.toNat * 256 ^ 1)
      ||| BitVec.ofNat 32 (b2.toNat * 256 ^ 2) ||| BitVec.ofNat 32 (b3.toNat * 256 ^ 3) := by
    rw [clearMask, show (List.range [b0, b1, b2, b3].length) = [0, 1, 2, 3] from rfl]
    simp only [List.foldl_cons, List.foldl_nil, place 0 (by decide), place 1 (by decide), place 2 (by decide), place 3 (by decide)]
    exact congrArg (· ||| _ ||| _ ||| _) BitVec.zero_or
  rw [mask]
  apply BitVec.eq_of_getLsbD_eq
  intro j hj
  simp only [BitVec.getLsbD_or, byteMask_getLsbD _ _ j hj, BitVec.getLsbD_append]
  have beyond (b : Byte) (k : Nat) (hk : 8 ≤ k) : b.getLsbD k = false := BitVec.getLsbD_of_ge b k hk
  grind

/-! ### The heartbeat byte (R148, R175) -/

theorem admitHeartbeat_of_waits (h : WriteWaits s 0 r 0x2020) (hr : HasRoom s 0) :
    admitHeartbeat s = heartbeatTaken (r.data.getD 0 0) (enterQueue 0 r 0x2020 s) := by
  rw [admitHeartbeat, admissible_of_waits h hr (by decide)]

variable {v : Byte}

theorem heartbeatTaken_same (h : s.ctx.sup.hbValue = some v) : heartbeatTaken v s = s := if_pos h

theorem heartbeatTaken_new (h : s.ctx.sup.hbValue ≠ some v) : heartbeatTaken v s = s.setSup (fun x =>
    { x with hbValue := some v, served := true,
             hbTimer := if hbTimeout s.ctx = 0 then x.hbTimer else startTimer s.ctx (hbTimeout s.ctx) }) := if_neg h

end

end Sys2Proof.Machine
end

section
open Sys2Proof Sys2Proof.Machine

/-- Settles O17: the write enters with its check bytes replaced (`replaceChecks_getD`), and there is nothing to take. -/
theorem admittedWriteEntersTheQueue : Obligations.AdmittedWriteEntersTheQueue := by
  intro s l r a h hr hb he hc
  have hadmit := admitWrite_of_empty h hr (writeClass_plain hb he) hc
  refine ⟨finish s (admitWrite l s), enteredData s.ctx l a r.data, rfl, ?_⟩
  rw [hadmit]
  refine ⟨enterQueue_wq, enteredData_length _ _, fun hl => if_neg (fun e => hl (Fin.ext e)), fun hl i hi => ?_, ?_, ?_,
    respond_tx_self l r.tag .done [] _, fun m hm => ⟨?_, respond_tx_ne l r.tag .done [] _ hm⟩, rfl, rfl, rfl, rfl⟩
  · subst hl
    exact replaceChecks_getD s.ctx r.data hi
  · simp [enterQueue]
  · simp [enterQueue]
  · exact (updAt_get_ne _ _ _ _ hm.symm).trans (respond_link_ne l r.tag .done [] _ hm)

/-- Settles O21: `clearWord` says what a clear does to the link's own word and counter; its mask is made of the bytes written. -/
theorem eventBitsClearByOnes : Obligations.EventBitsClearByOnes := by
  refine ⟨fun s n r a h hr hk => ?_, fun s r a h hr hk => ?_, fun base b0 b1 b2 b3 hb => clearMask_word hb b0 b1 b2 b3⟩
  · have hadmit := admitClear_of_waits h hr hk
    simp only [clearWord_slot] at hadmit
    refine ⟨finish s (admitClear (slotLink n) s), rfl, ?_⟩
    rw [hadmit]
    refine ⟨updAt_get_self _ _ _, fun m hm => updAt_get_ne _ _ _ _ hm.symm, rfl, ?_, fun m hm => ?_, rfl, ?_,
      respond_tx_self (slotLink n) r.tag .done [] _, rfl, rfl, rfl⟩
    · exact (resetErr_get _ _ _).trans (by simp)
    · exact (resetErr_get _ _ _).trans (if_neg (fun e => hm e.1))
    · exact congrArg Link.fifo (respond_link_self (slotLink n) r.tag .done [] _)
  · have hadmit := admitClear_of_waits h hr hk
    simp only [clearWord_manager] at hadmit
    refine ⟨finish s (admitClear 0 s), rfl, ?_⟩
    rw [hadmit]
    refine ⟨rfl, rfl, ?_, fun m hm => ?_, ?_, respond_tx_self 0 r.tag .done [] _, rfl, rfl, rfl⟩
    · exact (resetErr_get _ _ _).trans (by simp)
    · exact (resetErr_get _ _ _).trans (if_neg (fun e => hm e.1))
    · exact congrArg Link.fifo (respond_link_self 0 r.tag .done [] _)

/-- Settles O22: the byte enters the queue as written (`admitHeartbeat_of_waits`), and `heartbeatTaken` looks at its value. -/
theorem heartbeatWriteServesOnANewValue : Obligations.HeartbeatWriteServesOnANewValue := by
  intro s r h hr _
  have hadmit := admitHeartbeat_of_waits h hr
  refine ⟨finish s (admitHeartbeat s), rfl, ?_⟩
  rw [hadmit]
  have wq : (enterQueue 0 r 0x2020 s).wq = s.wq ++ [{ addr := 0x2020, data := r.data, source := some 0 }] := by
    rw [enterQueue_wq, enteredData_beyond _ _ (by decide)]
  have fifo : ((enterQueue 0 r 0x2020 s).links.get 0).fifo = (s.links.get 0).fifo.tail := by simp [enterQueue]
  by_cases hv : s.ctx.sup.hbValue = some (r.data.getD 0 0)
  · rw [heartbeatTaken_same (s := enterQueue 0 r 0x2020 s) hv]
    exact ⟨fun hn => absurd hv hn, fun _ => rfl, wq, fifo, rfl, rfl, rfl, rfl⟩
  · rw [heartbeatTaken_new (s := enterQueue 0 r 0x2020 s) hv]
    exact ⟨fun _ => rfl, fun he => absurd he hv, wq, fifo, rfl, rfl, rfl, rfl⟩
end

section
/-! PROOFS. The pending write-back set (R154, R157, R158): which records a command brings into it, and what the placement of one does. -/

namespace Sys2Proof.Machine

section
variable {pre post : State} {wb : List WbEntry} {q r : RecId}

/-! ### One record's turn at the end of a command (R154, R157) -/

theorem mem_allRecs (r : RecId) : r ∈ allRecs := by cases r <;> simp [allRecs]

/-- The record was touched, or its content has changed. -/
def Joins (pre post : State) (r : RecId) : Prop := r ∈ post.units.touched ∨ recBytes pre.ctx pre.units r ≠ recBytes post.ctx post.units r

theorem joins_iff : Joins pre post r ↔
    (post.units.touched.contains r || recBytes pre.ctx pre.units r != recBytes post.ctx post.units r) = true := by simp [Joins]

/-- The entry of a record takes its present content. -/
def refreshed (post : State) (q : RecId) (e : WbEntry) : WbEntry :=
  if e.record = q then { e with content := recBytes post.ctx post.units q } else e

@[simp] theorem refreshed_record (e : WbEntry) : (refreshed post q e).record = e.record := by rw [refreshed]; split <;> rfl

/-- A record that waits already takes its present content in its place. -/
theorem syncRec_waiting (h : pendingRec wb q = true) : syncRec pre post wb q = wb.map (refreshed post q) := if_pos h

theorem syncRec_joins (h : pendingRec wb q = false) (hj : Joins pre post q) :
    syncRec pre post wb q = wb ++ [{ record := q, content := recBytes post.ctx post.units q }] := by
  rw [syncRec, h, if_neg Bool.false_ne_true, if_pos (joins_iff.mp hj)]

theorem syncRec_idle (h : pendingRec wb q = false) (hj : ¬ Joins pre post q) : syncRec pre post wb q = wb := by
  rw [syncRec, h, if_neg Bool.false_ne_true, if_neg (fun hb => hj (joins_iff.mpr hb))]

theorem pendingRec_iff : pendingRec wb r = true ↔ r ∈ wb.map (·.record) := by simp [pendingRec]

/-- A turn keeps the waiting records in their order, and brings in its own record alone, if that joins. -/
theorem syncRec_records : wb.map (·.record) <+: (syncRec pre post wb q).map (·.record)
    ∧ (pendingRec (syncRec pre post wb q) r = true ↔ pendingRec wb r = true ∨ (r = q ∧ Joins pre post r)) := by
  rw [pendingRec_iff, pendingRec_iff]
  cases hp : pendingRec wb q with
  | true =>
    have hq := pendingRec_iff.mp hp
    rw [syncRec_waiting hp, List.map_map, show (fun e : WbEntry => e.record) ∘ refreshed post q = (·.record) from funext refreshed_record]
    exact ⟨List.prefix_rfl, ⟨.inl, fun h => h.elim id (fun h => by rw [h.1]; exact hq)⟩⟩
  | false =>
    by_cases hj : Joins pre post q
    · rw [syncRec_joins hp hj, List.map_append, List.mem_append]
      refine ⟨List.prefix_append _ _, or_congr_right ?_⟩
      rw [List.map_singleton, List.mem_singleton]
      exact ⟨fun h => ⟨h, h ▸ hj⟩, fun h => h.1⟩
    · rw [syncRec_idle hp hj]
      exact ⟨List.prefix_rfl, ⟨.inl, fun h => h.elim id (fun h => absurd (h.1 ▸ h.2) hj)⟩⟩

/-- Every entry of the record holds its present content. -/
def Latest (post : State) (r : RecId) (wb : List WbEntry) : Prop := ∀ e ∈ wb, e.record = r → e.content = recBytes post.ctx post.units r

/-- A record's own turn brings its entry to the present content, and no other turn takes it back. -/
theorem syncRec_latest (h : q = r ∨ Latest post r wb) : Latest post r (syncRec pre post wb q) := by
  have refresh : Latest post r (wb.map (refreshed post q)) := by
    intro e he hr
    obtain ⟨x, hx, rfl⟩ := List.mem_map.mp he
    rw [refreshed_record] at hr
    rw [refreshed]
    split
    · next hq => rw [← hr, hq]
    · next hq => exact h.elim (fun e => absurd (hr.trans e.symm) hq) (fun hl => hl x hx hr)
  cases hp : pendingRec wb q with
  | true => rw [syncRec_waiting hp]; exact refresh
  | false =>
    have none : Latest post r wb := by
      rcases h with rfl | h
      · intro e he hr
        rw [← Bool.not_eq_true, pendingRec_iff] at hp
        exact absurd (hr ▸ List.mem_map_of_mem he) hp
      · exact h
    by_cases hj : Joins pre post q
    · rw [syncRec_joins hp hj]
      intro e he hr
      rcases List.mem_append.mp he with he | he
      · exact none e he hr
      · rw [List.mem_singleton.mp he] at hr ⊢
        exact congrArg (recBytes post.ctx post.units) hr
    · rw [syncRec_idle hp hj]; exact none

/-! ### Every record's turn -/

/-- The turns of the records of `l`. -/
def syncRecs (pre post : State) (l : List RecId) (wb : List WbEntry) : List WbEntry := l.foldl (syncRec pre post) wb

theorem syncRecs_records (l : List RecId) : wb.map (·.record) <+: (syncRecs pre post l wb).map (·.record)
    ∧ (pendingRec (syncRecs pre post l wb) r = true ↔ pendingRec wb r = true ∨ (r ∈ l ∧ Joins pre post r)) := by
  induction l generalizing wb with
  | nil => exact ⟨List.prefix_rfl, by simp [syncRecs]⟩
  | cons q rest ih =>
    obtain ⟨hp, hr⟩ := syncRec_records (pre := pre) (post := post) (wb := wb) (q := q) (r := r)
    obtain ⟨ihp, ihr⟩ := ih (wb := syncRec pre post wb q)
    refine ⟨hp.trans ihp, ihr.trans ?_⟩
    rw [hr, List.mem_cons]
    tauto

theorem syncRecs_latest {l : List RecId} (h : r ∈ l ∨ Latest post r wb) : Latest post r (syncRecs pre post l wb) := by
  induction l generalizing wb with
  | nil => exact h.resolve_left List.not_mem_nil
  | cons q rest ih =>
    refine ih ?_
    rcases h with h | h
    · rcases List.mem_cons.mp h with rfl | h
      · exact .inr (syncRec_latest (.inl rfl))
      · exact .inl h
    · exact .inr (syncRec_latest (.inr h))

theorem finish_wb_turns : (finish pre post).wb = syncRecs pre post allRecs post.wb := finish_wb pre post

end

/-! ### Placements (R157, R158, R178) -/

section
variable {s : State} {a b : List WbEntry} {e : WbEntry}

/-- The first placeable entry is placed, and the warm restart of an accepted RESTART follows the manager status record. -/
theorem placeNext_first (hw : writeBacksRun s.ctx = true) (hs : s.wb = a ++ e :: b) (he : placeable s e = true)
    (ha : ∀ x ∈ a, placeable s x = false) : placeNext s =
      if e.record = .managerStatus ∧ s.ctx.sup.restartArmed = true then beginWarm .restartCommand (placeEntry e s) else placeEntry e s := by
  have found : s.wb.find? (placeable s) = some e := by
    rw [hs, List.find?_append, List.find?_eq_none.mpr (fun x hx => by simp [ha x hx]), List.find?_cons_of_pos he]
    rfl
  rw [placeNext, if_pos hw, found]

/-- A record takes two entries when it spans two pages (R157). -/
theorem placementEntries_length (addr : Nat) (content : List Byte) :
    (placementEntries addr content).length = if addr % 64 + content.length ≤ 64 then 1 else 2 := by
  have hm := Nat.mod_lt addr (show 0 < 64 by decide)
  rw [placementEntries]
  by_cases h : addr % 64 + content.length ≤ 64
  · rw [if_pos h, if_pos (by omega)]; rfl
  · rw [if_neg h, if_neg (by omega)]; rfl

end
end Sys2Proof.Machine
end

section
open Sys2Proof Sys2Proof.Machine

/-- Settles O26: the entry found is the first placeable one (`placeNext_first`); a warm restart keeps the write queue and the slots' latches. -/
theorem placementTakesTheFirstPlaceable : Obligations.PlacementTakesTheFirstPlaceable := by
  intro s a b e hw hs he ha
  have place := placeNext_first hw hs he ha
  refine ⟨placeNext s, rfl, ?_, ?_, placementEntries_length _ _, fun hr harm => ?_, fun hn => ?_⟩
  · rw [place]; split <;> rfl
  · rw [place]; split <;> rfl
  · rw [place, if_pos ⟨hr, harm⟩]
    exact ⟨rfl, rfl, rfl, rfl, fun n => by rw [beginWarm_slot]; rfl⟩
  · rw [place, if_neg (fun h => hn.elim (fun hr => hr h.1) (fun hf => by rw [hf] at h; cases h.2))]
    exact ⟨rfl, rfl, rfl, rfl, rfl, rfl, rfl, rfl, rfl, rfl⟩

/-- Settles O27, turn by turn over the records (`syncRec_records`, `syncRec_latest`), each of which has its turn (`mem_allRecs`). -/
theorem changedRecordsJoinTheSet : Obligations.ChangedRecordsJoinTheSet := by
  intro pre post r
  obtain ⟨order, joined⟩ := syncRecs_records (pre := pre) (post := post) (wb := post.wb) (r := r) allRecs
  rw [finish_wb_turns]
  refine ⟨?_, syncRecs_latest (.inl (mem_allRecs r)), ?_⟩
  · rw [joined]
    exact or_congr_right ⟨fun h => ⟨mem_allRecs r, h⟩, fun h => h.2⟩
  · rw [List.map_take]
    exact (by simpa using (List.prefix_iff_eq_take.mp order).symm)
end

section
/-! PROOFS. A write that commits one record (R148 to R152, R171): the record as the newest queue entry holds it, its hand-over within the commit,
the internal read for a record that the queue does not hold whole, and the take of a configuration row. -/

namespace Sys2Proof.Machine

section
variable {s t : State} {l : Fin 13} {r : Request} {a : Nat} {tk : TakeRec} {n : Fin 12} {bs : List Byte}

/-! ### The copy of a record (R149) -/

theorem wholeCopy_map_some (xs : List Byte) : wholeCopy (xs.map some) = some xs := by simp [wholeCopy]

/-- The copy of a record that the newest entry covers from its first byte on is the front of that entry's data. -/
theorem wholeCopy_front (wq : List QEntry) {data : List Byte} (src : Option (Fin 13)) (hl : (takeSpan tk).2 ≤ data.length)
    (hp : (takeSpan tk).1 % 64 + data.length ≤ 64) :
    wholeCopy (copyOf (wq ++ [{ addr := (takeSpan tk).1, data := data, source := src }]) tk) = some (data.take (takeSpan tk).2) := by
  have copied : copyOf (wq ++ [{ addr := (takeSpan tk).1, data := data, source := src }]) tk = (data.take (takeSpan tk).2).map some := by
    refine List.ext_getElem (by simp [copyOf, span, hl]) fun i h1 h2 => ?_
    have hi : i < data.length := by simp at h2; omega
    simp only [copyOf, span, List.getElem_map, List.getElem_range, queueByte_append, entryByte_run (e := ⟨(takeSpan tk).1, data, src⟩) hp hi]
    simp [hi]
  rw [copied, wholeCopy_map_some]

/-- The newest entry that covers a byte is the first one from the queue's end (R149, R166). -/
theorem queueByte_eq (wq : List QEntry) (x : Nat) : queueByte wq x = wq.reverse.findSome? (fun e => entryByte e x) := by
  induction wq with
  | nil => rfl
  | cons e rest ih =>
    rw [queueByte, ih, List.reverse_cons, List.findSome?_append, List.findSome?_singleton]

/-- The copy laid over a read of the record's bytes (R149). -/
theorem overCopy_getD {copy : List (Option Byte)} {read : List Byte} (hl : read.length = copy.length) {i : Nat} (hi : i < copy.length) :
    (overCopy copy read).getD i 0 = (copy.getD i none).getD (read.getD i 0) := by
  have hr : i < read.length := by omega
  simp [overCopy, List.getD_eq_getElem?_getD, hi, hr]

theorem readSpan_length (wq : List QEntry) (m : Memory) (addr len : Nat) : (readSpan wq m addr len).length = len := by simp [readSpan, span]

theorem readSpan_getD (wq : List QEntry) (m : Memory) (addr len : Nat) {i : Nat} (hi : i < len) :
    (readSpan wq m addr len).getD i 0 = (wq.reverse.findSome? (fun e => entryByte e (addr + i))).getD (readCell m (addr + i)) := by
  simp [readSpan, span, overlaidByte, queueByte_eq, List.getD_eq_getElem?_getD, hi]

/-! ### One record committed (R148, R149) -/

/-- A take has its record and ends: a discarded one without effect, any other with the record handed over (R150, R151). -/
theorem completeTake_one {copy : List (Option Byte)} {d : Bool}
    (h : (s.links.get l).takes = [{ record := tk, copy := copy, discarded := d }]) : completeTake l bs s =
      if d then s.updLink l (fun x => { x with takes := [] }) else handOver tk bs (s.updLink l (fun x => { x with takes := [] })) := by
  rw [completeTake, h]

theorem runTakes_whole {copy : List (Option Byte)} (h : (s.links.get l).takes = [{ record := tk, copy := copy, discarded := false }])
    (hw : wholeCopy copy = some bs) : runTakes l 1 s = handOver tk bs (s.updLink l (fun x => { x with takes := [] })) := by
  rw [runTakes, h]
  dsimp only
  rw [hw]
  exact completeTake_one h

theorem runTakes_partial {copy : List (Option Byte)} (h : (s.links.get l).takes = [{ record := tk, copy := copy, discarded := false }])
    (hw : wholeCopy copy = none) : runTakes l 1 s = { s with reads := s.reads ++ [.take l] } := by
  rw [runTakes, h]
  dsimp only
  rw [hw]

/-- The end of the internal read of the link's only take (R149). -/
theorem completeInternal_take {copy : List (Option Byte)} {d : Bool} {rest : List IRead} (hp : s.port = some .internal)
    (hr : s.reads = .take l :: rest) (ht : (s.links.get l).takes = [{ record := tk, copy := copy, discarded := d }]) :
    completeInternal s =
      (if d then State.updLink l (fun x => { x with takes := [] }) { s with reads := rest, port := none }
      else handOver tk (overCopy copy (readSpan s.wq s.mem (takeSpan tk).1 (takeSpan tk).2))
        (State.updLink l (fun x => { x with takes := [] }) { s with reads := rest, port := none })) := by
  rw [completeInternal, hp, hr]
  dsimp only [internalData, takeRead]
  rw [ht]
  exact completeTake_one (s := { s with reads := rest, port := none }) ht

/-- The write has entered the queue, and its record's take runs. -/
def committing (l : Fin 13) (r : Request) (a : Nat) (tk : TakeRec) (s : State) : State :=
  (markChanged [tk] (enterQueue l r a s)).updLink l
    (fun x => { x with takes := [{ record := tk, copy := copyOf (enterQueue l r a s).wq tk, discarded := false }] })

theorem committing_takes : ((committing l r a tk s).links.get l).takes
    = [{ record := tk, copy := copyOf (enterQueue l r a s).wq tk, discarded := false }] := by simp [committing]

theorem admitWrite_one (h : WriteWaits s l r a) (hr : HasRoom s l) (hk : writeClass l a = .plain)
    (hc : commitsOf l (writeSpan a r.len) = [tk]) : admitWrite l s = runTakes l 1 (committing l r a tk s) := by
  rw [admitWrite_of_waits h hr hk, hc]
  rfl

/-! ### Records of a blade (R148 to R151) -/

theorem linkRecords_slot (n : Fin 12) : linkRecords (slotLink n) = [.identity n, .power n, .report n, .claim n, .answer n] := by
  rw [linkRecords, linkSlot_slotLink]

theorem bladeRecord_cases (h : tk ∈ linkRecords (slotLink n)) :
    tk = .identity n ∨ tk = .power n ∨ tk = .report n ∨ tk = .claim n ∨ tk = .answer n := by
  rw [linkRecords_slot] at h
  simpa using h

/-- A blade's record lies within one 64-byte page, and its first byte is staged. -/
theorem bladeRecord_span : ∀ n : Fin 12, ∀ tk ∈ linkRecords (slotLink n),
    (takeSpan tk).1 % 64 + (takeSpan tk).2 ≤ 64 ∧ byteKind (slotLink n) (takeSpan tk).1 = .stored := by decide +kernel

/-- A write of a whole record commits that record alone. -/
theorem commitsOf_bladeRecord : ∀ n : Fin 12, ∀ tk ∈ linkRecords (slotLink n),
    commitsOf (slotLink n) (writeSpan (takeSpan tk).1 (takeSpan tk).2) = [tk] := by decide +kernel

theorem handOver_blade (h : tk ∈ linkRecords (slotLink n)) (bs : List Byte) (s : State) : handOver tk bs s = takeForSlot n tk bs s := by
  rcases bladeRecord_cases h with rfl | rfl | rfl | rfl | rfl <;> rfl

/-- Only rows are marked during an audit (R171, R174). -/
theorem markChanged_blade (h : tk ∈ linkRecords (slotLink n)) (s : State) : markChanged [tk] s = s := by
  rw [markChanged]
  rcases bladeRecord_cases h with rfl | rfl | rfl | rfl | rfl <;> exact ite_self s

/-- A slot's link enters its data as they are (R152). -/
theorem enterQueue_slot : (enterQueue (slotLink n) r a s).wq = s.wq ++ [{ addr := a, data := r.data, source := some (slotLink n) }] := by
  rw [enterQueue_wq, enteredData, if_neg (by simp [slotLink])]

/-- The units after a blade's record has been handed over, and its outcome in the pending set (R150). -/
theorem takeForSlot_finish (pre q : State) (n : Fin 12) (tk : TakeRec) (bs : List Byte) :
    (finish pre (takeForSlot n tk bs q)).units = ((settleAfter q.ctx q.units (ownerActs tk bs q.ctx q.units).2).updSlot n (setTake tk
        { seq := bs.getD (bs.length - 1) 0, outcome := outcomeCode (ownerActs tk bs q.ctx q.units).1 })).settled
      ∧ ∃ e ∈ (finish pre (takeForSlot n tk bs q)).wb, e.record = .slotStatus n
          ∧ e.content = recBytes (finish pre (takeForSlot n tk bs q)).ctx (finish pre (takeForSlot n tk bs q)).units (.slotStatus n) :=
  ⟨rfl, finish_touched (List.mem_append_right _ (List.mem_singleton.mpr rfl)) (mem_allRecs _)⟩

end

end Sys2Proof.Machine
end

section
open Sys2Proof Sys2Proof.Machine

/-- Settles O18: a whole record is handed over within its commit (`runTakes_whole`), any other asks for a read (`runTakes_partial`), over which
the copy is laid (`overCopy_getD`). -/
theorem committedBladeRecordsAreTaken : Obligations.CommittedBladeRecordsAreTaken := by
  refine ⟨fun s n tk r htk h hr hlen hdata => ?_, fun s n tk r a h hr hk hc hw => ?_, fun s n tk copy d rest hp hreads htakes htk hcopy => ?_⟩
  · obtain ⟨hpage, hkind⟩ := bladeRecord_span n tk htk
    have whole : wholeCopy (copyOf (enterQueue (slotLink n) r (takeSpan tk).1 s).wq tk) = some r.data := by
      rw [enterQueue_slot]
      exact wholeCopy_newest s.wq (some (slotLink n)) (hdata.trans hlen) hpage
    have hadmit : admitWrite (slotLink n) s = takeForSlot n tk r.data _ :=
      ((admitWrite_one h hr (by rw [writeClass, hkind]) (by rw [hlen]; exact commitsOf_bladeRecord n tk htk)).trans
        (runTakes_whole committing_takes whole)).trans (handOver_blade htk _ _)
    refine ⟨finish s (admitWrite (slotLink n) s), rfl, ?_⟩
    rw [hadmit, committing, markChanged_blade htk]
    exact ⟨takeForSlot_finish s _ n tk r.data, enterQueue_slot, by simp [takeForSlot], rfl, rfl, rfl⟩
  · have htk : tk ∈ linkRecords (slotLink n) := (List.mem_filter.mp (hc ▸ List.mem_singleton_self tk)).1
    have hadmit := (admitWrite_one h hr (by rw [writeClass, hk]) hc).trans (runTakes_partial committing_takes (by rw [enterQueue_slot]; exact hw))
    refine ⟨finish s (admitWrite (slotLink n) s), rfl, ?_⟩
    rw [hadmit, committing, markChanged_blade htk, enterQueue_slot]
    exact ⟨enterQueue_slot, rfl, by simp, rfl, rfl, rfl⟩
  · have hlen : (readSpan s.wq s.mem (takeSpan tk).1 (takeSpan tk).2).length = copy.length := (readSpan_length _ _ _ _).trans hcopy.symm
    refine ⟨finish s (completeInternal s), overCopy copy (readSpan s.wq s.mem (takeSpan tk).1 (takeSpan tk).2), rfl, by simp [overCopy, hlen],
      fun i hi => by rw [overCopy_getD hlen hi, readSpan_getD _ _ _ _ (hcopy ▸ hi)], ?_⟩
    rw [completeInternal_take hp hreads htakes]
    cases d with
    | false =>
      rw [if_neg (by decide), handOver_blade htk]
      exact ⟨fun _ => takeForSlot_finish s _ n tk _, fun hd => by simp at hd, by simp [takeForSlot], rfl, rfl, rfl, rfl, rfl, rfl⟩
    | true => exact ⟨fun hd => by simp at hd, fun _ => rfl, by simp, rfl, rfl, rfl, rfl, rfl, rfl⟩
end

section
/-! PROOFS. The commit of a configuration row (R152, R171): the bytes that enter the queue, the record that is handed over, and what its take
leaves in the shadow, the last row take and the touched records. -/

namespace Sys2Proof.Machine

section
variable {s t : State} {r : Request} {row : Fin 25} {bs : Row}

/-! ### The row in the queue (R152, R170) -/

/-- A write of a whole row commits that row alone. -/
theorem commitsOf_row : ∀ row : Fin 25, commitsOf 0 (writeSpan (16 * row.val) 16) = [.row row] := by decide +kernel

/-- The first byte of a row is staged. -/
theorem writeClass_row : ∀ row : Fin 25, writeClass 0 (16 * row.val) = .plain := by decide +kernel

/-- A whole row enters the queue with the check byte of the shadow as its last byte. -/
theorem enteredData_row (c : Ctx) (row : Fin 25) {data : List Byte} (hl : data.length = 16) :
    enteredData c 0 (16 * row.val) data = data.take 15 ++ [rowCheckByte (c.cfg.rows.get row)] := by
  have lt := row.isLt
  refine List.ext_getElem (by rw [enteredData_length]; simp [hl]) fun i h1 h2 => ?_
  have hi : i < 16 := by rw [enteredData_length, hl] at h1; exact h1
  have addr : wrapAddr (16 * row.val) i = 16 * row.val + i := by rw [wrapAddr]; omega
  have byte := replaceChecks_getD (a := 16 * row.val) c data (i := i) (by omega)
  rw [List.getD_eq_getElem _ _ (by simp [hl]; exact hi)] at byte
  refine Eq.trans byte ?_
  by_cases last : i = 15
  · subst last
    have place : (⟨wrapAddr (16 * row.val) 15 / 16, by omega⟩ : Fin 25) = row := Fin.ext (by simp only [addr]; omega)
    rw [dif_pos (by omega), place]
    simp [hl]
  · rw [dif_neg (by omega), List.getElem_append_left (by simp [hl]; omega)]
    simp [hl, hi]

/-- During an audit the row is marked, so that the audit passes over it (R171, R174). -/
theorem markChanged_row (row : Fin 25) (s : State) : markChanged [.row row] s =
    s.setCfg (fun g => { g with changed := if g.auditing then updAt g.changed row (fun _ => true) else g.changed }) := by
  rw [markChanged]
  by_cases h : s.ctx.cfg.auditing = true
  · simp only [State.setCfg, if_pos h]
    rfl
  · simp only [State.setCfg, if_neg h]

/-- The row is handed over from a state that differs from `s` in the links' registers, the write queue and the row's mark alone. -/
theorem admitRow_eq (h : WriteWaits s 0 r (16 * row.val)) (hr : HasRoom s 0) (hl : r.len = 16) (hd : r.data.length = 16) :
    ∃ q : State, admitWrite 0 s = takeRow row (r.data.take 15) q
      ∧ q.ctx = { s.ctx with cfg := { s.ctx.cfg with
          changed := if s.ctx.cfg.auditing then updAt s.ctx.cfg.changed row (fun _ => true) else s.ctx.cfg.changed } }
      ∧ q.units = s.units ∧ q.reads = s.reads ∧ q.mem = s.mem ∧ q.pwm = s.pwm
      ∧ q.wq = s.wq ++ [{ addr := 16 * row.val, data := r.data.take 15 ++ [rowCheckByte (s.ctx.cfg.rows.get row)], source := some 0 }]
      ∧ (q.links.get 0).takes = [] := by
  have wq : (enterQueue 0 r (16 * row.val) s).wq
      = s.wq ++ [{ addr := 16 * row.val, data := r.data.take 15 ++ [rowCheckByte (s.ctx.cfg.rows.get row)], source := some 0 }] := by
    rw [enterQueue_wq, enteredData_row _ _ hd]
  have whole : wholeCopy (copyOf (enterQueue 0 r (16 * row.val) s).wq (.row row)) = some (r.data.take 15) := by
    have front := wholeCopy_front (tk := .row row) s.wq (data := r.data.take 15 ++ [rowCheckByte (s.ctx.cfg.rows.get row)]) (some 0)
      (by simp [takeSpan, hd]) (by simp [takeSpan, hd]; omega)
    rw [wq]
    exact front.trans (congrArg some (by simp [takeSpan, hd]))
  refine ⟨(committing 0 r (16 * row.val) (.row row) s).updLink 0 (fun x => { x with takes := [] }),
    (admitWrite_one h hr (writeClass_row row) (by rw [hl]; exact commitsOf_row row)).trans (runTakes_whole committing_takes whole), ?_⟩
  rw [committing, markChanged_row]
  exact ⟨rfl, rfl, rfl, rfl, rfl, wq, by simp⟩

/-! ### The take of a row (R171) -/

/-- The units that an accepted row reaches leave the touched records and the rest of the configuration as they are. -/
theorem takeRow_pass (hv : rowCheck s.ctx.cfg.rows row bs = .pass) :
    ∃ (hb audit : Timer) (u : Units), u.touched = s.units.touched ++ [.row row] ++ [.configAudit] ∧ takeRow row bs s =
      { s with
        ctx := { s.ctx with
          sup := { s.ctx.sup with hbTimer := hb }
          cfg := { s.ctx.cfg with
            rows := updAt s.ctx.cfg.rows row (fun _ => bs), fault := updAt s.ctx.cfg.fault row (fun _ => false), auditTimer := audit
            lastRow := { row := byteOf row.val, seq := bs.getD 14 0, outcome := 1, reason := 0 } } }
        units := u } := by
  rw [takeRow, hv]
  obtain ⟨hb, audit, u, touched, eq⟩ := applyRow_eq s.ctx row (((s.setCfg (fun g =>
    { g with rows := updAt g.rows row (fun _ => bs), fault := updAt g.fault row (fun _ => false)
             lastRow := { row := byteOf row.val, seq := bs.getD 14 0, outcome := 1, reason := 0 } })).touch (.row row)).touch .configAudit)
  exact ⟨hb, audit, u, touched, eq⟩

/-- A refused row leaves the shadow and every unit but the event bit as they were. -/
theorem takeRow_fail (hv : rowCheck s.ctx.cfg.rows row bs ≠ .pass) : takeRow row bs s =
    { s with
      ctx := { s.ctx with cfg := { s.ctx.cfg with lastRow :=
        { row := byteOf row.val, seq := bs.getD 14 0, outcome := 2, reason := if rowCheck s.ctx.cfg.rows row bs = .range then 1 else 2 } } }
      units := setChassisBit .configReject ((s.units.touch (.row row)).touch .configAudit) } := by
  rw [takeRow]
  cases h : rowCheck s.ctx.cfg.rows row bs with
  | pass => exact absurd h hv
  | range => rfl
  | order => rfl

/-- What holds after the take of a row, accepted or refused. -/
structure RowTaken (row : Fin 25) (bs : Row) (s t : State) : Prop where
  frame : t = { s with ctx := t.ctx, units := t.units }
  mode : t.ctx.sup.mode = s.ctx.sup.mode
  pins : t.ctx.pins = s.ctx.pins
  others : ∀ q, q ≠ row → t.ctx.cfg.rows.get q = s.ctx.cfg.rows.get q ∧ t.ctx.cfg.fault.get q = s.ctx.cfg.fault.get q
  changed : t.ctx.cfg.changed = s.ctx.cfg.changed
  shown : t.ctx.cfg.lastRow.row = byteOf row.val ∧ t.ctx.cfg.lastRow.seq = bs.getD 14 0
  touched : t.units.touched = s.units.touched ++ [.row row] ++ [.configAudit]

theorem rowTaken_takeRow (row : Fin 25) (bs : Row) (s : State) : RowTaken row bs s (takeRow row bs s) := by
  by_cases hv : rowCheck s.ctx.cfg.rows row bs = .pass
  · obtain ⟨hb, audit, u, touched, eq⟩ := takeRow_pass hv
    rw [eq]
    exact ⟨rfl, rfl, rfl, fun q hq => ⟨updAt_get_ne _ _ _ _ hq.symm, updAt_get_ne _ _ _ _ hq.symm⟩, rfl, ⟨rfl, rfl⟩, touched⟩
  · rw [takeRow_fail hv]
    exact ⟨rfl, rfl, rfl, fun q _ => ⟨rfl, rfl⟩, rfl, ⟨rfl, rfl⟩, rfl⟩

/-- The mark of a row after its commit (R171, R174). -/
theorem mark_get (changed : Vector Bool 25) (auditing : Bool) (row q : Fin 25) :
    (if auditing then updAt changed row (fun _ => true) else changed).get q = (changed.get q || (auditing && q == row)) := by
  cases auditing
  · simp
  · by_cases h : q = row
    · simp [h]
    · simp [updAt_get, h, Ne.symm h]

end

end Sys2Proof.Machine
end

section
open Sys2Proof Sys2Proof.Machine

/-- Settles O20: the row is handed over within its commit (`admitRow_eq`); what its take leaves, accepted or refused, is `rowTaken_takeRow`, what
it makes of the verdict `takeRow_pass` and `takeRow_fail`. -/
theorem rowCommitsAreChecked : Obligations.RowCommitsAreChecked := by
  intro s row r h hr hl hd
  obtain ⟨q, admitted, ctx, units, reads, mem, pwm, wq, takes⟩ := admitRow_eq h hr hl hd
  have taken := rowTaken_takeRow row (r.data.take 15) q
  have verdict : rowCheck q.ctx.cfg.rows row (r.data.take 15) = rowCheck s.ctx.cfg.rows row (r.data.take 15) := by rw [ctx]
  have seq : (r.data.take 15).getD 14 0 = r.data.getD 14 0 := by simp [List.getD_eq_getElem?_getD]
  have pending (rec : RecId) (hrec : rec = .row row ∨ rec = .configAudit) :=
    finish_touched (pre := s) (post := takeRow row (r.data.take 15) q) (r := rec) (by rw [taken.touched]; simp [hrec]) (mem_allRecs rec)
  refine ⟨finish s (admitWrite 0 s), rfl, ?_⟩
  rw [admitted]
  have mark (p : Fin 25) : (takeRow row (r.data.take 15) q).ctx.cfg.changed.get p
      = (s.ctx.cfg.changed.get p || (s.ctx.cfg.auditing && p == row)) := by rw [taken.changed, ctx, ← mark_get]
  refine ⟨(congrArg State.wq taken.frame).trans wq, pending _ (.inl rfl), pending _ (.inr rfl), fun p hp => ⟨?_, ?_, ?_⟩,
    (mark row).trans (by simp), taken.shown.1, taken.shown.2.trans seq, ?_, taken.mode.trans (by rw [ctx]), taken.pins.trans (by rw [ctx]),
    (congrArg (fun t : State => (t.links.get 0).takes) taken.frame).trans takes, (congrArg State.mem taken.frame).trans mem,
    (congrArg State.reads taken.frame).trans reads, (congrArg State.pwm taken.frame).trans pwm⟩
  · exact (taken.others p hp).1.trans (by rw [ctx])
  · exact (taken.others p hp).2.trans (by rw [ctx])
  · exact (mark p).trans (by simp [hp])
  · split
    case h_1 hv =>
      obtain ⟨hb, audit, u, -, eq⟩ := takeRow_pass (verdict.trans hv)
      rw [eq]
      exact ⟨updAt_get_self _ _ _, updAt_get_self _ _ _, rfl, rfl⟩
    case h_2 hv =>
      rw [takeRow_fail (by rw [verdict]; exact hv), verdict, ctx, units]
      exact ⟨rfl, rfl, rfl, rfl, setChassisBit_flag .configReject _, rfl, rfl, rfl⟩
end

section
/-! PROOFS. Which operations leave memory alone: all but the drain of the write queue's oldest entry (R165), one lemma an operation. -/

namespace Sys2Proof.Machine

theorem ite_mem {s t v : State} {p : Prop} [Decidable p] (a : t.mem = s.mem) (b : v.mem = s.mem) : (if p then t else v).mem = s.mem := by
  split <;> assumption

section
variable (l : Fin 13) (bs : List Byte) (s : State)

/-! ### Rows and record takes (R148 to R153, R171) -/

@[simp] theorem applyRow_mem (old : Ctx) (r : Fin 25) : (applyRow old r s).mem = s.mem := by
  obtain ⟨hb, audit, u, -, e⟩ := applyRow_eq old r s
  rw [e]

@[simp] theorem takeRow_mem (r : Fin 25) : (takeRow r bs s).mem = s.mem := by
  rw [takeRow]
  split
  iterate 2 rfl
  · exact applyRow_mem _ _ _

@[simp] theorem takeCommand_mem : (takeCommand bs s).mem = s.mem := by
  obtain ⟨-, -, mem, -⟩ := runCommand_frame (byteAt bs 0) (byteAt bs 1) s
  exact mem

@[simp] theorem handOver_mem (t : TakeRec) : (handOver t bs s).mem = s.mem := by
  cases t with
  | command => exact takeCommand_mem bs s
  | row r => exact takeRow_mem bs s r
  | identity n | power n | report n | claim n | answer n => rfl

@[simp] theorem completeTake_mem : (completeTake l bs s).mem = s.mem := by
  rw [completeTake]
  split
  · rfl
  · exact ite_mem rfl (handOver_mem _ _ _)

@[simp] theorem runTakes_mem (fuel : Nat) : (runTakes l fuel s).mem = s.mem := by
  induction fuel generalizing s with
  | zero => rfl
  | succ fuel ih =>
    rw [runTakes]
    split
    · rfl
    split
    · rw [ih, completeTake_mem]
    · rfl

@[simp] theorem markChanged_mem (rs : List TakeRec) : (markChanged rs s).mem = s.mem := ite_mem rfl rfl

@[simp] theorem commitRecords_mem (rs : List TakeRec) : (commitRecords l rs s).mem = s.mem := by simp [commitRecords]

@[simp] theorem takeRead_mem : (takeRead l s).mem = s.mem := by
  rw [takeRead]
  split
  · rfl
  · simp

/-! ### Supervision (R174 to R176) -/

@[simp] theorem heartbeatTaken_mem (v : Byte) : (heartbeatTaken v s).mem = s.mem := ite_mem rfl rfl

@[simp] theorem heartbeatLost_mem : (heartbeatLost s).mem = s.mem := ite_mem rfl rfl

@[simp] theorem auditExpires_mem : (auditExpires s).mem = s.mem := ite_mem rfl rfl

@[simp] theorem auditRead_mem (r : Fin 25) : (auditRead r bs s).mem = s.mem := by
  have judged : (judgeRow r bs s).mem = s.mem := ite_mem rfl (ite_mem rfl rfl)
  rw [auditRead, nextAudit]
  split <;> exact judged

/-! ### Start-up (R169, R173, R177) -/

@[simp] theorem leaveStartup_mem : (leaveStartup s).mem = s.mem := ite_mem rfl rfl

@[simp] theorem finishCold_mem : (finishCold s).mem = s.mem := leaveStartup_mem _

@[simp] theorem finishWarm_mem : (finishWarm s).mem = s.mem := by
  rw [finishWarm, leaveStartup_mem, act_mem, act_mem, setSup_mem, act_mem]

@[simp] theorem adoptFrom_mem (fuel k : Nat) : (adoptFrom fuel k s).mem = s.mem := by
  induction fuel generalizing s k with
  | zero => exact finishWarm_mem s
  | succ fuel ih =>
    rw [adoptFrom]
    split
    · split
      · rfl
      · exact ih _ _
    · exact finishWarm_mem s

@[simp] theorem buildAll_mem (image : Fin 26 → List Byte) : (buildAll image s).mem = s.mem := by
  rw [buildAll_eq]
  split
  · exact adoptFrom_mem _ _ _
  · exact finishCold_mem _

@[simp] theorem rowsRead_mem : (rowsRead s).mem = s.mem := by
  obtain ⟨l, -, e⟩ := rowsRead_eq s
  rw [e]

@[simp] theorem completeInternal_mem : (completeInternal s).mem = s.mem := by
  rw [completeInternal]
  split
  · next r rest _ _ =>
    cases r with
    | rows a len last => exact ite_mem (rowsRead_mem _) rfl
    | records a len last => exact ite_mem (buildAll_mem _ _) rfl
    | adopt n => exact adoptFrom_mem _ _ _
    | take l => exact takeRead_mem l _
    | audit row => exact auditRead_mem _ _ row
  · rfl
  · rfl

/-! ### The shapes of commands -/

@[simp] theorem grantPort_mem : (grantPort s).mem = s.mem := by
  rw [grantPort]
  refine ite_mem rfl (ite_mem rfl ?_)
  split <;> rfl

theorem atTimer_mem {f : State → State} (hf : ∀ v, (f v).mem = v.mem) (t : Timer) : (atTimer t f s).mem = s.mem := by
  cases t with
  | none => rfl
  | some d => exact hf _

theorem onPin_mem {f : State → State} (hf : ∀ v, (f v).mem = v.mem) (p : Pin) (level : Bool) : (onPin p level f s).mem = s.mem := by
  rw [onPin]
  split
  · exact hf _
  · rfl

@[simp] theorem slotEvent_mem (n : Fin 12) (f : Ctx → Units → Units) : (slotEvent n f s).mem = s.mem := ite_mem rfl rfl

@[simp] theorem slotAct_mem (n : Fin 12) (f : Ctx → Units → Units) : (slotAct n f s).mem = s.mem := ite_mem rfl rfl

end

/-- No command away from the ports writes memory. -/
theorem exec_mem (i : Instr) (h : actsOnPorts i = false) (s t : State) (e : exec i s = .next t) : t.mem = s.mem := by
  have ends {v : State} (e : done s v = .next t) (hv : v.mem = s.mem) : t.mem = s.mem := by cases e; exact hv
  cases i with
  | coldStart _ | warmRestart | deviceIdRead _ | packetReceived _ _ | headJudgment _ | writeAdmission _ | eventWordClear _
  | heartbeatWrite | readComplete | writeDrain | writeBackPlacement => cases h
  | internalReadComplete => exact ends e (completeInternal_mem s)
  | arbiterGrant => exact ends e (grantPort_mem s)
  | presLLoss slot =>
    exact ends e (onPin_mem s (fun v => ite_mem rfl (slotEvent_mem (discardTakes slot v) slot _)) _ _)
  | leverOpening slot =>
    exact ends e (onPin_mem s (fun v => ite_mem (slotEvent_mem v slot _) rfl) _ _)
  | presLArrival slot | presSClosing slot | pgoodAssertion slot => exact ends e (onPin_mem s (fun v => slotAct_mem v slot _) _ _)
  | pgoodLoss slot | railFltAssertion slot => exact ends e (onPin_mem s (fun v => slotEvent_mem v slot _) _ _)
  | overrideRelease _ | railFltRelease _ | overrideAssertion _ | moduleArrival _ | moduleLoss _ | psuOkLoss _ | psuOkReturn _ | uplLinkFall _
  | uplLinkRise _ =>
    refine ends e (onPin_mem s ?_ _ _)
    exact fun _ => rfl
  | rawInputChange _ _ | tachPulse _ | sensorPollEnd _ | senseConversion _ _ | identityReadAttemptEnd _ | groupStart => exact ends e rfl
  | seatingTimerExpiry _ | quiesceDeadlineExpiry _ | chargeTimeout _ | capGraceExpiry _ | shedDelayExpiry | updateTimerExpiry _
  | tachGateClose | settlingTimerExpiry _ | reportAgeTimeout _ | pollTimerExpiry | retryDelayExpiry | sampleTimerExpiry _
  | drainTimerExpiry _ =>
    refine ends e (atTimer_mem s ?_ _)
    exact fun _ => rfl
  | crossbarAcknowledge => exact ends e (by split <;> rfl)
  | crossbarCommandTimeout carriedOut =>
    refine ends e ?_
    split
    · refine atTimer_mem s ?_ _
      exact fun _ => rfl
    · rfl
  | heartbeatTimerExpiry => exact ends e (atTimer_mem s heartbeatLost_mem _)
  | auditPeriodExpiry => exact ends e (atTimer_mem s auditExpires_mem _)

end Sys2Proof.Machine
end

section
/-! PROOFS. What one step makes of the FIFOs, the write queue and memory (R161, R164, R165): `PortStep` says it once, and the bounds of queue
and FIFOs and the canonical form of memory follow from it. -/

namespace Sys2Proof.Machine

/-- The FIFOs, the write queue and memory stay. -/
structure StoreKept (s t : State) : Prop where
  wq : t.wq = s.wq
  mem : t.mem = s.mem
  fifo : ∀ l, (t.links.get l).fifo = (s.links.get l).fifo

/-- What one step makes of the write queue and of memory: they stay, the queue is emptied, a link's write or the entries of a write-back join
it, or its oldest entry is drained (R155, R157, R164, R165, R169). -/
inductive QueueStep (s t : State) : Prop where
  | kept (wq : t.wq = s.wq) (mem : t.mem = s.mem)
  | emptied (wq : t.wq = []) (mem : t.mem = s.mem)
  | admitted (e : QEntry) (room : s.wq.length ≤ 5) (inside : e.addr < Config.memoryBytes) (wq : t.wq = s.wq ++ [e]) (mem : t.mem = s.mem)
  | placed (es : List QEntry) (room : es.length ≤ 8 - s.wq.length) (own : ∀ e ∈ es, e.source = none)
      (inside : ∀ e ∈ es, e.addr < Config.memoryBytes) (wq : t.wq = s.wq ++ es) (mem : t.mem = s.mem)
  | drained (e : QEntry) (wq : s.wq = e :: t.wq) (mem : t.mem = drainEntry e s.mem)

/-- A step makes one of these of queue and memory, and no FIFO grows beyond 4 requests (R161). -/
structure PortStep (s t : State) : Prop where
  queue : QueueStep s t
  fifo : ∀ l, (t.links.get l).fifo.length ≤ max 4 (s.links.get l).fifo.length

section
variable {s t v : State} {l m : Fin 13} {r : Request} {a : Nat} {k : WriteClass}

theorem OffPorts.storeKept (h : OffPorts s t) (mem : t.mem = s.mem) : StoreKept s t := ⟨h.wq, mem, h.fifo⟩

theorem StoreKept.step (h : StoreKept s t) : PortStep s t := ⟨.kept h.wq h.mem, fun l => by rw [h.fifo]; exact Nat.le_max_right _ _⟩

theorem QueueStep.congr (h : QueueStep s t) (hwq : v.wq = t.wq) (hmem : v.mem = t.mem) : QueueStep s v := by
  cases h with
  | kept wq mem => exact .kept (hwq.trans wq) (hmem.trans mem)
  | emptied wq mem => exact .emptied (hwq.trans wq) (hmem.trans mem)
  | admitted e room inside wq mem => exact .admitted e room inside (hwq.trans wq) (hmem.trans mem)
  | placed es room own inside wq mem => exact .placed es room own inside (hwq.trans wq) (hmem.trans mem)
  | drained e wq mem => exact .drained e (by rw [hwq]; exact wq) (hmem.trans mem)

/-- What comes after a step and keeps the store changes nothing of what the step has made. -/
theorem PortStep.trans_kept (h : PortStep s t) (k : StoreKept t v) : PortStep s v :=
  ⟨h.queue.congr k.wq k.mem, fun l => by rw [k.fifo]; exact h.fifo l⟩

/-- The same before a step. -/
theorem StoreKept.trans_step (k : StoreKept s t) (h : PortStep t v) : PortStep s v := by
  obtain ⟨hwq, hmem, hfifo⟩ := k
  refine ⟨?_, fun l => by rw [← hfifo]; exact h.fifo l⟩
  cases h.queue with
  | kept wq mem => exact .kept (wq.trans hwq) (mem.trans hmem)
  | emptied wq mem => exact .emptied wq (mem.trans hmem)
  | admitted e room inside wq mem => exact .admitted e (by rw [← hwq]; exact room) inside (by rw [← hwq]; exact wq) (mem.trans hmem)
  | placed es room own inside wq mem => exact .placed es (by rw [← hwq]; exact room) own inside (by rw [← hwq]; exact wq) (mem.trans hmem)
  | drained e wq mem => exact .drained e (by rw [← hwq]; exact wq) (by rw [← hmem]; exact mem)

theorem PortStep.refl (s : State) : PortStep s s := ((OffPorts.refl s).storeKept rfl).step

/-! ### Packets and heads (R159 to R161) -/

/-- A response takes the head from its link's FIFO. -/
theorem respond_fifo_le (tag : Nat) (res : RespResult) (data : List Byte) (s : State) :
    ((respond l tag res data s).links.get m).fifo.length ≤ (s.links.get m).fifo.length := by
  by_cases h : m = l
  · subst h
    rw [respond_link_self, List.length_tail]
    exact Nat.sub_le _ _
  · rw [respond_link_ne _ _ _ _ _ h]

theorem portStep_respond (tag : Nat) (res : RespResult) (data : List Byte) (s : State) : PortStep s (respond l tag res data s) :=
  ⟨.kept rfl rfl, fun _ => (respond_fifo_le tag res data s).trans (Nat.le_max_right _ _)⟩

/-- A request joins a FIFO of fewer than 4 alone. -/
theorem portStep_receive (l : Fin 13) (bs : List Byte) (s : State) : PortStep s (receive l bs s) := by
  have error : PortStep s (s.act (fun _ u => linkError l u)) := ((OffPorts.act _ s).storeKept rfl).step
  rw [receive]
  split
  · next r _ =>
    split
    · next h =>
      refine ⟨.kept rfl rfl, fun m => ?_⟩
      rw [updLink_links, updAt_get]
      split
      · next e =>
        subst e
        simp only [Bool.and_eq_true, decide_eq_true_eq] at h
        have grown : ((s.links.get l).fifo ++ [r]).length = (s.links.get l).fifo.length + 1 := List.length_append
        exact (grown ▸ h.2 : _ ≤ 4).trans (Nat.le_max_left _ _)
      · exact Nat.le_max_right _ _
    · exact error
  · exact error

theorem portStep_judgeHead (l : Fin 13) (s : State) : PortStep s (judgeHead l s) := by
  rw [judgeHead]
  split
  · exact .refl s
  split
  · exact .refl s
  split
  · exact portStep_respond _ _ _ s
  · refine ⟨.kept rfl rfl, fun m => ?_⟩
    rw [updLink_links, updAt_get]
    split <;> exact Nat.le_max_right _ _

/-! ### Admissions (R152, R155, R164) -/

/-- Every view lies inside the memory (R163). -/
theorem viewAddr_lt {x : Nat} (h : viewAddr l x = some a) : a < Config.memoryBytes := by
  rw [viewAddr] at h
  split at h
  · obtain ⟨hx, e⟩ := Option.ite_none_right_eq_some.mp h
    cases e
    exact hx
  · next n _ =>
    have page : slotPage n + 0x1000 ≤ Config.memoryBytes := by
      have := n.isLt
      simp only [slotPage, Config.memoryBytes]
      omega
    split at h
    · cases h; omega
    · obtain ⟨hx, e⟩ := Option.ite_none_right_eq_some.mp h
      cases e
      exact hx.trans (by decide)

/-- Three free entries at least are there for a link's write (R164). -/
theorem admissible_room (h : admissible s l k = some (r, a)) : s.wq.length ≤ 5 := by
  rw [admissible] at h
  split at h
  · obtain ⟨hc, -⟩ := Option.ite_none_right_eq_some.mp h
    simp only [mayAdmit, Bool.and_eq_true, Bool.or_eq_true, decide_eq_true_eq, beq_iff_eq] at hc
    rw [freeEntries] at hc
    omega
  · cases h

theorem portStep_enterQueue (h : admissible s l k = some (r, a)) : PortStep s (enterQueue l r a s) := by
  obtain ⟨-, -, -, target⟩ := admissible_head h
  exact ⟨.admitted { addr := a, data := _, source := _ } (admissible_room h) (viewAddr_lt target) enterQueue_wq rfl,
    fun _ => (respond_fifo_le r.tag .done [] { s with wq := _ }).trans (Nat.le_max_right _ _)⟩

theorem portStep_admitWrite (l : Fin 13) (s : State) : PortStep s (admitWrite l s) := by
  rw [admitWrite]
  split
  · exact .refl s
  · next h => exact (portStep_enterQueue h).trans_kept ((OffPorts.commitRecords l _ _).storeKept (commitRecords_mem l _ _))

theorem portStep_admitHeartbeat (s : State) : PortStep s (admitHeartbeat s) := by
  rw [admitHeartbeat]
  split
  · exact .refl s
  · next h => exact (portStep_enterQueue h).trans_kept ((OffPorts.heartbeatTaken _ _).storeKept (heartbeatTaken_mem _ _))

theorem portStep_admitClear (l : Fin 13) (s : State) : PortStep s (admitClear l s) := by
  rw [admitClear]
  split
  · exact .refl s
  · exact ((OffPorts.act _ s).storeKept rfl).trans_step (portStep_respond _ _ _ _)

/-! ### The memory port (R165, R166) -/

theorem portStep_completeRead (s : State) : PortStep s (completeRead s) := by
  have free : StoreKept s { s with port := none } := ⟨rfl, rfl, fun _ => rfl⟩
  rw [completeRead]
  split
  · split
    · split
      · exact free.trans_step (portStep_respond _ _ _ _)
      · exact free.step
    · exact free.step
  · exact .refl s

theorem portStep_completeDrain (s : State) : PortStep s (completeDrain s) := by
  have fifo : ∀ l, (s.links.get l).fifo.length ≤ max 4 (s.links.get l).fifo.length := fun _ => Nat.le_max_right _ _
  rw [completeDrain]
  split
  · next e rest _ hq => exact ⟨.drained e hq rfl, fifo⟩
  · exact ⟨.kept rfl rfl, fifo⟩
  · exact ⟨.kept rfl rfl, fifo⟩

/-! ### Placements, restarts and the device ID (R157, R169, R177) -/

/-- No record of the part begins in the last page of memory. -/
theorem recSpan_inside (r : RecId) : (recSpan r).1 + 64 < Config.memoryBytes := by
  cases r with
  | slotStatus n | slotEvent n =>
    have := n.isLt
    simp only [recSpan, slotPage, Config.memoryBytes]
    omega
  | managerStatus | chassisEvent | chassisStatus | budget | configAudit => decide
  | supply i | fan i | zone i | inventory i | channel i | row i =>
    have := i.isLt
    simp only [recSpan, Config.memoryBytes]
    omega

/-- The entries of a write-back start inside the memory, the second in the page after the first. -/
theorem placementEntries_inside {addr : Nat} {content : List Byte} (h : addr + 64 < Config.memoryBytes) {e : QEntry}
    (he : e ∈ placementEntries addr content) : e.addr < Config.memoryBytes := by
  rw [placementEntries] at he
  split at he
  · rw [List.mem_singleton.mp he]
    exact (Nat.le_add_right addr 64).trans_lt h
  · rcases List.mem_cons.mp he with he | he
    · rw [he]
      exact (Nat.le_add_right addr 64).trans_lt h
    · rw [List.mem_singleton.mp he]
      dsimp only
      omega

theorem portStep_placeEntry {e : WbEntry} (h : placeable s e = true) : PortStep s (placeEntry e s) := by
  simp only [placeable, Bool.and_eq_true, decide_eq_true_eq] at h
  exact ⟨.placed _ h.2 (fun _ => placementEntries_source) (fun _ => placementEntries_inside (recSpan_inside e.record)) rfl rfl,
    fun _ => Nat.le_max_right _ _⟩

/-- A restart empties every FIFO. -/
theorem fifo_begun (h : t.links = State.reset.links) (l : Fin 13) : (t.links.get l).fifo.length ≤ max 4 (s.links.get l).fifo.length := by
  rw [h, reset_link]
  exact Nat.zero_le _

theorem portStep_beginCold (cause : RestartCause) (s : State) : PortStep s (beginCold cause s) := ⟨.emptied rfl rfl, fifo_begun rfl⟩

theorem portStep_placeNext (s : State) : PortStep s (placeNext s) := by
  rw [placeNext]
  split
  · split
    · next e he =>
      have placed := portStep_placeEntry (List.find?_some he)
      dsimp only
      split
      · exact ⟨placed.queue.congr rfl rfl, fifo_begun rfl⟩
      · exact placed
    · exact .refl s
  · exact .refl s

theorem portStep_deviceIdEnds (answered : Bool) (s : State) : PortStep s (deviceIdEnds answered s) := by
  rw [deviceIdEnds]
  split
  · exact StoreKept.step ⟨rfl, rfl, fun _ => rfl⟩
  · refine PortStep.trans_kept ?_ ((OffPorts.buildAll _ _).storeKept (buildAll_mem _ _))
    exact ⟨.emptied rfl rfl, fun _ => Nat.le_max_right _ _⟩

/-! ### Every step -/

theorem portStep_done (h : PortStep s v) (e : done s v = .next t) : PortStep s t := by
  cases e
  exact h.trans_kept ⟨rfl, rfl, fun _ => rfl⟩

theorem portStep_exec (i : Instr) (e : exec i s = .next t) : PortStep s t := by
  by_cases hp : actsOnPorts i = false
  · obtain ⟨v, ev, k⟩ := exec_offPorts i hp s
    have mem := exec_mem i hp s t e
    rw [ev] at e
    cases e
    exact (k.storeKept mem).step.trans_kept ⟨rfl, rfl, fun _ => rfl⟩
  · cases i with
    | coldStart cause => cases e; exact portStep_beginCold _ s
    | warmRestart => cases e; exact ⟨.kept rfl rfl, fifo_begun rfl⟩
    | deviceIdRead answered =>
      refine portStep_done ?_ e
      split
      · exact portStep_deviceIdEnds answered s
      · exact .refl s
    | packetReceived l bs => exact portStep_done (portStep_receive l bs s) e
    | headJudgment l => exact portStep_done (portStep_judgeHead l s) e
    | writeAdmission l => exact portStep_done (portStep_admitWrite l s) e
    | eventWordClear l => exact portStep_done (portStep_admitClear l s) e
    | heartbeatWrite => exact portStep_done (portStep_admitHeartbeat s) e
    | readComplete => exact portStep_done (portStep_completeRead s) e
    | writeDrain => exact portStep_done (portStep_completeDrain s) e
    | writeBackPlacement => cases e; exact portStep_placeNext s
    | _ => exact absurd rfl hp

/-- A command runs on the queue's rest; a tick changes the clock alone. -/
theorem portStep_step (e : step s = .next t) : PortStep s t := by
  rw [step] at e
  split at e
  · next i rest _ => exact StoreKept.trans_step (t := { s with pending := rest }) ⟨rfl, rfl, fun _ => rfl⟩ (portStep_exec i e)
  · cases e
    exact StoreKept.step ⟨rfl, rfl, fun _ => rfl⟩

/-! ### What the steps keep -/

/-- An entry from a link finds at most 5 entries, and the write-backs fill no more than the free ones (R164). -/
theorem QueueStep.share (h : QueueStep s t) (hs : QueueShare s) : QueueShare t := by
  obtain ⟨total, links⟩ := hs
  cases h with
  | kept wq _ => rw [QueueShare, wq]; exact ⟨total, links⟩
  | emptied wq _ => rw [QueueShare, wq]; decide
  | admitted e room _ wq _ =>
    have fewer : (s.wq.filter (fun e => e.source.isSome)).length ≤ 5 := (List.length_filter_le _ _).trans room
    have one : ([e].filter (fun e => e.source.isSome)).length ≤ 1 := List.length_filter_le _ _
    rw [QueueShare, wq, List.filter_append, List.length_append, List.length_append, List.length_singleton]
    omega
  | placed es room own _ wq _ =>
    have noLinks : es.filter (fun e => e.source.isSome) = [] := List.filter_eq_nil_iff.mpr fun e he => by simp [own e he]
    rw [QueueShare, wq, List.filter_append, noLinks, List.append_nil, List.length_append]
    omega
  | drained e wq _ =>
    rw [wq] at total links
    exact ⟨(Nat.le_succ _).trans total, ((List.sublist_cons_self e t.wq).filter _).length_le.trans links⟩

/-- A drain writes inside the entry's page, which lies inside the memory (R165). -/
theorem QueueStep.memorySound (h : QueueStep s t) (hs : MemorySound s) : MemorySound t := by
  obtain ⟨wf, inside⟩ := hs
  cases h with
  | kept wq mem => rw [MemorySound, wq, mem]; exact ⟨wf, inside⟩
  | emptied wq mem => rw [MemorySound, wq, mem]; exact ⟨wf, nofun⟩
  | admitted e _ he wq mem =>
    rw [MemorySound, wq, mem]
    exact ⟨wf, fun q hq => (List.mem_append.mp hq).elim (inside q) fun hq => by rw [List.mem_singleton.mp hq]; exact he⟩
  | placed es _ _ he wq mem =>
    rw [MemorySound, wq, mem]
    exact ⟨wf, fun q hq => (List.mem_append.mp hq).elim (inside q) (he q)⟩
  | drained e wq mem =>
    rw [wq] at inside
    rw [MemorySound, mem]
    exact ⟨drainEntry_wf wf (inside e List.mem_cons_self), fun q hq => inside q (List.mem_cons_of_mem e hq)⟩

end
end Sys2Proof.Machine
end

section
open Sys2Proof Sys2Proof.Machine

/-- Settles O3: what a step makes of queue and FIFOs (`portStep_step`) stays within the bounds that the state before meets. -/
theorem queueAndFifoBoundsKept : Obligations.QueueAndFifoBoundsKept := fun s t hq hf e => by
  have made := portStep_step e
  exact ⟨made.queue.share hq, fun l => (made.fifo l).trans (Nat.max_le.mpr ⟨Nat.le_refl 4, hf l⟩)⟩

/-- Settles O5: only a drain writes memory (`portStep_step`), and what joins the queue starts inside it. -/
theorem memoryStaysSound : Obligations.MemoryStaysSound := fun _ _ hs e => (portStep_step e).queue.memorySound hs
end

section
/-! PROOFS. The memory port (R165 to R167): the arbiter's choice, the byte that a read returns, and the bytes that a drain writes. -/

namespace Sys2Proof.Machine

section
variable {s : State}

/-! ### The arbiter (R167) -/

/-- The position `k` places behind the one that stands after the pointer. -/
def roundPos (p : Fin 15) (k : Fin 15) : Fin 15 := ⟨(p.val + 1 + k.val) % 15, Nat.mod_lt _ (by decide)⟩

theorem roundAfter_eq (p : Fin 15) : roundAfter p = (indices 15).map (roundPos p) := rfl

/-- The first contender in round order is the next one served. -/
theorem nextGrant_first {k : Fin 15} {g : Grant} (hk : contender s (roundPos s.arb k) = some g)
    (hj : ∀ j, j < k → contender s (roundPos s.arb j) = none) : nextGrant s = some (roundPos s.arb k, g) := by
  obtain ⟨before, after, split⟩ := List.append_of_mem (mem_indices k)
  have earlier : ∀ j ∈ before, j < k := by
    have order : (indices 15).Pairwise (· < ·) := List.pairwise_lt_finRange 15
    rw [split, List.pairwise_append] at order
    exact fun j h => order.2.2 j h k List.mem_cons_self
  rw [nextGrant, roundAfter_eq, List.findSome?_map, List.findSome?_eq_some_iff]
  refine ⟨before, k, after, split, ?_, fun j h => ?_⟩
  · simp only [Function.comp_apply, hk, Option.map_some]
  · simp only [Function.comp_apply, hj j (earlier j h), Option.map_none]

theorem nextGrant_none (h : ∀ p, contender s p = none) : nextGrant s = none :=
  List.findSome?_eq_none_iff.mpr fun p _ => by rw [h]; rfl

section
variable (hp : s.port = none) (hm : s.ctx.sup.memOk = true)
include hp hm

/-- A full queue drains and the pointer stays. -/
theorem grantPort_full (full : s.wq.length = 8) : grantPort s = { s with port := some .drain } := by
  rw [grantPort, if_neg (by rw [hp, hm]; decide), if_pos full]

theorem grantPort_next (room : s.wq.length ≠ 8) {p : Fin 15} {g : Grant} (h : nextGrant s = some (p, g)) :
    grantPort s = { s with port := some g, arb := p } := by
  rw [grantPort, if_neg (by rw [hp, hm]; decide), if_neg room, h]

theorem grantPort_idle (room : s.wq.length ≠ 8) (h : nextGrant s = none) : grantPort s = s := by
  rw [grantPort, if_neg (by rw [hp, hm]; decide), if_neg room, h]

end

/-- A grant changes the port and the pointer alone. -/
theorem grantPort_rest (s : State) : grantPort s = { s with port := (grantPort s).port, arb := (grantPort s).arb } := by
  rw [grantPort]
  split
  · rfl
  split
  · rfl
  split <;> rfl

/-! ### Reads (R166) -/

/-- The READ at the head of the link that has the port completes with the bytes as they stand now. -/
theorem completeRead_head {l : Fin 13} {r : Request} {rest : List Request} {a : Nat} (hp : s.port = some (.read l))
    (hf : (s.links.get l).fifo = r :: rest) (ht : readTarget l r = some a) :
    completeRead s = respond l r.tag .done (readSpan s.wq s.mem a r.len) { s with port := none } := by
  have head : headOf s l = some r := by rw [headOf, hf]; rfl
  simp only [completeRead, hp, head, ht]

/-! ### Drains (R165) -/

theorem completeDrain_oldest {e : QEntry} {rest : List QEntry} (hp : s.port = some .drain) (hq : s.wq = e :: rest) :
    completeDrain s = { s with wq := rest, mem := drainEntry e s.mem, port := none } := by
  rw [completeDrain, hp, hq]

/-- Of writes to different addresses each is read back. -/
theorem readCell_writeCells_mem {cells : List Host.Cell} {m : Memory} (hm : Memory.wf m = true)
    (inside : ∀ c : Host.Cell, c ∈ cells → c.1 < Config.memoryBytes) (once : (cells.map Prod.fst).Nodup) {c : Host.Cell} (hc : c ∈ cells) :
    readCell (writeCells cells m) c.1 = c.2 := by
  induction cells generalizing m with
  | nil => cases hc
  | cons d rest ih =>
    obtain ⟨fresh, once'⟩ := List.nodup_cons.mp once
    have wf := writeCell_wf (v := d.2) hm (inside d List.mem_cons_self)
    have inside' : ∀ c : Host.Cell, c ∈ rest → c.1 < Config.memoryBytes := fun c h => inside c (List.mem_cons_of_mem d h)
    rcases List.mem_cons.mp hc with rfl | hc
    · have kept := readCell_writeCells_other (a := c.1) wf fun x hx =>
        ⟨inside' x hx, fun e => fresh (by rw [← e]; exact List.mem_map_of_mem hx)⟩
      exact kept.trans ((readCell_writeCell hm).trans (if_pos rfl))
    · exact ih wf inside' once' hc

/-- The bytes of an entry of at most a page fall on different addresses. -/
theorem entryCells_once {e : QEntry} (h : e.data.length ≤ 64) : ((entryCells e).map Prod.fst).Nodup := by
  rw [entryCells, List.map_map]
  refine (List.nodup_map_iff_inj_on List.nodup_range).mpr fun i hi j hj same => ?_
  rw [List.mem_range] at hi hj
  simp only [Function.comp_apply, wrapAddr] at same
  omega

theorem entryCells_inside {e : QEntry} (h : e.addr < Config.memoryBytes) (c : Host.Cell) (hc : c ∈ entryCells e) : c.1 < Config.memoryBytes := by
  have page := entryCells_page hc
  simp only [Config.memoryBytes] at h ⊢
  omega

section
variable {e : QEntry} {m : Memory} (wf : Memory.wf m = true) (inside : e.addr < Config.memoryBytes)
include wf inside

/-- Each byte of the entry stands at its address, wrapped within the page. -/
theorem drainEntry_written (h : e.data.length ≤ 64) {i : Nat} (hi : i < e.data.length) :
    readCell (drainEntry e m) (wrapAddr e.addr i) = e.data.getD i 0 :=
  readCell_writeCells_mem (c := (wrapAddr e.addr i, e.data.getD i 0)) wf (entryCells_inside inside) (entryCells_once h)
    (List.mem_map_of_mem (List.mem_range.mpr hi))

theorem drainEntry_other {x : Nat} (hx : ∀ i < e.data.length, x ≠ wrapAddr e.addr i) : readCell (drainEntry e m) x = readCell m x := by
  refine readCell_writeCells_other wf fun c hc => ⟨entryCells_inside inside c hc, ?_⟩
  obtain ⟨i, hi, rfl⟩ := List.mem_map.mp hc
  exact (hx i (List.mem_range.mp hi)).symm

end

end
end Sys2Proof.Machine
end

section
open Sys2Proof Sys2Proof.Machine

/-- Settles O23: a grant changes port and pointer alone (`grantPort_rest`); the first contender in round order is `nextGrant_first`. -/
theorem arbiterServesInRoundOrder : Obligations.ArbiterServesInRoundOrder := by
  intro s hp hm
  refine ⟨finish s (grantPort s), rfl, ?_⟩
  rw [finish_port, finish_arb]
  refine ⟨?_, ?_, ?_, ?_, ?_, ?_, fun full => ?_, fun room idle => ?_, fun room k g hk hj => ?_⟩
  iterate 6 rw [grantPort_rest]; rfl
  · rw [grantPort_full hp hm full]; exact ⟨rfl, rfl⟩
  · rw [grantPort_idle hp hm room (nextGrant_none idle)]; exact ⟨hp, rfl⟩
  · rw [grantPort_next hp hm room (nextGrant_first hk hj)]; exact ⟨rfl, rfl⟩

/-- Settles O24: the response is made of the bytes at this moment (`completeRead_head`), each the newest one (`readSpan_getD`). -/
theorem readReturnsTheNewestByte : Obligations.ReadReturnsTheNewestByte := by
  intro s l r rest a hp hf ht
  refine ⟨finish s (completeRead s), readSpan s.wq s.mem a r.len, rfl, readSpan_length _ _ _ _, fun _ hi => readSpan_getD _ _ _ _ hi, ?_⟩
  rw [completeRead_head hp hf ht, finish_links, finish_tx, respond_tx_self, respond_link_self]
  exact ⟨rfl, congrArg List.tail hf, rfl, rfl, rfl, fun m hm => ⟨respond_link_ne _ _ _ _ _ hm, respond_tx_ne _ _ _ _ _ hm⟩,
    rfl, rfl, rfl, rfl⟩

/-- Settles O25: the drain stores the entry (`drainEntry_written`) and no other byte (`drainEntry_other`). -/
theorem drainWritesTheOldestEntry : Obligations.DrainWritesTheOldestEntry := by
  intro s e rest hm hp hq hlen
  obtain ⟨wf, inside⟩ := hm
  have he : e.addr < Config.memoryBytes := inside e (by rw [hq]; exact List.mem_cons_self)
  refine ⟨finish s (completeDrain s), rfl, ?_⟩
  rw [completeDrain_oldest hp hq]
  exact ⟨rfl, rfl, rfl, fun _ hi => drainEntry_written wf he hlen hi, fun _ hx => drainEntry_other wf he hx, rfl, rfl, rfl, rfl⟩
end

section
/-! PROOFS. Request packets (R159), what a port makes of them (R161, R162), and the tests of a head (R160, R163). -/

namespace Sys2Proof.Machine

section
variable {s : State} {l : Fin 13} {r : Request} {bs : List Byte}

/-! ### Packets (R159) -/

/-- A packet passes the three tests of R159. -/
def Framed (bs : List Byte) : Prop :=
  byteAt bs 0 = 0xA5 ∧ bs.length = (if byteAt bs 1 / 4 % 4 = 1 then 7 + byteAt bs 5 else 7)
    ∧ bs.getD (bs.length - 1) 0 = packetCrc (bs.take (bs.length - 1))

/-- The request that the bytes of a packet spell. -/
def spelledRequest (bs : List Byte) : Request :=
  { kind := byteAt bs 1 / 4 % 4, tag := byteAt bs 1 % 4, addr := ofLe (sliceAt bs 2 3), len := byteAt bs 5,
    data := if byteAt bs 1 / 4 % 4 = 1 then sliceAt bs 6 (byteAt bs 5) else [] }

theorem framed_of_parse (h : parsePacket bs = some r) : Framed bs := by
  obtain ⟨⟨first, count, crc⟩, -⟩ := Option.ite_none_right_eq_some.mp h
  rw [← count] at crc
  exact ⟨first, count, crc⟩

theorem parsePacket_framed (h : Framed bs) : parsePacket bs = some (spelledRequest bs) := by
  obtain ⟨first, count, crc⟩ := h
  rw [count] at crc
  exact if_pos ⟨first, count, crc⟩

theorem parsePacket_bad (h : ¬ Framed bs) : parsePacket bs = none := by
  rw [Option.eq_none_iff_forall_ne_some]
  exact fun r hr => h (framed_of_parse hr)

theorem byteAt_eq_iff (i : Nat) (b : Byte) : byteAt bs i = b.toNat ↔ bs.getD i 0 = b := BitVec.toNat_inj

/-- The last byte of a packet is its check. -/
theorem framed_crc {body : List Byte} {crc : Byte} (h : Framed (body ++ [crc])) : crc = packetCrc body := by
  obtain ⟨-, -, check⟩ := h
  simpa using check

/-- A little-endian address of three bytes. -/
theorem ofLe_three {addr : Nat} (h : addr < 0x1000000) : ofLe [byteOf addr, byteOf (addr / 256), byteOf (addr / 65536)] = addr := by
  simp only [ofLe, byteOf, BitVec.toNat_ofNat]
  omega

section
variable {high kind tag addr len : Nat} {data : List Byte}

theorem requestPacket_kind (hh : high < 16) (hk : kind < 4) (ht : tag < 4) :
    byteAt (requestPacket high kind tag addr len data) 1 = 16 * high + 4 * kind + tag := by
  simp only [byteAt, requestPacket, List.cons_append, List.getD_cons_succ, List.getD_cons_zero, byteOf, BitVec.toNat_ofNat]
  omega

theorem requestPacket_len (hl : len < 256) : byteAt (requestPacket high kind tag addr len data) 5 = len := by
  simp only [byteAt, requestPacket, List.cons_append, List.getD_cons_succ, List.getD_cons_zero, byteOf, BitVec.toNat_ofNat]
  omega

theorem requestPacket_length : (requestPacket high kind tag addr len data).length = 7 + data.length := by
  simp only [requestPacket, List.length_append, List.length_cons, List.length_nil]
  omega

/-- A packet composed as 12.1 says is the request it spells. -/
theorem parsePacket_requestPacket (hh : high < 16) (hk : kind < 4) (ht : tag < 4) (ha : addr < 0x1000000) (hl : len < 256)
    (hd : data.length = (if kind = 1 then len else 0)) : parsePacket (requestPacket high kind tag addr len data) =
      some { kind := kind, tag := tag, addr := addr, len := len, data := data } := by
  have kindByte := requestPacket_kind (addr := addr) (len := len) (data := data) hh hk ht
  have lenByte := requestPacket_len (high := high) (kind := kind) (tag := tag) (addr := addr) (data := data) hl
  have kindOf : (16 * high + 4 * kind + tag) / 4 % 4 = kind := by omega
  have tagOf : (16 * high + 4 * kind + tag) % 4 = tag := by omega
  have framed : Framed (requestPacket high kind tag addr len data) := by
    refine ⟨rfl, ?_, ?_⟩
    · rw [kindByte, lenByte, kindOf, requestPacket_length, hd]
      split <;> rfl
    · simp [requestPacket]
  rw [parsePacket_framed framed, spelledRequest, kindByte, lenByte, kindOf, tagOf]
  have address : ofLe (sliceAt (requestPacket high kind tag addr len data) 2 3) = addr := ofLe_three ha
  have payload : (if kind = 1 then sliceAt (requestPacket high kind tag addr len data) 6 len else []) = data := by
    split
    · next hk =>
      rw [if_pos hk] at hd
      subst hd
      simp [sliceAt, requestPacket]
    · next hk =>
      rw [if_neg hk] at hd
      exact (List.length_eq_zero_iff.mp hd).symm
  rw [address, payload]

end

/-! ### Ports (R161, R162) -/

theorem receive_joins (hp : parsePacket bs = some r) (ho : (s.links.get l).isOpen = true) (hf : (s.links.get l).fifo.length < 4) :
    receive l bs s = s.updLink l (fun x => { x with fifo := x.fifo ++ [r] }) := by
  rw [receive, hp]
  exact if_pos (by simp [ho, hf])

theorem receive_error (h : parsePacket bs = none ∨ (s.links.get l).isOpen = false ∨ 4 ≤ (s.links.get l).fifo.length) :
    receive l bs s = s.act (fun _ u => linkError l u) := by
  rw [receive]
  split
  · next r hr =>
    refine if_neg fun hc => ?_
    simp only [Bool.and_eq_true, decide_eq_true_eq] at hc
    rcases h with h | h | h
    · rw [hr] at h; cases h
    · rw [h] at hc; cases hc.1
    · omega
  · rfl

/-- A link error changes counters and event words alone (R162). -/
theorem linkError_rest (l : Fin 13) (u : Units) : linkError l u = { u with
    linkErr := (linkError l u).linkErr, slotEvents := (linkError l u).slotEvents, chassisEvent := (linkError l u).chassisEvent } := by
  unfold linkError
  split <;> rfl

theorem linkError_count (l : Fin 13) (u : Units) : (linkError l u).linkErr = updAt u.linkErr l (fun k => min 255 (k + 1)) := by
  unfold linkError
  split <;> rfl

theorem linkError_slot (n : Fin 12) (u : Units) : linkError (slotLink n) u =
    setSlotBit n .linkError { u with linkErr := updAt u.linkErr (slotLink n) (fun k => min 255 (k + 1)) } := by
  rw [linkError, linkSlot_slotLink]

/-! ### Heads (R160) -/

section
variable {rest : List Request} (hf : (s.links.get l).fifo = r :: rest) (hj : (s.links.get l).judged = false) (ht : (s.links.get l).takes = [])
include hf hj ht

theorem judgeHead_answers {res : RespResult} (h : judge s.ctx l r = some res) : judgeHead l s = respond l r.tag res [] s := by
  simp only [judgeHead, hf, hj, ht, h, List.isEmpty_nil, Bool.not_true, Bool.or_self, Bool.false_eq_true, if_false]

theorem judgeHead_waits (h : judge s.ctx l r = none) : judgeHead l s = s.updLink l (fun x => { x with judged := true }) := by
  simp only [judgeHead, hf, hj, ht, h, List.isEmpty_nil, Bool.not_true, Bool.or_self, Bool.false_eq_true, if_false]

/-- A judgment changes the registers and the packet of its link alone. -/
theorem judgeHead_rest :
    judgeHead l s = { s with links := (judgeHead l s).links, tx := (judgeHead l s).tx, sentAt := (judgeHead l s).sentAt } := by
  cases h : judge s.ctx l r with
  | some res => rw [judgeHead_answers hf hj ht h]; rfl
  | none => rw [judgeHead_waits hf hj ht h]; rfl

theorem judgeHead_others {m : Fin 13} (hm : m ≠ l) :
    (judgeHead l s).links.get m = s.links.get m ∧ (judgeHead l s).tx.get m = s.tx.get m := by
  cases h : judge s.ctx l r with
  | some res => rw [judgeHead_answers hf hj ht h]; exact ⟨respond_link_ne _ _ _ _ _ hm, respond_tx_ne _ _ _ _ _ hm⟩
  | none => rw [judgeHead_waits hf hj ht h]; exact ⟨updAt_get_ne _ _ _ _ hm.symm, rfl⟩

end

theorem coversDenied_iff (l : Fin 13) (a len : Nat) : coversDenied l a len = true ↔ ∃ i < len, byteKind l (wrapAddr a i) = .denied := by
  simp [coversDenied, writeSpan]

section
variable {c : Ctx} (kind : ¬ 2 ≤ r.kind) (len : ¬ (r.len = 0 ∨ 64 < r.len)) (mem : c.sup.memOk ≠ false)
include kind len mem

/-- Past tests 1 to 3 a READ is judged by its view (test 4). -/
theorem judge_of_read (read : r.kind = 0) : judge c l r = if (readTarget l r).isNone then some .denied else none := by
  rw [judge, if_neg kind, if_neg len, if_neg (by simpa using mem), if_pos read]

/-- A WRITE outside the view is denied (test 4). -/
theorem judge_of_noTarget (write : r.kind ≠ 0) (target : writeTarget l r = none) : judge c l r = some .denied := by
  rw [judge, if_neg kind, if_neg len, if_neg (by simpa using mem), if_neg write, target]

/-- A WRITE inside the view is judged by the bytes that it covers (test 5). -/
theorem judge_of_target {a : Nat} (write : r.kind ≠ 0) (target : writeTarget l r = some a) :
    judge c l r = if coversDenied l a r.len then some .denied else none := by
  rw [judge, if_neg kind, if_neg len, if_neg (by simpa using mem), if_neg write, target]

end

/-! ### Views (R163) -/

theorem viewAddr_manager {x a : Nat} (h : viewAddr 0 x = some a) : a = x ∧ x < Config.memoryBytes := by
  obtain ⟨hx, e⟩ := Option.ite_none_right_eq_some.mp h
  cases e
  exact ⟨rfl, hx⟩

/-- A slot link's view is its page, and behind it the summary area. -/
theorem viewAddr_slot {n : Fin 12} {x a : Nat} (h : viewAddr (slotLink n) x = some a) :
    (x < 0x1000 ∧ a = slotPage n + x) ∨ (0x1000 ≤ x ∧ x < 0x2000 ∧ a = x) := by
  rw [viewAddr, linkSlot_slotLink] at h
  dsimp only at h
  split at h
  · next hx => cases h; exact .inl ⟨hx, rfl⟩
  · next hx =>
    obtain ⟨hx', e⟩ := Option.ite_none_right_eq_some.mp h
    cases e
    exact .inr ⟨Nat.le_of_not_lt hx, hx', rfl⟩

/-- The first and the last byte of a READ lie in the view, one run apart. -/
theorem readTarget_view {a : Nat} (h : readTarget l r = some a) :
    viewAddr l r.addr = some a ∧ viewAddr l (r.addr + (r.len - 1)) = some (a + (r.len - 1)) := by
  rw [readTarget] at h
  split at h
  · next b d hb hd =>
    obtain ⟨run, e⟩ := Option.ite_none_right_eq_some.mp h
    cases e
    exact ⟨hb, by rw [hd, run]⟩
  · cases h

end
end Sys2Proof.Machine
end

section
open Sys2Proof Sys2Proof.Machine

/-- Settles O15: the tests of a packet are `Framed`, which a composed packet meets (`parsePacket_requestPacket`); a request joins
(`receive_joins`), anything else is a link error (`receive_error`). -/
theorem packetJoinsTheFifoOrCounts : Obligations.PacketJoinsTheFifoOrCounts := by
  refine ⟨fun high kind tag addr len data => parsePacket_requestPacket, fun bs h => parsePacket_bad fun ⟨first, _, _⟩ => ?_,
    fun bs h => parsePacket_bad fun ⟨_, count, _⟩ => h count, fun body crc h => parsePacket_bad fun hf => h (framed_crc hf),
    fun s l bs => ⟨fun r hp ho hf => ⟨finish s (receive l bs s), rfl, ?_⟩, fun h => ⟨finish s (receive l bs s), rfl, ?_⟩⟩⟩
  · exact h ((byteAt_eq_iff 0 0xA5).mp first)
  · rw [receive_joins hp ho hf]
    refine ⟨?_, fun m hm => updAt_get_ne _ _ _ _ hm.symm, rfl, rfl, rfl, rfl, rfl⟩
    rw [finish_links, updLink_links, updAt_get_self]
  · rw [receive_error h]
    refine ⟨rfl, rfl, ?_, fun m hm => ?_, ?_, ?_, ?_, rfl, rfl, rfl⟩
    · show (linkError l s.units).linkErr.get l = _
      rw [linkError_count, updAt_get_self]
    · show (linkError l s.units).linkErr.get m = _
      rw [linkError_count, updAt_get_ne _ _ _ _ hm.symm]
    · rintro n rfl
      show slotFlag (linkError (slotLink n) s.units) n .linkError = true ∧ (linkError (slotLink n) s.units).chassisEvent = _
      rw [linkError_slot]
      exact ⟨setSlotBit_flag _ _ _, rfl⟩
    · rintro rfl
      exact ⟨setChassisBit_flag _ _, rfl⟩
    · exact congrArg Units.settled (linkError_rest l s.units)

/-- Settles O16: the head is answered or waits as `judge` says (`judgeHead_answers`, `judgeHead_waits`), test by test; of a READ the first and the
last byte lie in the view (`readTarget_view`), and so does what is between them. -/
theorem headIsJudgedInOrder : Obligations.HeadIsJudgedInOrder := by
  refine ⟨fun s l r rest hf hj ht => ?_, fun r a hl h => ?_, fun n r a hl h => ?_⟩
  · have answered {res : RespResult} (h : judge s.ctx l r = some res) : ((judgeHead l s).links.get l).fifo = rest
        ∧ ((judgeHead l s).links.get l).judged = false
        ∧ (judgeHead l s).tx.get l = respPacket r.tag res (statusByte s.ctx s.units l) [] := by
      rw [judgeHead_answers hf hj ht h, respond_link_self, respond_tx_self, hf]
      exact ⟨rfl, rfl, rfl⟩
    have waits (h : judge s.ctx l r = none) :
        (judgeHead l s).links.get l = { s.links.get l with judged := true } ∧ (judgeHead l s).tx = s.tx := by
      rw [judgeHead_waits hf hj ht h, updLink_links, updAt_get_self]
      exact ⟨rfl, rfl⟩
    refine ⟨finish s (judgeHead l s), rfl, ?_, ?_, ?_, ?_, ?_, ?_, ?_, fun m hm => judgeHead_others hf hj ht hm⟩
    iterate 6 rw [judgeHead_rest hf hj ht]; rfl
    dsimp only [finish_links, finish_tx]
    split
    · next kind => exact answered (by rw [judge, if_pos kind])
    next kind =>
    split
    · next len => exact answered (by rw [judge, if_neg kind, if_pos len])
    next len =>
    split
    · next mem => exact answered (by rw [judge, if_neg kind, if_neg len, mem]; rfl)
    next mem =>
    split
    · next read =>
      have test := judge_of_read (l := l) kind len mem read
      split
      · next target => exact answered (by rw [test, target]; rfl)
      · next target => exact waits (by rw [test, if_neg (by simpa using target)])
    next write =>
    split
    · next target => exact answered (judge_of_noTarget kind len mem write target)
    · next a target =>
      have test := judge_of_target kind len mem write target
      split
      · next denied => exact answered (test.trans (if_pos ((coversDenied_iff l a r.len).mpr denied)))
      · next allowed => exact waits (test.trans (if_neg fun h => allowed ((coversDenied_iff l a r.len).mp h)))
  · obtain ⟨first, last⟩ := readTarget_view h
    obtain ⟨rfl, -⟩ := viewAddr_manager first
    have inside := (viewAddr_manager last).2
    simp only [Config.memoryBytes] at inside
    exact ⟨rfl, by omega⟩
  · obtain ⟨first, last⟩ := readTarget_view h
    have page : slotPage n = 0x10000 + n.val * 0x1000 := rfl
    rcases viewAddr_slot first with ⟨hx, ha⟩ | ⟨hx, hx', ha⟩ <;> rcases viewAddr_slot last with ⟨hy, hb⟩ | ⟨hy, hy', hb⟩
    · exact .inl ⟨by omega, by omega⟩
    · omega
    · omega
    · exact .inr ⟨hx, by omega, ha⟩
end

section
/-! PROOFS. The device ID read (R169, R173, R177). Without an answer start-up runs through with nothing read: memory stays unanswered, no read is
asked for, rows and faults stay as the defaults left them, and event bits stay set (`Unread`). -/

namespace Sys2Proof.Machine

/-! ### Event bits stay set (R155) -/

/-- Every bit set in an event word is still set. -/
structure BitsKept (u v : Units) : Prop where
  slot : ∀ m b, slotFlag u m b = true → slotFlag v m b = true
  chassis : ∀ b, chassisFlag u b = true → chassisFlag v b = true

section
variable {u v w : Units} {c : Ctx} {n : Fin 12}

namespace BitsKept

theorem of_eq (hs : v.slotEvents = u.slotEvents) (hc : v.chassisEvent = u.chassisEvent) : BitsKept u v :=
  ⟨fun m b h => by rw [slotFlag, hs]; exact h, fun b h => by rw [chassisFlag, hc]; exact h⟩

theorem refl (u : Units) : BitsKept u u := of_eq rfl rfl

theorem trans (a : BitsKept u v) (b : BitsKept v w) : BitsKept u w :=
  ⟨fun m x h => b.slot m x (a.slot m x h), fun x h => b.chassis x (a.chassis x h)⟩

theorem ite {p : Prop} [Decidable p] (a : BitsKept u v) (b : BitsKept u w) : BitsKept u (if p then v else w) := by split <;> assumption

theorem foldl {α : Type} {f : Units → α → Units} (h : ∀ u a, BitsKept u (f u a)) (l : List α) (u : Units) : BitsKept u (l.foldl f u) :=
  List.foldlRecOn (motive := fun v : Units => BitsKept u v) l f (.refl u) (fun v hv a _ => hv.trans (h v a))

end BitsKept

theorem Frame.bitsKept (h : Frame u v) : BitsKept u v := ⟨h.slotBits, h.chassisBits⟩
theorem Built.bitsKept (h : Built u v) : BitsKept u v := ⟨h.slotBits, h.chassisBits⟩
theorem Reported.bitsKept (h : Reported u v) : BitsKept u v := ⟨h.slotBits, h.chassisBits⟩
theorem Wired.bitsKept (h : Wired u v) : BitsKept u v := .of_eq h.slotEvents h.chassisEvent
theorem FanUnit.bitsKept (h : FanUnit u v) : BitsKept u v := ⟨fun m b hb => by rw [slotFlag, h.units]; exact hb, h.bits⟩

theorem bitsKept_settle : BitsKept u (settle c u) := settle_keeps.frame.bitsKept
theorem bitsKept_settled (h : BitsKept u v) : BitsKept u (settleAfter c w v) := h.trans settleAfter_keeps.frame.bitsKept

theorem bitsKept_changeEntry (e : Entry) : BitsKept u (changeEntry c (bladePos n) e u) :=
  (built_storeEntry _ e).bitsKept.trans (reported_changeEntry e).bitsKept

/-! ### Slots settled without a read (R27, R91) -/

theorem bitsKept_adoptStandby : BitsKept u (adoptStandby c n none u) := by
  let v := u.updSlot n (fun x => { darkSlot x with state := .standby, stbyEn := true })
  have dark : BitsKept u v := .of_eq rfl rfl
  have entry : adoptStandby c n none u =
      changeEntry c (bladePos n) { bladeEntry v n with state := .unread, reason := .none, ident := .cleared } v := rfl
  rw [entry]
  exact dark.trans (bitsKept_changeEntry _)

theorem bitsKept_settleSlot : BitsKept u (settleSlot n none c u) := by
  have begun : BitsKept u (settleBegun c n u) := .of_eq rfl rfl
  have left : BitsKept u ((settleBegun c n u).updSlot n emptySlot) := .of_eq rfl rfl
  exact .ite left (.ite left (begun.trans bitsKept_adoptStandby))

theorem bitsKept_placeSlots : BitsKept u (placeSlots c u) := by
  rw [placeSlots_rest]
  exact .of_eq rfl rfl

/-! ### The end of a warm restart (R27, R145) -/

theorem bitsKept_pgoodRises : BitsKept u (pgoodRises c n u) := by
  rw [pgoodRises]
  split
  · exact .of_eq rfl rfl
  iterate 3 exact (derived_setSlotBit _).built.bitsKept
  · exact .refl u

theorem bitsKept_pgoodFalls : BitsKept u (pgoodFalls c n u) := by
  rw [pgoodFalls]
  split
  iterate 2 exact (only_cutToFault _).frame.bitsKept
  · exact .refl u

theorem bitsKept_slotConditions (n : Fin 12) : BitsKept u (slotConditions c u n) := by
  let u1 := if railFltLevel c n then settleAfter c u (railFaults c n u) else u
  let u2 := if !pgoodLevel c n then settleAfter c u1 (pgoodFalls c n u1) else u1
  let u3 := if pgoodLevel c n && !(u2.slot n).mainEn then pgoodRises c n u2 else u2
  let u4 := if held c n then settleAfter c u3 (holdSlot c n u3) else u3
  have h1 : BitsKept u u1 := .ite (bitsKept_settled (.ite (only_cutToFault _).frame.bitsKept (.refl u))) (.refl u)
  have h2 : BitsKept u1 u2 := .ite (bitsKept_settled bitsKept_pgoodFalls) (.refl u1)
  have h3 : BitsKept u2 u3 := .ite bitsKept_pgoodRises (.refl u2)
  have h4 : BitsKept u3 u4 := .ite (bitsKept_settled (only_holdSlot _ _ _).frame.bitsKept) (.refl u3)
  have h5 : BitsKept u4 (if !leverClosed c n && (u4.slot n).state == .on then settleAfter c u4 (leverOpened c n u4) else u4) :=
    .ite (bitsKept_settled (only_leverOpened _ _ _).frame.bitsKept) (.refl u4)
  exact (((h1.trans h2).trans h3).trans h4).trans h5

theorem bitsKept_rebuildChannels : BitsKept u (rebuildChannels c u) := by
  have inUse (u : Units) : BitsKept u ((indices 4).foldl (fun u p => portComesIntoUse p u) u) :=
    (Wired.foldl (fun _ p => wired_portComesIntoUse p) _ _).bitsKept
  have lanes (u : Units) : BitsKept u ((indices 12).foldl (fun u n => (indices 4).foldl (fun u k => rebuildLane c u n k) u) u) :=
    (Wired.foldl (fun _ n => Wired.foldl (fun _ k => wired_rebuildLane n k) _ _) _ _).bitsKept
  have claims (u : Units) : BitsKept u ((indices 12).foldl (fun u n =>
      if powered (u.slot n) then u.updSlot n (fun x => { x with claimed := activeCount u n, group := .any }) else u) u) :=
    BitsKept.foldl (fun _ n => .ite (only_updSlot (n := n) _).frame.bitsKept (.refl _)) _ _
  have enables (u : Units) : BitsKept u ((indices 4).foldl loadEnable u) := (Wired.foldl (fun _ p => wired_updPort p _) _ _).bitsKept
  rw [rebuildChannels]
  exact (((inUse u).trans (lanes _)).trans (claims _)).trans (enables _)

end

/-! ### Start-up with nothing read (R169) -/

/-- Nothing is read: memory does not answer, rows and internal reads stay, and event bits stay set. -/
structure Unread (s t : State) : Prop where
  silent : t.ctx.sup.memOk = false
  rows : t.ctx.cfg.rows = s.ctx.cfg.rows
  fault : t.ctx.cfg.fault = s.ctx.cfg.fault
  reads : t.reads = s.reads
  bits : BitsKept s.units t.units

/-- Start-up has ended without memory: the mode is FAILSAFE, and every port is OPEN (R161, R169, R177). -/
structure EndsSilent (t : State) : Prop where
  phase : t.ctx.sup.phase = .done
  mode : t.ctx.sup.mode = .failsafe
  flag : chassisFlag t.units .failsafe = true
  opened : ∀ l, (t.links.get l).isOpen = true

section
variable {s t v : State}

theorem Unread.trans (a : Unread s t) (b : Unread t v) : Unread s v :=
  ⟨b.silent, b.rows.trans a.rows, b.fault.trans a.fault, b.reads.trans a.reads, a.bits.trans b.bits⟩

theorem Unread.ends (a : Unread s t) (b : Unread t v ∧ EndsSilent v) : Unread s v ∧ EndsSilent v := ⟨a.trans b.1, b.2⟩

/-- The units, the inputs, supervision or the generators change. -/
theorem Unread.update {c : Ctx} {u : Units} {p : Pwm} (h : s.ctx.sup.memOk = false) (hm : c.sup.memOk = s.ctx.sup.memOk)
    (hc : c.cfg = s.ctx.cfg) (hb : BitsKept s.units u) : Unread s { s with ctx := c, units := u, pwm := p } :=
  ⟨hm.trans h, congrArg Cfg.rows hc, congrArg Cfg.fault hc, rfl, hb⟩

theorem Unread.setPwm (h : Unread s t) (p : Pwm) : Unread s { t with pwm := p } := h.trans (.update h.silent rfl rfl (.refl _))

/-- STARTUP is left for FAILSAFE (R116, R169, R176). -/
theorem unread_leaveStartup (h : s.ctx.sup.memOk = false) : Unread s (leaveStartup s) ∧ EndsSilent (leaveStartup s) := by
  let c := leftCtx s.ctx
  let c' : Ctx := { c with sup := { c.sup with mode := .failsafe } }
  let u := setChassisBit .failsafe (startUnitTimers c s.units)
  have run : leaveStartup s = openPorts { s with ctx := c', units := settle c' (enforceFloors c' u) } := by
    rw [leaveStartup]
    exact congrArg openPorts (if_neg (by rw [act_ctx, setCfg_sup, setSup_sup, h]; decide))
  have floors : BitsKept u (settle c' (enforceFloors c' u)) := fanUnit_enforceFloors.bitsKept.trans bitsKept_settle
  have timers : BitsKept s.units (startUnitTimers c s.units) := .of_eq rfl rfl
  have flag : BitsKept (startUnitTimers c s.units) u := (derived_setChassisBit _).built.bitsKept
  rw [run]
  exact ⟨⟨h, rfl, rfl, rfl, (timers.trans flag).trans floors⟩, rfl, rfl, floors.chassis _ (setChassisBit_flag _ _),
    fun l => by rw [openPorts, updAll_get]⟩

theorem unread_finishCold (h : s.ctx.sup.memOk = false) : Unread s (finishCold s) ∧ EndsSilent (finishCold s) := by
  let c : Ctx := { s.ctx with sup := { s.ctx.sup with built := true } }
  let t : State := { s with ctx := c, units := settle c (placeSlots c (sendClear c s.units)) }
  have sent : BitsKept s.units (sendClear c s.units) := .of_eq rfl rfl
  have placed : Unread s t := .update h rfl rfl ((sent.trans (bitsKept_placeSlots (c := c))).trans (bitsKept_settle (c := c)))
  exact placed.ends (unread_leaveStartup h)

theorem unread_finishWarm (h : s.ctx.sup.memOk = false) : Unread s (finishWarm s) ∧ EndsSilent (finishWarm s) := by
  let t : State := { s with ctx := warmCtx s.ctx, units := warmUnits s.ctx (warmCtx s.ctx) s.units }
  have run : finishWarm s = leaveStartup t := by
    rw [finishWarm]
    simp only [State.act, State.setSup, t, warmUnits, warmCtx]
  have acted : Unread s t := .update h rfl rfl
    ((bitsKept_rebuildChannels.trans bitsKept_settle).trans (BitsKept.foldl (fun _ n => bitsKept_slotConditions n) _ _))
  rw [run]
  exact acted.ends (unread_leaveStartup h)

/-- No slot waits for an adoption read. -/
theorem unread_adoptFrom (fuel k : Nat) (h : s.ctx.sup.memOk = false) : Unread s (adoptFrom fuel k s) ∧ EndsSilent (adoptFrom fuel k s) := by
  induction fuel generalizing s k with
  | zero => exact unread_finishWarm h
  | succ fuel ih =>
    rw [adoptFrom]
    split
    · next hk =>
      have unwanted : wantsAdoption s.ctx ⟨k, hk⟩ = false := by rw [wantsAdoption, h]; rfl
      rw [unwanted]
      have settled : Unread s (s.act (settleSlot ⟨k, hk⟩ none)) := .update h rfl rfl bitsKept_settleSlot
      exact settled.ends (ih (k + 1) h)
    · exact unread_finishWarm h

/-- The slots are settled one by one, from the first on. -/
theorem unread_adoption (h : s.ctx.sup.memOk = false) : Unread s (adoptFrom 12 0 (s.setSup (fun x => { x with phase := .adopt 0 })))
    ∧ EndsSilent (adoptFrom 12 0 (s.setSup (fun x => { x with phase := .adopt 0 }))) := by
  have phase : Unread s (s.setSup (fun x => { x with phase := .adopt 0 })) := .update h rfl rfl (.refl _)
  exact phase.ends (unread_adoptFrom 12 0 h)

/-- Inventory and records are built from what is there (R42 to R44). -/
theorem unread_builtState (image : Fin 26 → List Byte) (h : s.ctx.sup.memOk = false) : Unread s (builtState image s) := by
  let c : Ctx := { s.ctx with pins := samplePins s.ctx.pins }
  let u := buildInventory image (!s.ctx.sup.cold && s.ctx.sup.memOk) c s.units
  have inventory : Built s.units u := built_buildInventory image _
  have records : Built u (deriveAll c u) := derived_deriveAll.built
  have state : builtState image s = { s with ctx := c, units := deriveAll c u } := by
    rw [builtState]
    rfl
  rw [state]
  exact .update h rfl rfl (inventory.trans records).bitsKept

theorem unread_buildAll (image : Fin 26 → List Byte) (h : s.ctx.sup.memOk = false) :
    Unread s (buildAll image s) ∧ EndsSilent (buildAll image s) := by
  have built := (unread_builtState image h).setPwm (restGens (builtState image s).units s.pwm)
  rw [buildAll_eq]
  split
  · exact built.ends (unread_adoption built.silent)
  · exact built.ends (unread_finishCold built.silent)

/-- The state in which start-up goes on without an answer: every row on its defaults, the queue emptied, RESTART set (R173, log 31). -/
def unansweredState (s : State) : State :=
  ((generatorsStart { s.setCfg loadDefaults with wq := [] }).setSup (fun x => { x with memOk := false, phase := .records })).act
    (fun _ u => touchOwned (setRestart u))

theorem deviceIdEnds_unanswered (s : State) : deviceIdEnds false s = buildAll (fun _ => []) (unansweredState s) := rfl

end
end Sys2Proof.Machine
end

section
open Sys2Proof Sys2Proof.Machine

/-- Settles O11: with an answer the seven reads of the rows are asked for; without one start-up runs through unread (`unread_buildAll`) from every
row on its defaults (`unansweredState`). -/
theorem deviceIdDecidesStartUp : Obligations.DeviceIdDecidesStartUp := by
  intro s hd
  have run (answered : Bool) : exec (.deviceIdRead answered) s = .next (finish s (deviceIdEnds answered s)) := by
    show done s _ = _
    rw [if_pos hd]
    rfl
  refine ⟨⟨_, run true, rfl, rfl, rfl, rfl, rfl, rfl, rfl, rfl, rfl⟩, ⟨_, run false, ?_⟩⟩
  rw [deviceIdEnds_unanswered]
  obtain ⟨unread, ends⟩ := unread_buildAll (s := unansweredState s) (fun _ => []) rfl
  have chassis : chassisFlag (unansweredState s).units .restart = true := touchOwned_derived.chassisBits _ setRestart_chassis
  have slots (n : Fin 12) : slotFlag (unansweredState s).units n .restart = true := touchOwned_derived.slotBits n _ (setRestart_slot n)
  refine ⟨unread.silent, ends.phase, ends.mode, fun r => ⟨?_, ?_⟩, ends.flag, unread.bits.chassis _ chassis,
    fun n => unread.bits.slot n _ (slots n), ends.opened, (OffPorts.buildAll _ _).wq, buildAll_mem _ _, unread.reads⟩
  · rw [finish_ctx, unread.rows]
    exact ofFn_get _ r
  · rw [finish_ctx, unread.fault]
    exact replicate_get _ r
end

section
/-! PROOFS. What the checks of the 25 shadow rows say together (R170, R172, R173): each row holds alone, and the demands of each curve are in
order. In these terms the defaults, a load and an accepted row keep them. -/

namespace Sys2Proof.Machine

/-! ### Rows alone and in their curves -/

/-- The fields of a row lie in their ranges, and it meets its own conditions (R172). -/
def HoldsAlone (r : Fin 25) (row : Row) : Prop := rowRangesHold r row = true ∧ rowAloneConsistent r row = true

/-- Every row holds alone, and no curve's demands fall. -/
structure RowsFit (rows : Vector Row 25) : Prop where
  alone : ∀ r, HoldsAlone r (rows.get r)
  curves : ∀ z, demandsOrdered (rows.get (curveRows z).1) (rows.get (curveRows z).2) = true

/-- A row belongs to no curve, or it is the first or the second of one. -/
theorem curve_cases (r : Fin 25) : (r.val < 14 ∨ 20 ≤ r.val) ∨ ∃ z, r = (curveRows z).1 ∨ r = (curveRows z).2 := by
  revert r
  decide

theorem curveRows_distinct (z : Fin 3) : (curveRows z).1 ≠ (curveRows z).2 := by simp [curveRows]

section
variable {rows : Vector Row 25} {r : Fin 25} {row : Row} {z : Fin 3}

theorem rowDemandsOrdered_noCurve (h : r.val < 14 ∨ 20 ≤ r.val) : rowDemandsOrdered rows r row = true := if_neg (by omega)

/-- The first row of a curve is judged with the demands that the second holds. -/
theorem rowDemandsOrdered_first : rowDemandsOrdered rows (curveRows z).1 row = true ↔
    wordAt row 4 ≤ wordAt row 6 ∧ wordAt row 6 ≤ wordAt (rows.get (curveRows z).2) 0 := by
  have second : rows.toList.getD ((curveRows z).1.val + 1) [] = rows.get (curveRows z).2 := by
    rw [← toList_getD _ _ []]
    exact congrArg (rows.toList.getD · []) (show 14 + 2 * z.val + 1 = 15 + 2 * z.val by omega)
  have range : 14 ≤ (curveRows z).1.val ∧ (curveRows z).1.val < 20 := by simp only [curveRows]; omega
  have even : (curveRows z).1.val % 2 = 0 := by simp only [curveRows]; omega
  rw [rowDemandsOrdered, if_pos range, if_pos even, second, decide_eq_true_iff]

/-- The second row of a curve is judged with the demands that the first holds. -/
theorem rowDemandsOrdered_second : rowDemandsOrdered rows (curveRows z).2 row = true ↔
    wordAt (rows.get (curveRows z).1) 6 ≤ wordAt row 0 ∧ wordAt row 0 ≤ wordAt row 2 := by
  have first : rows.toList.getD ((curveRows z).2.val - 1) [] = rows.get (curveRows z).1 := by
    rw [← toList_getD _ _ []]
    exact congrArg (rows.toList.getD · []) (show 15 + 2 * z.val - 1 = 14 + 2 * z.val by omega)
  have range : 14 ≤ (curveRows z).2.val ∧ (curveRows z).2.val < 20 := by simp only [curveRows]; omega
  have odd : ¬ (curveRows z).2.val % 2 = 0 := by simp only [curveRows]; omega
  rw [rowDemandsOrdered, if_pos range, if_neg odd, first, decide_eq_true_iff]

/-- A curve is in order when both its rows pass against each other. -/
theorem demandsOrdered_iff {curve limit : Row} : demandsOrdered curve limit = true ↔
    (wordAt curve 4 ≤ wordAt curve 6 ∧ wordAt curve 6 ≤ wordAt limit 0)
      ∧ wordAt curve 6 ≤ wordAt limit 0 ∧ wordAt limit 0 ≤ wordAt limit 2 := by
  rw [demandsOrdered, decide_eq_true_iff]
  tauto

/-- Every row passes its check exactly when all hold alone and every curve is in order. -/
theorem rowsPass_iff {s : State} : RowsPass s ↔ RowsFit s.ctx.cfg.rows := by
  constructor
  · intro h
    refine ⟨fun r => ?_, fun z => ?_⟩
    · obtain ⟨ranges, own, -⟩ := rowCheck_eq_pass.mp (h r)
      exact ⟨ranges, own⟩
    · obtain ⟨-, -, first⟩ := rowCheck_eq_pass.mp (h (curveRows z).1)
      obtain ⟨-, -, second⟩ := rowCheck_eq_pass.mp (h (curveRows z).2)
      exact demandsOrdered_iff.mpr ⟨rowDemandsOrdered_first.mp first, rowDemandsOrdered_second.mp second⟩
  · intro h r
    obtain ⟨ranges, own⟩ := h.alone r
    refine rowCheck_eq_pass.mpr ⟨ranges, own, ?_⟩
    rcases curve_cases r with noCurve | ⟨z, rfl | rfl⟩
    · exact rowDemandsOrdered_noCurve noCurve
    · exact rowDemandsOrdered_first.mpr (demandsOrdered_iff.mp (h.curves z)).1
    · exact rowDemandsOrdered_second.mpr (demandsOrdered_iff.mp (h.curves z)).2

/-! ### Defaults, accepted rows and the load -/

theorem rowsFit_default : RowsFit defaultRows := rowsPass_iff.mp rowsPass_reset

theorem holdsAlone_default (r : Fin 25) : HoldsAlone r (defaultRow r) := by
  have h := rowsFit_default.alone r
  rwa [show defaultRows.get r = defaultRow r from ofFn_get _ r] at h

theorem demandsOrdered_default (z : Fin 3) : demandsOrdered (defaultRow (curveRows z).1) (defaultRow (curveRows z).2) = true := by
  have h := rowsFit_default.curves z
  rwa [show defaultRows.get (curveRows z).1 = _ from ofFn_get _ _, show defaultRows.get (curveRows z).2 = _ from ofFn_get _ _] at h

/-- A row that passes against the shadow takes its place there: the half of its curve that it was not judged for was in order before
(R171, R172). -/
theorem RowsFit.accept (h : RowsFit rows) (hv : rowCheck rows r row = .pass) : RowsFit (updAt rows r (fun _ => row)) := by
  obtain ⟨ranges, own, demands⟩ := rowCheck_eq_pass.mp hv
  refine ⟨fun q => ?_, fun z => ?_⟩
  · rw [updAt_get]
    split
    · next e => exact e ▸ ⟨ranges, own⟩
    · exact h.alone q
  · obtain ⟨first, second⟩ := demandsOrdered_iff.mp (h.curves z)
    have distinct := curveRows_distinct z
    by_cases e1 : r = (curveRows z).1
    · subst e1
      rw [updAt_get_self, updAt_get_ne _ _ _ _ distinct]
      have judged := rowDemandsOrdered_first.mp demands
      exact demandsOrdered_iff.mpr ⟨judged, judged.2, second.2⟩
    · by_cases e2 : r = (curveRows z).2
      · subst e2
        rw [updAt_get_self, updAt_get_ne _ _ _ _ distinct.symm]
        have judged := rowDemandsOrdered_second.mp demands
        exact demandsOrdered_iff.mpr ⟨⟨first.1, judged.1⟩, judged⟩
      · rw [updAt_get_ne _ _ _ _ e1, updAt_get_ne _ _ _ _ e2]
        exact h.curves z

theorem holdsAlone_aloneRow (image : Fin 25 → List Byte) (r : Fin 25) : HoldsAlone r (aloneRow image r) := by
  rw [aloneRow]
  split
  · next loads =>
    simp only [rowLoads, Bool.and_eq_true] at loads
    exact ⟨loads.1.2, loads.2⟩
  · exact holdsAlone_default r

/-- The rows of a loaded curve are those judged alone, in order, or both defaults. -/
theorem loadRows_curveFits (image : Fin 25 → List Byte) (g : Cfg) (z : Fin 3) :
    (HoldsAlone (curveRows z).1 ((loadRows image g).rows.get (curveRows z).1)
      ∧ HoldsAlone (curveRows z).2 ((loadRows image g).rows.get (curveRows z).2))
      ∧ demandsOrdered ((loadRows image g).rows.get (curveRows z).1) ((loadRows image g).rows.get (curveRows z).2) = true := by
  have loaded := loadRows_curve g image z
  split at loaded
  · next ordered =>
    obtain ⟨⟨first, -⟩, second, -⟩ := loaded
    rw [first, second]
    exact ⟨⟨holdsAlone_aloneRow image _, holdsAlone_aloneRow image _⟩, ordered⟩
  · obtain ⟨⟨first, -⟩, second, -⟩ := loaded
    rw [first, second]
    exact ⟨⟨holdsAlone_default _, holdsAlone_default _⟩, demandsOrdered_default z⟩

/-- Whatever memory holds, the rows fit after a load (R170, R173). -/
theorem rowsFit_loadRows (image : Fin 25 → List Byte) (g : Cfg) : RowsFit (loadRows image g).rows := by
  refine ⟨fun r => ?_, fun z => (loadRows_curveFits image g z).2⟩
  rcases curve_cases r with noCurve | ⟨z, rfl | rfl⟩
  · obtain ⟨row, -⟩ := loadRows_alone g image noCurve
    rw [row]
    exact holdsAlone_aloneRow image r
  · exact (loadRows_curveFits image g z).1.1
  · exact (loadRows_curveFits image g z).1.2

end
end Sys2Proof.Machine
end

section
/-! PROOFS. The shadow rows through each command (R170): they change with an accepted row, with the load, and with a restart or a memory that
does not answer, which leave the defaults; every other command leaves them as they are (`RowsPass.of_rows`). -/

namespace Sys2Proof.Machine

section
variable {s t : State}

theorem RowsPass.of_rows (h : RowsPass s) (e : t.ctx.cfg.rows = s.ctx.cfg.rows) : RowsPass t := by
  rw [RowsPass, e]
  exact h

theorem rowsPass_defaults (e : t.ctx.cfg.rows = defaultRows) : RowsPass t := rowsPass_reset.of_rows e

theorem RowsPass.ite {p : Prop} [Decidable p] (hs : RowsPass s) (ht : RowsPass t) : RowsPass (if p then s else t) := by
  split <;> assumption

theorem RowsPass.act (h : RowsPass s) (f : Ctx → Units → Units) : RowsPass (s.act f) := h.of_rows rfl
theorem RowsPass.settled (h : RowsPass s) (f : Ctx → Units → Units) : RowsPass (actAndSettle f s) := h.act _
theorem RowsPass.setSup (h : RowsPass s) (f : Sup → Sup) : RowsPass (s.setSup f) := h.of_rows rfl
theorem RowsPass.updLink (h : RowsPass s) (l : Fin 13) (f : Link → Link) : RowsPass (s.updLink l f) := h.of_rows rfl
theorem RowsPass.withReads (h : RowsPass s) (reads : List IRead) (port : Option Grant) : RowsPass { s with reads := reads, port := port } :=
  h.of_rows rfl

/-! ### Record takes (R148 to R151, R171) -/

theorem RowsPass.takeRow (h : RowsPass s) (r : Fin 25) (bs : Row) : RowsPass (takeRow r bs s) := by
  by_cases hv : rowCheck s.ctx.cfg.rows r bs = .pass
  · obtain ⟨_, _, _, -, e⟩ := takeRow_pass hv
    rw [e]
    exact rowsPass_iff.mpr ((rowsPass_iff.mp h).accept hv)
  · rw [takeRow_fail hv]
    exact h.of_rows rfl

theorem RowsPass.takeCommand (h : RowsPass s) (bs : List Byte) : RowsPass (takeCommand bs s) := by
  obtain ⟨-, -, -, rows, -⟩ := runCommand_frame (byteAt bs 0) (byteAt bs 1) s
  exact h.of_rows rows

theorem RowsPass.handOver (h : RowsPass s) (t : TakeRec) (bs : List Byte) : RowsPass (handOver t bs s) := by
  cases t with
  | command => exact h.takeCommand bs
  | row r => exact h.takeRow r bs
  | identity n | power n | report n | claim n | answer n => exact h.of_rows rfl

theorem RowsPass.completeTake (h : RowsPass s) (l : Fin 13) (bs : List Byte) : RowsPass (completeTake l bs s) := by
  rw [Machine.completeTake]
  split
  · exact h
  · exact .ite (h.updLink l _) ((h.updLink l _).handOver _ bs)

theorem RowsPass.runTakes (h : RowsPass s) (l : Fin 13) (fuel : Nat) : RowsPass (runTakes l fuel s) := by
  induction fuel generalizing s with
  | zero => exact h
  | succ fuel ih =>
    rw [Machine.runTakes]
    split
    · exact h
    split
    · exact ih (h.completeTake l _)
    · exact h.of_rows rfl

theorem markChanged_rows (rs : List TakeRec) (s : State) : (markChanged rs s).ctx.cfg.rows = s.ctx.cfg.rows := by
  rw [markChanged]
  split
  · refine List.foldlRecOn (motive := fun g : Cfg => g.rows = s.ctx.cfg.rows) rs _ rfl (fun g hg t _ => ?_)
    split <;> exact hg
  · rfl

theorem RowsPass.commitRecords (h : RowsPass s) (l : Fin 13) (rs : List TakeRec) : RowsPass (commitRecords l rs s) := by
  have marked : RowsPass (markChanged rs s) := h.of_rows (markChanged_rows rs s)
  exact (marked.updLink l _).runTakes l _

theorem RowsPass.takeRead (h : RowsPass s) (l : Fin 13) : RowsPass (takeRead l s) := by
  rw [Machine.takeRead]
  split
  · exact h
  · exact (h.completeTake l _).runTakes l _

theorem RowsPass.admitWrite (h : RowsPass s) (l : Fin 13) : RowsPass (admitWrite l s) := by
  rw [Machine.admitWrite]
  split
  · exact h
  · next r a _ =>
    have entered : RowsPass (enterQueue l r a s) := h.of_rows rfl
    exact entered.commitRecords l _

/-! ### Links and the memory port (R155, R159 to R167, R175) -/

theorem RowsPass.receive (h : RowsPass s) (l : Fin 13) (bs : List Byte) : RowsPass (receive l bs s) := by
  rw [Machine.receive]
  split
  · exact .ite (h.updLink l _) (h.act _)
  · exact h.act _

theorem RowsPass.judgeHead (h : RowsPass s) (l : Fin 13) : RowsPass (judgeHead l s) := by
  rw [Machine.judgeHead]
  split
  · exact h
  split
  · exact h
  split <;> exact h.of_rows rfl

theorem RowsPass.admitClear (h : RowsPass s) (l : Fin 13) : RowsPass (admitClear l s) := by
  rw [Machine.admitClear]
  split
  · exact h
  · exact h.of_rows rfl

theorem RowsPass.admitHeartbeat (h : RowsPass s) : RowsPass (admitHeartbeat s) := by
  rw [Machine.admitHeartbeat]
  split
  · exact h
  · next r a _ =>
    have entered : RowsPass (enterQueue 0 r a s) := h.of_rows rfl
    exact .ite entered (entered.setSup _)

theorem RowsPass.grantPort (h : RowsPass s) : RowsPass (grantPort s) := by
  rw [Machine.grantPort]
  refine .ite h (.ite (h.withReads _ _) ?_)
  split
  · exact h.of_rows rfl
  · exact h

theorem RowsPass.completeRead (h : RowsPass s) : RowsPass (completeRead s) := by
  rw [Machine.completeRead]
  split
  · split
    · split <;> exact h.of_rows rfl
    · exact h.of_rows rfl
  · exact h

theorem RowsPass.completeDrain (h : RowsPass s) : RowsPass (completeDrain s) := by
  rw [Machine.completeDrain]
  split
  iterate 2 exact h.of_rows rfl
  · exact h

/-! ### Supervision and audit (R174 to R176) -/

theorem RowsPass.enterFailsafe (h : RowsPass s) : RowsPass (enterFailsafe s) := ((h.setSup _).act _).act _

theorem RowsPass.heartbeatLost (h : RowsPass s) : RowsPass (heartbeatLost s) := by
  have late := (h.setSup (fun x => { x with hbTimer := none, served := false })).act (fun _ u => setChassisBit .heartbeatLate u)
  exact .ite late.enterFailsafe late

theorem RowsPass.auditExpires (h : RowsPass s) : RowsPass (auditExpires s) := by
  rw [Machine.auditExpires]
  split <;> exact h.of_rows rfl

theorem judgeRow_rows (r : Fin 25) (bs : List Byte) (s : State) : (judgeRow r bs s).ctx.cfg.rows = s.ctx.cfg.rows := by
  rw [judgeRow]
  split
  · rfl
  · split <;> rfl

theorem nextAudit_rows (r : Fin 25) (s : State) : (nextAudit r s).ctx.cfg.rows = s.ctx.cfg.rows := by
  rw [nextAudit]
  split <;> rfl

theorem RowsPass.auditRead (h : RowsPass s) (r : Fin 25) (bs : List Byte) : RowsPass (auditRead r bs s) :=
  h.of_rows ((nextAudit_rows r _).trans (judgeRow_rows r bs s))

/-! ### Start-up (R173, R177) -/

theorem RowsPass.openPorts (h : RowsPass s) : RowsPass (openPorts s) := h.of_rows rfl

theorem RowsPass.leaveStartup (h : RowsPass s) : RowsPass (leaveStartup s) := by
  rw [Machine.leaveStartup]
  exact RowsPass.openPorts (.ite (h.of_rows rfl) (RowsPass.enterFailsafe (h.of_rows rfl)))

theorem RowsPass.finishCold (h : RowsPass s) : RowsPass (finishCold s) := ((h.setSup _).act _).leaveStartup

theorem RowsPass.finishWarm (h : RowsPass s) : RowsPass (finishWarm s) := ((((h.act _).setSup _).act _).act _).leaveStartup

theorem RowsPass.adoptFrom (h : RowsPass s) (fuel k : Nat) : RowsPass (adoptFrom fuel k s) := by
  induction fuel generalizing s k with
  | zero => exact h.finishWarm
  | succ fuel ih =>
    rw [Machine.adoptFrom]
    split
    · split
      · exact (h.setSup _).withReads _ _
      · exact ih (h.act _) _
    · exact h.finishWarm

theorem RowsPass.adoptRead (h : RowsPass s) (n : Fin 12) : RowsPass (adoptRead n s) := (h.act _).adoptFrom _ _

theorem RowsPass.buildAll (h : RowsPass s) (image : Fin 26 → List Byte) : RowsPass (buildAll image s) := by
  have built : RowsPass { builtState image s with pwm := restGens (builtState image s).units s.pwm } := h.of_rows rfl
  rw [buildAll_eq]
  exact .ite ((built.setSup _).adoptFrom 12 0) built.finishCold

theorem takeStoredCtx_rows (s : State) (c : Ctx) : (takeStoredCtx s c).cfg.rows = c.cfg.rows := by
  rw [takeStoredCtx]
  dsimp only
  split <;> rfl

theorem RowsPass.recordsRead (h : RowsPass s) : RowsPass (recordsRead s) := by
  have taken : RowsPass { s with ctx := takeStoredCtx s s.ctx, units := touchOwned (setRestart (takeStored s s.ctx s.units)) } :=
    h.of_rows (takeStoredCtx_rows s s.ctx)
  exact taken.buildAll _

/-- The load leaves rows that fit, whatever the shadow held (R173). -/
theorem rowsPass_rowsRead (s : State) : RowsPass (rowsRead s) := by
  obtain ⟨_, -, e⟩ := rowsRead_eq s
  have loaded : (rowsRead s).ctx.cfg.rows = (loadRows (fun r => stored s (.row r)) s.ctx.cfg).rows := by
    rw [e, ← rowsCtx_cfg]
  rw [rowsPass_iff, loaded]
  exact rowsFit_loadRows _ _

theorem RowsPass.deviceIdEnds (h : RowsPass s) (answered : Bool) : RowsPass (deviceIdEnds answered s) := by
  cases answered with
  | true => exact h.of_rows rfl
  | false =>
    have unanswered : RowsPass (unansweredState s) := rowsPass_defaults rfl
    rw [deviceIdEnds_unanswered]
    exact unanswered.buildAll _

theorem RowsPass.completeInternal (h : RowsPass s) : RowsPass (completeInternal s) := by
  rw [Machine.completeInternal]
  split
  · next read rest _ _ =>
    have h := h.withReads rest none
    cases read with
    | rows a len last => cases last with
      | true => exact rowsPass_rowsRead _
      | false => exact h
    | records a len last => cases last with
      | true => exact h.recordsRead
      | false => exact h
    | adopt n => exact h.adoptRead n
    | take l => exact h.takeRead l
    | audit row => exact h.auditRead row _
  · exact h.of_rows rfl
  · exact h

/-- A restart leaves the defaults (R177). -/
theorem rowsPass_beginWarm (cause : RestartCause) (s : State) : RowsPass (beginWarm cause s) := rowsPass_defaults rfl

theorem RowsPass.placeNext (h : RowsPass s) : RowsPass (placeNext s) := by
  rw [Machine.placeNext]
  split
  · split
    · dsimp only
      split
      · exact rowsPass_beginWarm _ _
      · exact h.of_rows rfl
    · exact h
  · exact h

/-! ### The shapes of commands -/

theorem RowsPass.slotAct (h : RowsPass s) (n : Fin 12) (f : Ctx → Units → Units) : RowsPass (slotAct n f s) := .ite (h.act f) h

theorem RowsPass.slotEvent (h : RowsPass s) (n : Fin 12) (f : Ctx → Units → Units) : RowsPass (slotEvent n f s) := .ite (h.settled f) h

theorem RowsPass.moduleLost (h : RowsPass s) (b : Fin 14) : RowsPass (moduleLost b s) := h.of_rows rfl

theorem RowsPass.atTimer {f : State → State} (h : RowsPass s) (hf : ∀ t, RowsPass t → RowsPass (f t)) (w : Timer) :
    RowsPass (atTimer w f s) := by
  cases w with
  | none => exact h
  | some d => exact hf _ (h.of_rows rfl)

theorem debounced_cfg {p : Pin} {level : Bool} {c c' : Ctx} (h : debounced c p level = some c') : c'.cfg = c.cfg := by
  rw [debounced] at h
  dsimp only at h
  split at h
  · split at h
    · cases h; rfl
    · cases h
  · cases h

theorem RowsPass.onPin {f : State → State} (h : RowsPass s) (hf : ∀ t, RowsPass t → RowsPass (f t)) (p : Pin) (level : Bool) :
    RowsPass (onPin p level f s) := by
  rw [Machine.onPin]
  split
  · next c hc => exact hf _ (h.of_rows (congrArg Cfg.rows (debounced_cfg hc)))
  · exact h

/-! ### Every command -/

/-- The rows pass in a next state. -/
def NextPasses (o : Host.Outcome State Fault Refusal) : Prop := ∀ t, o = .next t → RowsPass t

theorem RowsPass.next (h : RowsPass t) : NextPasses (.next t) := fun _ e => by cases e; exact h

theorem RowsPass.done (h : RowsPass t) (s : State) : NextPasses (done s t) := RowsPass.next (h.of_rows rfl)

theorem nextPasses_exec (i : Instr) (h : RowsPass s) : NextPasses (exec i s) := by
  cases i with
  | coldStart cause => exact RowsPass.next (rowsPass_defaults rfl)
  | warmRestart => exact (rowsPass_beginWarm .restartLine s).next
  | deviceIdRead answered => exact RowsPass.done (.ite (h.deviceIdEnds answered) h) s
  | internalReadComplete => exact h.completeInternal.done s
  | packetReceived l bs => exact (h.receive l bs).done s
  | headJudgment l => exact (h.judgeHead l).done s
  | writeAdmission l => exact (h.admitWrite l).done s
  | eventWordClear l => exact (h.admitClear l).done s
  | heartbeatWrite => exact h.admitHeartbeat.done s
  | arbiterGrant => exact h.grantPort.done s
  | readComplete => exact h.completeRead.done s
  | writeDrain => exact h.completeDrain.done s
  | writeBackPlacement => exact h.placeNext.next
  | rawInputChange pin level => exact RowsPass.done (h.of_rows (congrArg Cfg.rows (rawChange_cfg s.ctx pin level))) s
  | presLLoss slot => exact (h.onPin (fun _ hv => .ite hv ((hv.updLink _ _).slotEvent slot _)) _ _).done s
  | leverOpening slot => exact (h.onPin (fun _ hv => .ite (hv.slotEvent slot _) hv) _ _).done s
  | presLArrival slot | presSClosing slot | pgoodAssertion slot => exact (h.onPin (fun _ hv => hv.slotAct slot _) _ _).done s
  | pgoodLoss slot | railFltAssertion slot => exact (h.onPin (fun _ hv => hv.slotEvent slot _) _ _).done s
  | overrideRelease _ | railFltRelease _ => exact (h.onPin (fun _ hv => hv) _ _).done s
  | overrideAssertion _ | moduleArrival _ | psuOkLoss _ | psuOkReturn _ | uplLinkFall _ | uplLinkRise _ =>
    exact (h.onPin (fun _ hv => hv.settled _) _ _).done s
  | moduleLoss bay => exact (h.onPin (fun _ hv => hv.moduleLost bay) _ _).done s
  | tachPulse _ | sensorPollEnd _ | senseConversion _ _ => exact (h.act _).done s
  | identityReadAttemptEnd _ => exact (h.settled _).done s
  | seatingTimerExpiry _ | quiesceDeadlineExpiry _ | chargeTimeout _ | capGraceExpiry _ | shedDelayExpiry | updateTimerExpiry _
  | tachGateClose => exact (h.atTimer (fun _ hv => hv.settled _) _).done s
  | settlingTimerExpiry _ | reportAgeTimeout _ | pollTimerExpiry | retryDelayExpiry | sampleTimerExpiry _ | drainTimerExpiry _ =>
    exact (h.atTimer (fun _ hv => hv.act _) _).done s
  | groupStart =>
    refine RowsPass.done ?_ s
    exact h.of_rows rfl
  | crossbarAcknowledge =>
    refine RowsPass.done ?_ s
    split <;> exact h.act _
  | crossbarCommandTimeout carriedOut =>
    refine RowsPass.done ?_ s
    split
    · exact h.atTimer (fun _ hv => hv.act _) _
    · exact h
  | heartbeatTimerExpiry => exact (h.atTimer (fun _ hv => hv.heartbeatLost) _).done s
  | auditPeriodExpiry => exact (h.atTimer (fun _ hv => hv.auditExpires) _).done s

end
end Sys2Proof.Machine
end

section
open Sys2Proof Sys2Proof.Machine

/-- Settles O4: a command on the queue's rest keeps the rows passing (`nextPasses_exec`); a tick leaves them. -/
theorem shadowRowsAlwaysPass : Obligations.ShadowRowsAlwaysPass := by
  intro s t h e
  rw [step] at e
  split at e
  · next i rest _ => exact nextPasses_exec i (s := { s with pending := rest }) (h.of_rows rfl) t e
  · cases e
    exact h.of_rows rfl
end

section
/-! PROOFS. The audit (R174): what one audited row makes of the configuration, the touched records and the internal reads. -/

namespace Sys2Proof.Machine

section
variable {s : State} {r : Fin 25} {bs : List Byte}

/-! ### The period (R174) -/

theorem auditExpires_running (h : s.ctx.cfg.auditing = true) :
    auditExpires s = s.setCfg (fun g => { g with auditTimer := timerOf s.ctx (auditPeriod s.ctx) }) := if_pos h

theorem auditExpires_idle (h : s.ctx.cfg.auditing = false) :
    auditExpires s = startAudit (s.setCfg (fun g => { g with auditTimer := timerOf s.ctx (auditPeriod s.ctx) })) := by
  rw [auditExpires]
  exact if_neg (by rw [setCfg_cfg, h]; decide)

/-! ### One row -/

/-- The audit does not pass over the row, and memory differs from the shadow (R174). -/
def Mismatches (r : Fin 25) (bs : List Byte) (s : State) : Prop :=
  s.ctx.cfg.changed.get r = false ∧ pendingRec s.wb (.row r) = false ∧ bs ≠ rowImage (s.ctx.cfg.rows.get r)

theorem judgeRow_mismatch (h : Mismatches r bs s) :
    judgeRow r bs s = (s.setCfg (fun g => { g with mismatch := updAt g.mismatch r (fun _ => true) })).touch (.row r) := by
  obtain ⟨changed, pending, differs⟩ := h
  rw [pendingRec] at pending
  rw [judgeRow, changed, pending, if_neg (by decide), if_neg differs]

theorem judgeRow_clean (h : ¬ Mismatches r bs s) : judgeRow r bs s = s := by
  rw [judgeRow]
  split
  · rfl
  · next kept =>
    rw [Bool.or_eq_true, not_or, Bool.not_eq_true, Bool.not_eq_true] at kept
    exact if_pos (by by_contra differs; exact h ⟨kept.1, kept.2, differs⟩)

/-- The judgment of a row sets its mismatch bit and touches it, or changes nothing. -/
theorem judgeRow_eq (r : Fin 25) (bs : List Byte) (s : State) : ∃ (mismatch : Vector Bool 25) (touched : List RecId),
    judgeRow r bs s = { s with
      ctx := { s.ctx with cfg := { s.ctx.cfg with mismatch := mismatch } }, units := { s.units with touched := touched } }
      ∧ (∀ q, q ≠ r → mismatch.get q = s.ctx.cfg.mismatch.get q)
      ∧ (mismatch.get r = true ↔ s.ctx.cfg.mismatch.get r = true ∨ Mismatches r bs s)
      ∧ (Mismatches r bs s → RecId.row r ∈ touched) := by
  by_cases h : Mismatches r bs s
  · refine ⟨updAt s.ctx.cfg.mismatch r (fun _ => true), s.units.touched ++ [RecId.row r], judgeRow_mismatch h,
      fun q hq => updAt_get_ne _ _ _ _ hq.symm, by simp [h], fun _ => by simp⟩
  · exact ⟨s.ctx.cfg.mismatch, s.units.touched, judgeRow_clean h, fun _ _ => rfl, by simp [h], fun hm => absurd hm h⟩

/-- After a row the next one is asked for, or the audit ends with its count and its bit. -/
theorem nextAudit_eq (r : Fin 25) (s : State) : ∃ (auditing : Bool) (nextRow : Nat) (count : BitVec 16) (word : BitVec 32) (reads : List IRead),
    nextAudit r s = { s with
      ctx := { s.ctx with cfg := { s.ctx.cfg with auditing := auditing, nextRow := nextRow, auditCount := count } }
      units := { s.units with chassisEvent := word }
      reads := reads }
      ∧ (∀ h : r.val < 24, reads = s.reads ++ [.audit ⟨r.val + 1, by omega⟩] ∧ nextRow = r.val + 1
        ∧ auditing = s.ctx.cfg.auditing ∧ count = s.ctx.cfg.auditCount)
      ∧ (r.val = 24 → reads = s.reads ∧ auditing = false ∧ count = s.ctx.cfg.auditCount + 1
        ∧ word = (setChassisBit .auditDone s.units).chassisEvent) := by
  by_cases h : r.val + 1 < 25
  · exact ⟨_, _, _, _, _, dif_pos h, fun _ => ⟨rfl, rfl, rfl, rfl⟩, fun last => by omega⟩
  · exact ⟨_, _, _, _, _, dif_neg h, fun more => by omega, fun _ => ⟨rfl, rfl, rfl, rfl⟩⟩

/-- What the read of an audited row ends with. -/
theorem exec_audit {rest : List IRead} (hp : s.port = some .internal) (hr : s.reads = .audit r :: rest) :
    exec .internalReadComplete s = .next (finish s (auditRead r (readSpan s.wq s.mem (16 * r.val) 16) { s with reads := rest, port := none })) := by
  show done s (completeInternal s) = _
  rw [completeInternal, hp, hr]
  rfl

end

/-- A record that waits or is touched stands in the pending set with its present content at the end of the step (R157). -/
theorem finish_waiting {pre post : State} {r : RecId} (h : pendingRec post.wb r = true ∨ r ∈ post.units.touched) :
    ∃ e ∈ (finish pre post).wb, e.record = r ∧ e.content = recBytes post.ctx post.units r := by
  obtain ⟨waits, latest, -⟩ := changedRecordsJoinTheSet pre post r
  obtain ⟨e, mem, record⟩ := List.mem_map.mp (pendingRec_iff.mp (waits.mp (h.imp_right .inl)))
  exact ⟨e, mem, record, latest e mem record⟩

end Sys2Proof.Machine
end

section
open Sys2Proof Sys2Proof.Machine

/-- Settles O14: the period starts an audit or finds one running (`auditExpires_idle`, `auditExpires_running`); an audited row is judged
(`judgeRow_eq`) before the next is asked for (`nextAudit_eq`), and one that differs waits in the pending set (`finish_waiting`). -/
theorem auditRunsOverTheRows : Obligations.AuditRunsOverTheRows := by
  refine ⟨fun s d hd => ?_, fun s r rest hport hreads => ?_⟩
  · have run : exec .auditPeriodExpiry s = .next (finish s (auditExpires { s with ctx := atDeadline s.ctx d })) := by
      show done s (atTimer s.ctx.cfg.auditTimer auditExpires s) = _
      rw [hd]
      rfl
    cases auditing : s.ctx.cfg.auditing with
    | true =>
      rw [auditExpires_running (s := { s with ctx := atDeadline s.ctx d }) auditing] at run
      exact ⟨_, run, rfl, rfl, rfl, rfl, rfl, rfl, rfl, rfl, rfl, nofun, fun _ => ⟨rfl, rfl, rfl⟩⟩
    | false =>
      rw [auditExpires_idle (s := { s with ctx := atDeadline s.ctx d }) auditing] at run
      exact ⟨_, run, rfl, rfl, rfl, rfl, rfl, rfl, rfl, rfl, rfl,
        fun _ => ⟨rfl, rfl, rfl, fun r => ⟨replicate_get _ r, replicate_get _ r⟩⟩, nofun⟩
  · obtain ⟨mismatch, touched, judged, others, own, joins⟩ :=
      judgeRow_eq r (readSpan s.wq s.mem (16 * r.val) 16) { s with reads := rest, port := none }
    obtain ⟨auditing, nextRow, count, word, reads, next, more, last⟩ :=
      nextAudit_eq r (judgeRow r (readSpan s.wq s.mem (16 * r.val) 16) { s with reads := rest, port := none })
    have run := exec_audit hport hreads
    rw [auditRead, next, judged] at run
    rw [judged] at more last
    refine ⟨_, run, rfl, rfl, rfl, rfl, others, own, fun changed differs => finish_waiting ?_, more, fun h => ?_, rfl, rfl, rfl, rfl, rfl, rfl⟩
    · by_cases pending : pendingRec s.wb (.row r) = true
      · exact .inl pending
      · exact .inr (joins ⟨changed, Bool.eq_false_of_not_eq_true pending, differs⟩)
    · obtain ⟨readsEq, ended, counted, wordEq⟩ := last h
      exact ⟨readsEq, ended, counted, by rw [finish_units, wordEq]; exact setChassisBit_flag _ _⟩
end

section
/-! PROOFS. The queue of waiting commands: only `step` takes from it, so every operation of a command leaves it as it was. -/

namespace Sys2Proof.Machine

theorem ite_pending {s t v : State} {p : Prop} [Decidable p] (a : t.pending = s.pending) (b : v.pending = s.pending) :
    (if p then t else v).pending = s.pending := by
  split <;> assumption

section
variable (l : Fin 13) (bs : List Byte) (s : State)

/-! ### Rows, manager commands and record takes (R148 to R153, R171) -/

theorem applyRow_pending (old : Ctx) (r : Fin 25) : (applyRow old r s).pending = s.pending := by
  obtain ⟨hb, audit, u, -, e⟩ := applyRow_eq old r s
  rw [e]

theorem takeRow_pending (r : Fin 25) : (takeRow r bs s).pending = s.pending := by
  rw [takeRow]
  split
  iterate 2 rfl
  · exact applyRow_pending _ _ _

theorem slotCmd_pending (kind : Nat) (n : Fin 12) : (slotCmd kind n s).2.pending = s.pending := by
  simp only [slotCmd, apply_ite Prod.snd, unitsCmd]
  exact ite_pending rfl (ite_pending rfl (ite_pending rfl rfl))

theorem cmdClearFailsafe_pending : (cmdClearFailsafe s).2.pending = s.pending := by
  simp only [cmdClearFailsafe, apply_ite Prod.snd]
  exact ite_pending rfl (ite_pending rfl rfl)

theorem runCommand_pending (kind target : Nat) : (runCommand kind target s).2.pending = s.pending := by
  rw [runCommand]
  split
  · split
    · exact slotCmd_pending _ _ _
    · rfl
  simp only [apply_ite Prod.snd, unitsCmd]
  exact ite_pending rfl (ite_pending (ite_pending rfl rfl) (ite_pending (cmdClearFailsafe_pending s) (ite_pending rfl rfl)))

theorem takeCommand_pending : (takeCommand bs s).pending = s.pending := runCommand_pending _ _ _

theorem handOver_pending (t : TakeRec) : (handOver t bs s).pending = s.pending := by
  cases t with
  | command => exact takeCommand_pending bs s
  | row r => exact takeRow_pending bs s r
  | identity n | power n | report n | claim n | answer n => rfl

theorem completeTake_pending : (completeTake l bs s).pending = s.pending := by
  rw [completeTake]
  split
  · rfl
  · exact ite_pending rfl (handOver_pending _ _ _)

theorem runTakes_pending (fuel : Nat) : (runTakes l fuel s).pending = s.pending := by
  induction fuel generalizing s with
  | zero => rfl
  | succ fuel ih =>
    rw [runTakes]
    split
    · rfl
    split
    · rw [ih, completeTake_pending]
    · rfl

theorem commitRecords_pending (rs : List TakeRec) : (commitRecords l rs s).pending = s.pending := by
  rw [commitRecords, runTakes_pending]
  exact ite_pending rfl rfl

theorem takeRead_pending : (takeRead l s).pending = s.pending := by
  rw [takeRead]
  split
  · rfl
  · rw [runTakes_pending, completeTake_pending]

/-! ### Supervision and the audit (R174 to R176) -/

theorem heartbeatTaken_pending (v : Byte) : (heartbeatTaken v s).pending = s.pending := ite_pending rfl rfl

theorem heartbeatLost_pending : (heartbeatLost s).pending = s.pending := ite_pending rfl rfl

theorem auditExpires_pending : (auditExpires s).pending = s.pending := ite_pending rfl rfl

theorem auditRead_pending (r : Fin 25) : (auditRead r bs s).pending = s.pending := by
  have judged : (judgeRow r bs s).pending = s.pending := ite_pending rfl (ite_pending rfl rfl)
  rw [auditRead, nextAudit]
  split <;> exact judged

/-! ### Start-up (R169, R173, R177) -/

theorem leaveStartup_pending : (leaveStartup s).pending = s.pending := ite_pending rfl rfl

theorem finishWarm_pending : (finishWarm s).pending = s.pending := by
  rw [finishWarm, leaveStartup_pending, act_pending, act_pending, setSup_pending, act_pending]

theorem adoptFrom_pending (fuel k : Nat) : (adoptFrom fuel k s).pending = s.pending := by
  induction fuel generalizing s k with
  | zero => exact finishWarm_pending s
  | succ fuel ih =>
    rw [adoptFrom]
    split
    · split
      · rfl
      · exact ih _ _
    · exact finishWarm_pending s

theorem buildAll_pending (image : Fin 26 → List Byte) : (buildAll image s).pending = s.pending := by
  rw [buildAll_eq]
  exact ite_pending (adoptFrom_pending _ _ _) (leaveStartup_pending _)

theorem rowsRead_pending : (rowsRead s).pending = s.pending := by
  obtain ⟨l, -, e⟩ := rowsRead_eq s
  rw [e]

theorem deviceIdEnds_pending (answered : Bool) : (deviceIdEnds answered s).pending = s.pending :=
  ite_pending rfl (buildAll_pending _ _)

theorem internalData_pending (r : IRead) : (internalData r s).pending = s.pending := by
  cases r with
  | rows a len last => exact ite_pending (rowsRead_pending s) rfl
  | records a len last => exact ite_pending (buildAll_pending _ _) rfl
  | adopt n => exact adoptFrom_pending _ _ _
  | take l => exact takeRead_pending l s
  | audit row => exact auditRead_pending _ s row

/-! ### Link ports, arbiter and memory port (R155, R157 to R167) -/

theorem receive_pending : (receive l bs s).pending = s.pending := by
  rw [receive]
  split
  · exact ite_pending rfl rfl
  · rfl

theorem judgeHead_pending : (judgeHead l s).pending = s.pending := by
  rw [judgeHead]
  split
  · rfl
  · refine ite_pending rfl ?_
    split <;> rfl

theorem admitWrite_pending : (admitWrite l s).pending = s.pending := by
  rw [admitWrite]
  split
  · rfl
  · exact commitRecords_pending _ _ _

theorem admitHeartbeat_pending : (admitHeartbeat s).pending = s.pending := by
  rw [admitHeartbeat]
  split
  · rfl
  · exact heartbeatTaken_pending _ _

theorem admitClear_pending : (admitClear l s).pending = s.pending := by
  rw [admitClear]
  split <;> rfl

theorem grantPort_pending : (grantPort s).pending = s.pending := by
  rw [grantPort]
  refine ite_pending rfl (ite_pending rfl ?_)
  split <;> rfl

theorem completeRead_pending : (completeRead s).pending = s.pending := by
  rw [completeRead]
  split
  · split
    · split <;> rfl
    · rfl
  · rfl

theorem completeDrain_pending : (completeDrain s).pending = s.pending := by
  rw [completeDrain]
  split <;> rfl

theorem completeInternal_pending : (completeInternal s).pending = s.pending := by
  rw [completeInternal]
  split
  · exact internalData_pending _ _
  · rfl
  · rfl

/-- The warm restart that a placement may begin keeps the queue too (R178). -/
theorem placeNext_pending : (placeNext s).pending = s.pending := by
  rw [placeNext]
  refine ite_pending ?_ rfl
  split
  · exact ite_pending rfl rfl
  · rfl

/-! ### The shapes of commands -/

theorem atTimer_pending {f : State → State} (hf : ∀ v, (f v).pending = v.pending) (t : Timer) : (atTimer t f s).pending = s.pending := by
  cases t with
  | none => rfl
  | some d => exact hf _

theorem onPin_pending {f : State → State} (hf : ∀ v, (f v).pending = v.pending) (p : Pin) (level : Bool) :
    (onPin p level f s).pending = s.pending := by
  rw [onPin]
  split
  · exact hf _
  · rfl

theorem slotEvent_pending (n : Fin 12) (f : Ctx → Units → Units) : (slotEvent n f s).pending = s.pending := ite_pending rfl rfl

theorem slotAct_pending (n : Fin 12) (f : Ctx → Units → Units) : (slotAct n f s).pending = s.pending := ite_pending rfl rfl

/-! ### Every command -/

/-- The command answers a next state with the queue as it was. -/
def LeavesQueue (s : State) (o : Host.Outcome State Fault Refusal) : Prop := ∃ t, o = .next t ∧ t.pending = s.pending

variable {s}

theorem leavesQueue_next {t : State} (h : t.pending = s.pending) : LeavesQueue s (.next t) := ⟨t, rfl, h⟩

/-- The end of a step leaves the queue to the operation (`finish_pending`). -/
theorem leavesQueue_done {t : State} (h : t.pending = s.pending) : LeavesQueue s (done s t) := leavesQueue_next h

theorem leavesQueue_exec (i : Instr) (s : State) : LeavesQueue s (exec i s) := by
  cases i with
  | coldStart _ | warmRestart => exact leavesQueue_next rfl
  | deviceIdRead answered => exact leavesQueue_done (ite_pending (deviceIdEnds_pending s answered) rfl)
  | internalReadComplete => exact leavesQueue_done (completeInternal_pending s)
  | packetReceived l bs => exact leavesQueue_done (receive_pending l bs s)
  | headJudgment l => exact leavesQueue_done (judgeHead_pending l s)
  | writeAdmission l => exact leavesQueue_done (admitWrite_pending l s)
  | eventWordClear l => exact leavesQueue_done (admitClear_pending l s)
  | heartbeatWrite => exact leavesQueue_done (admitHeartbeat_pending s)
  | arbiterGrant => exact leavesQueue_done (grantPort_pending s)
  | readComplete => exact leavesQueue_done (completeRead_pending s)
  | writeDrain => exact leavesQueue_done (completeDrain_pending s)
  | writeBackPlacement => exact leavesQueue_next (placeNext_pending s)
  | presLLoss slot => exact leavesQueue_done (onPin_pending s (fun v => ite_pending rfl (slotEvent_pending (discardTakes slot v) slot _)) _ _)
  | leverOpening slot => exact leavesQueue_done (onPin_pending s (fun v => ite_pending (slotEvent_pending v slot _) rfl) _ _)
  | presLArrival slot | presSClosing slot | pgoodAssertion slot =>
    exact leavesQueue_done (onPin_pending s (fun v => slotAct_pending v slot _) _ _)
  | pgoodLoss slot | railFltAssertion slot => exact leavesQueue_done (onPin_pending s (fun v => slotEvent_pending v slot _) _ _)
  | overrideRelease _ | railFltRelease _ | overrideAssertion _ | moduleArrival _ | moduleLoss _ | psuOkLoss _ | psuOkReturn _ | uplLinkFall _
  | uplLinkRise _ => exact leavesQueue_done (onPin_pending s (fun _ => by rfl) _ _)
  | rawInputChange _ _ | tachPulse _ | sensorPollEnd _ | senseConversion _ _ | identityReadAttemptEnd _ | groupStart =>
    exact leavesQueue_done rfl
  | seatingTimerExpiry _ | quiesceDeadlineExpiry _ | chargeTimeout _ | capGraceExpiry _ | shedDelayExpiry | updateTimerExpiry _
  | tachGateClose | settlingTimerExpiry _ | reportAgeTimeout _ | pollTimerExpiry | retryDelayExpiry | sampleTimerExpiry _
  | drainTimerExpiry _ => exact leavesQueue_done (atTimer_pending s (fun _ => by rfl) _)
  | crossbarAcknowledge => exact leavesQueue_done (by split <;> rfl)
  | crossbarCommandTimeout carriedOut =>
    refine leavesQueue_done ?_
    split
    · exact atTimer_pending s (fun _ => by rfl) _
    · rfl
  | heartbeatTimerExpiry => exact leavesQueue_done (atTimer_pending s heartbeatLost_pending _)
  | auditPeriodExpiry => exact leavesQueue_done (atTimer_pending s auditExpires_pending _)

end

/-! ### The step -/

theorem step_cons (c : Instr) (rest : List Instr) (s : State) :
    step { s with pending := c :: rest } = exec c { s with pending := rest } := rfl

theorem step_idle {s : State} (h : s.pending = []) : step s = .next s.tick := by rw [step, h]

end Sys2Proof.Machine
end

section
open Sys2Proof Sys2Proof.Machine

/-- Settles O1: the front command runs on the queue's rest (`step_cons`), and an idle step is the tick of one millisecond (`step_idle`). -/
theorem stepTakesTheFrontCommand : Obligations.StepTakesTheFrontCommand := ⟨step_cons, fun _ => step_idle⟩

/-- Settles O2: by cases on the command, each of which ends in a next state after operations that leave the queue (`leavesQueue_exec`). -/
theorem everyCommandCompletesAndLeavesTheQueue : Obligations.EveryCommandCompletesAndLeavesTheQueue := leavesQueue_exec
end
